-- ==== Sys2Proof/Word.lean ====
section
/-! DEFINITION. The word types of the machine (spec/00_scope.md R3, spec/02_words.md R39). -/

namespace Sys2Proof

/-- A 64-bit scalar register, address or CSR (R39). -/
abbrev Word := BitVec 64

/-- One byte of memory. -/
abbrev Byte := BitVec 8

/-- A register number of a five-bit field (R49). -/
abbrev Reg := BitVec 5

/-- A vector register: 8192 bits (R39). -/
abbrev VReg := BitVec 8192

/-- A predicate register, or any mask with one bit per element: 2048 bits (R39, R206). -/
abbrev PReg := BitVec 2048

end Sys2Proof
end

