-- ==== Sys2Proof/Syntax.lean ====
section
/-! DEFINITION. The syntax: one constructor of `Instr` per row of spec/opcode_table.json
(spec/02_words.md R49 to R60 for the 206 instruction words; spec/95_what_each_step_holds.md lists
the 89 events, which have no word). -/

namespace Sys2Proof

/-- The two sequencers of a hart (R13). -/
inductive Side where
  | A
  | X
deriving DecidableEq, Repr, Inhabited

/-- A rounding field of an instruction word (R52); `dyn` takes VT.RM or FRM. -/
inductive RM where
  | dyn | rne | rtz | rdn | rup | rna
deriving DecidableEq, Repr, Inhabited

/-- A scope code (R52, R148). -/
inductive Scope where
  | hart | caravan | die | device | system
deriving DecidableEq, Repr, Inhabited

/-- An element size (R52): 8, 16, 32, 64 bits, or 4 bits packed two to a byte. -/
inductive Esz where
  | e8 | e16 | e32 | e64 | e4
deriving DecidableEq, Repr, Inhabited

/-- The kind of the B operand of a vector instruction, coded in FM (R51). -/
inductive BKind where
  | vec | scal | imm
deriving DecidableEq, Repr, Inhabited

/-- The floating-point type of a scalar FP word, coded in FM (R54). -/
inductive FTy where
  | d | s | h
deriving DecidableEq, Repr, Inhabited

/-- The integer side of a scalar conversion (R55). -/
inductive IKind where
  | i64 | n64 | i32 | n32
deriving DecidableEq, Repr, Inhabited

/-- The conversion code of FCVT (R55). -/
inductive FCvt where
  | fromF (t : FTy)
  | fromI (k : IKind)
  | toI (k : IKind)
deriving DecidableEq, Repr, Inhabited

/-- The conditions of FCMP (R54). -/
inductive FCond where
  | eq | ne | lt | le | un
deriving DecidableEq, Repr, Inhabited

/-- The conditions of VFCMP (R58). -/
inductive VFCond where
  | eq | ne | lt | le | gt | ge | un | ord
deriving DecidableEq, Repr, Inhabited

/-- The conditions of VCMP (R58). -/
inductive VCond where
  | eq | ne | lt | ge | ltn | gen
deriving DecidableEq, Repr, Inhabited

/-- The element types of R53 that VCVT takes as its source. -/
inductive VTy where
  | i8 | i16 | i32 | i64 | n8 | n16 | n32 | n64 | f64 | f32 | f16 | bf16 | e4m3 | e5m2 | e2m1
deriving DecidableEq, Repr, Inhabited

/-- The input types of MMA (R53). -/
inductive MTy where
  | f64 | f16 | bf16 | e2m1 | e4m3e4m3 | e4m3e5m2 | e5m2e4m3 | e5m2e5m2
deriving DecidableEq, Repr, Inhabited

/-- The C element types of MMAZ (R53). -/
inductive ZTy where
  | f64 | f32
deriving DecidableEq, Repr, Inhabited

/-- The element types of MTRANS (R53). -/
inductive TTy where
  | i16 | n16 | f16 | bf16
deriving DecidableEq, Repr, Inhabited

/-- The two plane families (R208). -/
inductive Fam where
  | e8 | e11
deriving DecidableEq, Repr, Inhabited

/-- The CSRs of Probuam edition 1 (R106). -/
inductive Csr where
  | fflags | frm | vstart | vl | vt | vlmax | lanes | psnstat | stripsz | xlink | atomsz
  | almt | budget | preq | qwait | carv | sticky
  | optlr | optb1 | optb2 | opteps | optwd | optbc
  | wuchg | feat
  | status | cause | epc | tval | tvec | scratch | tval2 | xepc
  | pregrace | shctl | lanemap | wearst | wurec | dbgctl
deriving DecidableEq, Repr, Inhabited

/-- A hart by the compute die, the slot tag of its caravan and its hart index (R18, R24, R25).
The tag names the caravan wherever it is placed. -/
structure HartKey where
  die  : Nat
  slot : Nat
  idx  : Nat
deriving DecidableEq, Repr, Inhabited

/-- A caravan by its compute die and slot tag (R25). -/
structure CarId where
  die  : Nat
  slot : Nat
deriving DecidableEq, Repr, Inhabited

/-- A slice by the die that holds it and its number there (R333). -/
structure SliceId where
  die : Nat
  num : Nat
deriving DecidableEq, Repr, Inhabited

/-- A copy or command: of a hart, by its SEQ (R264), of a command processor's graph node (R353), or a copy of a
die's topology engine for MMIG or MHALO (R310, R312). -/
inductive CmdId where
  | hart (k : HartKey) (seq : Nat)
  | graph (g : Nat) (n : Nat)
  | topo (die : Nat) (n : Nat)
deriving DecidableEq, Repr, Inhabited

/-- An external port that a copy can cross (R11, R388, R400). -/
inductive Port where
  | host (io : Nat)
  | bl (n : Nat)
  | ep (n : Nat)
deriving DecidableEq, Repr, Inhabited

/-- A unit that READY reports (R393). -/
inductive RUnit where
  | ep (n : Nat) | bl (n : Nat) | hbm (n : Nat) | cd (n : Nat) | cps (n : Nat) | hostLink (n : Nat)
deriving DecidableEq, Repr, Inhabited

/-- The region a warm reset names as failed (R378). -/
inductive FailRegion where
  | compute (die : Nat)
  | io (n : Nat)
deriving DecidableEq, Repr, Inhabited

/-- A request of a peer device against this device's exports (R401). -/
structure PeerReq where
  peer  : Nat
  rkey  : BitVec 32
  addr  : Nat
  len   : Nat
  wr    : Option (List Byte)
deriving DecidableEq, Repr, Inhabited

/-- A device register of R390 that has no row of its own, or a CSR of a hart (REGISTER_WRITE). -/
inductive RegTarget where
  | csr (k : HartKey) (c : Csr)
  | ctxallow (ctx : Nat)
  | rwin (ctx k word : Nat)
  | exprt (ctx k word : Nat)
  | readOnly (off : Nat)
deriving DecidableEq, Repr, Inhabited

/-- What the boot ROM finds in one flash slot (R397): the 256 bytes of its header, byte k at bits [8k+7:8k], and its
body. -/
structure FwImage where
  head : BitVec 2048
  body : List Byte
deriving DecidableEq, Repr, Inhabited

/-- One instruction word, or one event of the device. -/
inductive Instr where
  -- integer, OP 0x01 to 0x03 (R81, R82)
  | add (d a b : Reg) | sub (d a b : Reg) | and (d a b : Reg) | or (d a b : Reg) | xor (d a b : Reg)
  | sll (d a b : Reg) | srl (d a b : Reg) | sra (d a b : Reg) | slt (d a b : Reg) | sltn (d a b : Reg)
  | min (d a b : Reg) | max (d a b : Reg) | minn (d a b : Reg) | maxn (d a b : Reg)
  | mul (d a b : Reg) | mulh (d a b : Reg) | mulhn (d a b : Reg)
  | div (d a b : Reg) | divn (d a b : Reg) | rem (d a b : Reg) | remn (d a b : Reg)
  | clz (d a : Reg) | ctz (d a : Reg) | popc (d a : Reg) | brev (d a : Reg)
  -- immediates, OP 0x04 to 0x0C (R83)
  | addi (d a : Reg) (imm : BitVec 15) | andi (d a : Reg) (imm : BitVec 15)
  | ori (d a : Reg) (imm : BitVec 15) | xori (d a : Reg) (imm : BitVec 15)
  | slli (d a : Reg) (sh : BitVec 6) | srli (d a : Reg) (sh : BitVec 6) | srai (d a : Reg) (sh : BitVec 6)
  | slti (d a : Reg) (imm : BitVec 15) | lih (d : Reg) (imm : BitVec 20)
  -- control, OP 0x10 to 0x15 (R84 to R91)
  | beq (a b : Reg) (off : BitVec 12) | bne (a b : Reg) (off : BitVec 12)
  | blt (a b : Reg) (off : BitVec 12) | bge (a b : Reg) (off : BitVec 12)
  | bltn (a b : Reg) (off : BitVec 12) | bgen (a b : Reg) (off : BitVec 12)
  | jal (d : Reg) (off : BitVec 20) | jalr (d a : Reg) (imm : BitVec 15)
  | loop (a : Reg) (e : BitVec 12) | loopi (count : BitVec 13) (e : BitVec 12)
  | lidx (d : Reg) (l : BitVec 5) | lbrk (l : BitVec 5)
  -- CSRs, OP 0x18 (R103)
  | csrr (d : Reg) (c : Csr) | csrw (d a : Reg) (c : Csr) | csrs (d a : Reg) (c : Csr) | csrc (d a : Reg) (c : Csr)
  -- system, OP 0x19 and 0x1A (R100, R159, R162)
  | ecall | eret | brk | wfe
  | fence (pred succ : BitVec 3) (scope : Scope) | fencei
  -- scalar floating point, OP 0x1C (R94)
  | fadd (t : FTy) (rm : RM) (d a b : Reg) | fsub (t : FTy) (rm : RM) (d a b : Reg)
  | fmul (t : FTy) (rm : RM) (d a b : Reg) | fdiv (t : FTy) (rm : RM) (d a b : Reg)
  | fsqrt (t : FTy) (rm : RM) (d a : Reg) | ffma (t : FTy) (rm : RM) (d a b : Reg)
  | fmin (t : FTy) (d a b : Reg) | fmax (t : FTy) (d a b : Reg)
  | fcmp (t : FTy) (c : FCond) (d a b : Reg) | fcvt (t : FTy) (k : FCvt) (rm : RM) (d a : Reg)
  -- scalar memory, OP 0x20 to 0x2B (R113)
  | ldb (d a : Reg) (imm : BitVec 15) | ldbn (d a : Reg) (imm : BitVec 15)
  | ldh (d a : Reg) (imm : BitVec 15) | ldhn (d a : Reg) (imm : BitVec 15)
  | ldw (d a : Reg) (imm : BitVec 15) | ldwn (d a : Reg) (imm : BitVec 15)
  | ldd (d a : Reg) (imm : BitVec 15)
  | stb (d a : Reg) (imm : BitVec 15) | sth (d a : Reg) (imm : BitVec 15)
  | stw (d a : Reg) (imm : BitVec 15) | std (d a : Reg) (imm : BitVec 15)
  -- windows, queues, lengths, OP 0x2C to 0x2F (R116 to R123)
  | sptest (d a : Reg) | spcast (d a : Reg)
  | pushs (q a : Reg) | pops (d q : Reg)
  | strip (d a b : Reg) (n : BitVec 3) (lmul : BitVec 2) (sew : Esz)
  | setvl (d a : Reg) | vltake (d : Reg) | lchk (d a b : Reg)
  -- vector memory, OP 0x30 to 0x3C (R127, R212)
  | vld (q b : Reg) (acq nt : Bool) (e : Esz)
  | vlds (q b s : Reg) (acq nt : Bool) (e : Esz)
  | vldx (q b x : Reg) (acq nt dedup : Bool) (e : Esz)
  | vldff (q b : Reg) (acq nt : Bool) (e : Esz)
  | vldp (q b s : Reg) (pl : BitVec 2) (acq nt rnd : Bool) (fam : Fam)
  | vst (q b : Reg) (rel nt : Bool) (e : Esz)
  | vsts (q b s : Reg) (rel nt : Bool) (e : Esz)
  | vstx (q b x : Reg) (rel nt : Bool) (e : Esz)
  | vstxadd (q b x : Reg) (rel nt fp : Bool) (e : Esz)
  | vstp (q b s : Reg) (pl : BitVec 2) (rel nt zlow : Bool) (fam : Fam)
  -- atomics, OP 0x3E (R154); w64 is FN[4]
  | amoadd (d a b : Reg) (acq rel : Bool) (sc : Scope) (w64 : Bool)
  | amoand (d a b : Reg) (acq rel : Bool) (sc : Scope) (w64 : Bool)
  | amoor (d a b : Reg) (acq rel : Bool) (sc : Scope) (w64 : Bool)
  | amoxor (d a b : Reg) (acq rel : Bool) (sc : Scope) (w64 : Bool)
  | amomin (d a b : Reg) (acq rel : Bool) (sc : Scope) (w64 : Bool)
  | amomax (d a b : Reg) (acq rel : Bool) (sc : Scope) (w64 : Bool)
  | amominn (d a b : Reg) (acq rel : Bool) (sc : Scope) (w64 : Bool)
  | amomaxn (d a b : Reg) (acq rel : Bool) (sc : Scope) (w64 : Bool)
  | amoswap (d a b : Reg) (acq rel : Bool) (sc : Scope) (w64 : Bool)
  | amocas (d a b : Reg) (acq rel : Bool) (sc : Scope) (w64 : Bool)
  | amofadd (d a b : Reg) (acq rel : Bool) (sc : Scope) (w64 : Bool)
  -- vector floating point, OP 0x40 to 0x4F (R186, R187)
  | vfadd (d a b : Reg) (fm : BKind) (pg : BitVec 3) (rm : RM)
  | vfsub (d a b : Reg) (fm : BKind) (pg : BitVec 3) (rm : RM)
  | vfmul (d a b : Reg) (fm : BKind) (pg : BitVec 3) (rm : RM)
  | vfdiv (d a b : Reg) (fm : BKind) (pg : BitVec 3) (rm : RM)
  | vfsqrt (d a : Reg) (pg : BitVec 3) (rm : RM)
  | vfma (d a b : Reg) (fm : BKind) (pg : BitVec 3) (rm : RM)
  | vfms (d a b : Reg) (fm : BKind) (pg : BitVec 3) (rm : RM)
  | vfnma (d a b : Reg) (fm : BKind) (pg : BitVec 3) (rm : RM)
  | vfnms (d a b : Reg) (fm : BKind) (pg : BitVec 3) (rm : RM)
  | vfmin (d a b : Reg) (fm : BKind) (pg : BitVec 3)
  | vfmax (d a b : Reg) (fm : BKind) (pg : BitVec 3)
  | vfabs (d a : Reg) (pg : BitVec 3) | vfneg (d a : Reg) (pg : BitVec 3)
  | vfrcp (d a : Reg) (pg : BitVec 3) (rm : RM) | vfrsq (d a : Reg) (pg : BitVec 3) (rm : RM)
  | vfcmp (d a b : Reg) (fm : BKind) (pg : BitVec 3) (c : VFCond)
  -- vector integer, OP 0x50 to 0x5E (R188, R189)
  | vadd (d a b : Reg) (fm : BKind) (pg : BitVec 3) | vsub (d a b : Reg) (fm : BKind) (pg : BitVec 3)
  | vmul (d a b : Reg) (fm : BKind) (pg : BitVec 3) | vmulh (d a b : Reg) (fm : BKind) (pg : BitVec 3)
  | vand (d a b : Reg) (fm : BKind) (pg : BitVec 3) | vor (d a b : Reg) (fm : BKind) (pg : BitVec 3)
  | vxor (d a b : Reg) (fm : BKind) (pg : BitVec 3) | vsll (d a b : Reg) (fm : BKind) (pg : BitVec 3)
  | vsrl (d a b : Reg) (fm : BKind) (pg : BitVec 3) | vsra (d a b : Reg) (fm : BKind) (pg : BitVec 3)
  | vmin (d a b : Reg) (fm : BKind) (pg : BitVec 3) | vmax (d a b : Reg) (fm : BKind) (pg : BitVec 3)
  | vminn (d a b : Reg) (fm : BKind) (pg : BitVec 3) | vmaxn (d a b : Reg) (fm : BKind) (pg : BitVec 3)
  | vcmp (d a b : Reg) (fm : BKind) (pg : BitVec 3) (c : VCond)
  -- conversion, OP 0x5F (R190)
  | vcvt (d a : Reg) (rm : RM) (pg : BitVec 3) (t : VTy)
  -- moves and permutes, OP 0x60 to 0x6A (R192 to R194)
  | vmv (d a : Reg) (pg : BitVec 3) | vbcast (d b : Reg) (fm : BKind) (pg : BitVec 3)
  | vmerge (d a b : Reg) (fm : BKind) (pg : BitVec 3)
  | vslideup (d a k : Reg) (fm : BKind) (pg : BitVec 3) | vslidedn (d a k : Reg) (fm : BKind) (pg : BitVec 3)
  | vperm (d a b : Reg) (pg : BitVec 3) | vcomp (d a : Reg) (pg : BitVec 3) | vexpd (d a : Reg) (pg : BitVec 3)
  | vextr (d a k : Reg) (fm : BKind) | vins (d a k : Reg) (fm : BKind) | viota (d : Reg) (pg : BitVec 3)
  -- reductions and scans, OP 0x6B to 0x6F (R195 to R198)
  | vredsum (d a : Reg) (pg : BitVec 3) (rm : RM) | vredtree (d a : Reg) (pg : BitVec 3) (rm : RM)
  | vredmax (d a : Reg) (pg : BitVec 3) | vredmin (d a : Reg) (pg : BitVec 3)
  | vscan (d a : Reg) (pg : BitVec 3) (rm : RM)
  -- predicates, OP 0x70 (R200)
  | pand (d a b : BitVec 6) | por (d a b : BitVec 6) | pxor (d a b : BitVec 6) | pandn (d a b : BitVec 6)
  | pnot (d a : BitVec 6) | pcnt (d a : BitVec 6) | pfirst (d a : BitVec 6)
  | pset (d : BitVec 6) | pclr (d : BitVec 6) | pmov (d a : BitVec 6)
  -- planes, narrow formats, optimiser, OP 0x71 to 0x73 (R223 to R235)
  | vpsplit (d a : Reg) (pg : BitVec 3) (fam : Fam) (n : BitVec 2)
  | vpjoin (d a : Reg) (pg : BitVec 3) (fam : Fam) (n : BitVec 2)
  | vptrunc (d a : Reg) (pg : BitVec 3) (fam : Fam) (n : BitVec 2)
  | vprnd (d a : Reg) (pg : BitVec 3) (fam : Fam) (n : BitVec 2)
  | vqmx (d a : Reg) (pg : BitVec 3) | vdqmx (d a b : Reg) (pg : BitVec 3)
  | vpacc (d a : Reg) (pg : BitVec 3) (n : BitVec 5)
  | vadamw (d a b : Reg) (pg : BitVec 3) | vsgdm (d a b : Reg) (pg : BitVec 3)
  -- matrix, OP 0x74 to 0x76 (R238, R249, R250)
  | mma (c a b : Reg) (pg : BitVec 3) (t : MTy) | mmap (c a b : Reg) (pg : BitVec 3)
  | mmaz (c : Reg) (t : ZTy) | mtrans (c b : Reg) (t : TTy)
  -- poison, OP 0x7E (R207)
  | psnget (d : Reg) | psnclr
  -- copies, OP 0x78 and 0x79 (R266 to R281)
  | cpy (d a : Reg) | due (d a : Reg) | waitd (a : Reg) | waith (a b : Reg) | cpyst (d a : Reg)
  | abinit (d a b : Reg) | waitab (a b : Reg)
  -- topology, OP 0x7A (R297 to R312)
  | mopen (d a : Reg) | mnbr (d a b : Reg) | mcell (d a b : Reg) | mmark (a b : Reg)
  | madapt (d a b : Reg) | mcut (d a b : Reg) | mmig (d a b : Reg) | mhalo (d a b : Reg)
  -- bazaar, OP 0x7B (R313 to R319)
  | bhist (d a : Reg) | bscan (d a : Reg) | btopk (d a : Reg) | broute (d a : Reg) | bcolor (d a : Reg) | bseg (d a : Reg)
  -- synchronisation and launch, OP 0x7C and 0x7D (R327 to R344)
  | barw (b : Reg) | bara | barq (d : Reg) | sigw (d a b : Reg) | yield | launch (d a : Reg)
  -- events: a fetched word that is no instruction; waits and stalls
  | illegalWord (w : BitVec 32)
  | qstall (k : HartKey) (side : Side) | waittime (k : HartKey) | waitEnd (k : HartKey)
  | sigwRecheck (k : HartKey) | overdue (k : HartKey)
  -- events: dispatcher, caravans and slices; `pick` chooses among the free tags (R25)
  | budgetExhausted (c : CarId) | budgetExtension (c : CarId) | dispatcherDecision (die pick : Nat)
  | forcedStop (c : CarId) | caravanSave (c : CarId) | saveImageWritten (c : CarId)
  | caravanRetire (c : CarId) | sliceFailedEnd (i : SliceId) | endReport (i : SliceId)
  -- events: copies
  | copyChunkLanding (i : CmdId) | copyCompletion (i : CmdId) | linkFailure (p : Port)
  | linkRetransmission (p : Port) | remoteAccessRequest (r : PeerReq) | remoteRefusal (i : CmdId)
  -- events: entries and accesses performed later
  | mnbrEntryDelivery (k : HartKey) | loadEntryArrival (k : HartKey) (q : Nat)
  | storePerformed (k : HartKey) (n : Nat) | rdInvalidationAck (k : HartKey) (n : Nat)
  -- events: topology and bazaar
  | topologyCommandCompletion (i : CmdId) | collectTimeout (die mesh : Nat) | generationCommit (die mesh : Nat)
  | bazaarCommandCompletion (cluster : Nat)
  -- events: host regions and submissions; `pick` chooses a die (R427)
  | hostDemand (ctx region : Nat) | regionMoveComplete (ctx region : Nat)
  | submissionSlotRead (fn q pick : Nat) | submissionEnd (n : Nat)
  | nodeLaunch (g pick : Nat) | nodeCopy (g : Nat) | nodeSignal (g : Nat) | nodeWait (g : Nat)
  | nodeCond (g : Nat) | nodeLoop (g : Nat) | nodeEnd (g : Nat)
  -- events: device register writes
  | qtailWrite (fn q : Nat) (v : Word) | qbaseWrite (fn q : Nat) (v : Word) | qsizeWrite (fn q : Nat) (v : Word)
  | ctxctlWrite (ctx : Nat) (v : Word) | ctxrootWrite (ctx : Nat) (v : Word) | featreqWrite (v : Word)
  | fwstageWrite (fn : Nat) (v : Word) | fwReplacementComplete | fwReplacementTimeout
  -- events: debug; an access without a value is a read
  | dbgctlHaltreq (core : Nat) | hartHalted (core : Nat) | dbgctlResume (core : Nat)
  | debugBlockAccess (core off : Nat) (wr : Option Word)
  | queueIndexWordWrite (k : HartKey) (code : Nat) (v : Word) | stickyClear (k : HartKey) (v : Word)
  | registerWrite (t : RegTarget) (v : Word)
  -- events: errors, reset, wear, supply
  | coreError (core : Nat) | warmReset (r : FailRegion) | warmResetReady
  | wearAccrual (rates : List (Nat × Nat × Nat)) | wearRecordSave | coreFuse (core : Nat)
  | supplySag (core : Nat) | supplyRecovery (core : Nat) | thermalThrottle (die : Nat) | thermalRecovery (die : Nat)
  | thermalShutdown | coldReset (slotA slotB : Unit) | unitReady (u : RUnit) | unitFailure (u : RUnit)
  -- events: watchdog and fabric
  | watchdogEndCaravan (c : CarId) | watchdogEndSlice (i : SliceId) | cpRestart | dieQuiesce (die : Nat)
  | watchdogWarmReset (r : FailRegion) | coldResetRequest | deviceNumberAssign (n : Nat)
  -- events: attestation, through function `fn`
  | getVersion (fn : Nat) | getCapabilities (fn : Nat) | negotiateAlgorithms (fn : Nat) (p521 sha512 : Bool)
  | getDigests (fn : Nat) | getCertificate (fn : Nat) (slot : Nat) | challenge (fn : Nat) (nonce : BitVec 256)
  | getMeasurements (fn : Nat) (index : Nat)
  -- events: the rest
  | loadPerformed (k : HartKey) | powerLoss | orderlyShutdown
  | nodeLimitExpired (g : Nat) | operatorRetireRequest (core : Nat)
deriving DecidableEq, Repr, Inhabited

end Sys2Proof
end

