-- ==== Sys2Proof/Machine/Float.lean ====
section
/-! DEFINITION. Floating-point formats and arithmetic (06_vector R179 to R181, 03_scalar R94 to R97,
07_planes R226, R227): values as exact dyadic numbers, every operation computed exactly and rounded
once. Flags are NV 16, DZ 8, OF 4, UF 2, NX 1 (R98). -/

namespace Sys2Proof.Machine

/-- How a format uses its largest codes: infinities and NaNs, the one NaN of E4M3, or nothing (E2M1). -/
inductive FStyle where
  | ieee | e4m3 | e2m1
deriving DecidableEq, Repr, Inhabited

/-- A format (R179, R226, R227). -/
structure FFmt where
  eb    : Nat
  fb    : Nat
  bias  : Nat
  style : FStyle
deriving DecidableEq, Repr, Inhabited

/-- IEEE binary64. -/
def fmt64 : FFmt := ⟨11, 52, 1023, .ieee⟩
/-- IEEE binary32. -/
def fmt32 : FFmt := ⟨8, 23, 127, .ieee⟩
/-- IEEE binary16. -/
def fmt16 : FFmt := ⟨5, 10, 15, .ieee⟩
/-- bfloat16. -/
def fmtBf : FFmt := ⟨8, 7, 127, .ieee⟩
/-- E4M3. -/
def fmtE4M3 : FFmt := ⟨4, 3, 7, .e4m3⟩
/-- E5M2. -/
def fmtE5M2 : FFmt := ⟨5, 2, 15, .ieee⟩
/-- E2M1. -/
def fmtE2M1 : FFmt := ⟨2, 1, 1, .e2m1⟩

/-- Bits of a value without its sign. -/
def FFmt.mag (f : FFmt) : Nat := f.eb + f.fb
/-- Width in bits. -/
def FFmt.width (f : FFmt) : Nat := f.eb + f.fb + 1
/-- Code of +infinity of an IEEE-style format. -/
def FFmt.infCode (f : FFmt) : Nat := (2 ^ f.eb - 1) * 2 ^ f.fb
/-- Code of the largest finite value. -/
def FFmt.maxCode (f : FFmt) : Nat :=
  match f.style with
  | .ieee => f.infCode - 1
  | .e4m3 => 0x7E
  | .e2m1 => 7
/-- Canonical quiet NaN (R180, R226). -/
def FFmt.nan (f : FFmt) : Nat := if f.style = .e4m3 then 0x7F else f.infCode + 2 ^ (f.fb - 1)
/-- Whether the format has a poison encoding (R180, R226, R227). -/
def FFmt.hasPoison (f : FFmt) : Bool := f.style == .ieee && f.fb > 2
/-- Poison NaN (R180). -/
def FFmt.poison (f : FFmt) : Nat := if f.hasPoison then f.infCode + 2 ^ (f.fb - 1) + 2 ^ (f.fb - 2) else 0
/-- The sign bit's value. -/
def FFmt.sgn (f : FFmt) (s : Bool) : Nat := if s then 2 ^ f.mag else 0

/-- A decoded value. A finite value is (-1)^s m 2^e. -/
inductive FVal where
  | nan (s signalling poison : Bool)
  | inf (s : Bool)
  | fin (s : Bool) (m : Nat) (e : Int)
deriving DecidableEq, Repr, Inhabited

/-- Decode a code. -/
def FFmt.dec (f : FFmt) (x : Nat) : FVal :=
  let s := x / 2 ^ f.mag % 2 = 1
  let ex := x / 2 ^ f.fb % 2 ^ f.eb
  let fr := x % 2 ^ f.fb
  let special : Bool := match f.style with
    | .ieee => ex == 2 ^ f.eb - 1
    | .e4m3 => x % 2 ^ f.mag == 0x7F
    | .e2m1 => false
  if special then
    if f.style = .ieee ∧ fr = 0 then .inf s
    else .nan s (f.hasPoison && fr / 2 ^ (f.fb - 1) = 0) (f.hasPoison && x % 2 ^ f.mag = f.poison)
  else if ex = 0 then .fin s fr (1 - (f.bias : Int) - f.fb)
  else .fin s (fr + 2 ^ f.fb) ((ex : Int) - f.bias - f.fb)

/-- Whether a value is a NaN. -/
def FVal.isNan : FVal → Bool
  | .nan .. => true
  | _ => false

/-- Whether a value is a signalling NaN. -/
def FVal.isSnan : FVal → Bool
  | .nan _ sg _ => sg
  | _ => false

/-- Whether a value carries the poison payload (R180). -/
def FVal.isPsn : FVal → Bool
  | .nan _ _ p => p
  | _ => false

/-- Sign of a value. -/
def FVal.sign : FVal → Bool
  | .nan s _ _ => s
  | .inf s => s
  | .fin s _ _ => s

/-- A code with its flags. -/
abbrev FRes := Nat × Nat

/-- The exponent field followed by the top eight fraction bits, with zero bits for those that a format lacks (R201;
log 2 for the formats of fewer than seven). -/
def FFmt.shadowKey (f : FFmt) (x : Nat) : Nat := x % 2 ^ f.mag * 256 / 2 ^ f.fb

/-- Whether a shadow unit's result `y` diverges from the main unit's `x` (R201). -/
def FFmt.diverges (f : FFmt) (x y : Nat) : Bool :=
  (x / 2 ^ f.mag % 2 != y / 2 ^ f.mag % 2 && (x % 2 ^ f.mag != 0 || y % 2 ^ f.mag != 0)) ||
    (f.dec x).isNan != (f.dec y).isNan ||
    decide (f.shadowKey x > f.shadowKey y + 1 ∨ f.shadowKey y > f.shadowKey x + 1)

/-- Whether a discarded remainder of `2 ^ sh` rounds the magnitude up (R181). -/
def roundUp (rm : RM) (s : Bool) (sig rem half : Nat) : Bool :=
  match rm with
  | .dyn | .rne => decide (rem > half) || (rem == half && sig % 2 == 1)
  | .rtz => false
  | .rdn => s && rem != 0
  | .rup => !s && rem != 0
  | .rna => decide (rem ≥ half)

/-- Round m 2^e to a multiple of 2^q: the multiple and whether it is inexact. -/
def roundTo (rm : RM) (s : Bool) (m : Nat) (e q : Int) : Nat × Bool :=
  if q ≤ e then (m * 2 ^ (e - q).toNat, false)
  else
    let sh := (q - e).toNat
    let sig := m / 2 ^ sh
    let rem := m % 2 ^ sh
    (if roundUp rm s sig rem (2 ^ (sh - 1)) then sig + 1 else sig, rem != 0)

/-- The overflow result (R181, R191). -/
def FFmt.over (f : FFmt) (rm : RM) (s : Bool) : Nat :=
  f.sgn s +
    (match f.style with
     | .ieee =>
       match rm with
       | .rtz => f.maxCode
       | .rdn => if s then f.infCode else f.maxCode
       | .rup => if s then f.maxCode else f.infCode
       | _ => f.infCode
     | _ => f.maxCode)

/-- Round the exact value (-1)^s m 2^e once (R181). -/
def FFmt.round (f : FFmt) (rm : RM) (s : Bool) (m : Nat) (e : Int) : FRes :=
  if m = 0 then (f.sgn s, 0)
  else
    let top : Int := (Nat.log2 m : Int) + e
    let emin : Int := 1 - (f.bias : Int)
    let q := max (top - f.fb) (emin - f.fb)
    let (sig, inexact) := roundTo rm s m e q
    let code := (q - (emin - f.fb)).toNat * 2 ^ f.fb + sig
    if code > f.maxCode then (f.over rm s, 5)
    else
      let tiny := decide (top < emin - 1) ||
        (decide (top = emin - 1) && decide ((roundTo rm s m e (top - f.fb)).1 < 2 ^ (f.fb + 1)))
      (f.sgn s + code, if inexact then (if tiny then 3 else 1) else 0)

/-- The result of an operation with a NaN operand, or an invalid one (R95, R180). -/
def FFmt.nanRes (f : FFmt) (vs : List FVal) (invalid : Bool) : FRes :=
  (if vs.any FVal.isPsn then f.poison else f.nan, if invalid || vs.any FVal.isSnan then 16 else 0)

/-- Sum of two signed dyadics. -/
def dyAdd (s1 : Bool) (m1 : Nat) (e1 : Int) (s2 : Bool) (m2 : Nat) (e2 : Int) : Bool × Nat × Int :=
  let e := min e1 e2
  let a := m1 * 2 ^ (e1 - e).toNat
  let b := m2 * 2 ^ (e2 - e).toNat
  if s1 = s2 then (s1, a + b, e)
  else if a ≥ b then (s1, a - b, e) else (s2, b - a, e)

/-- Sign of a sum that is exactly zero (R181). -/
def zeroSign (rm : RM) (s1 s2 : Bool) : Bool := if s1 = s2 then s1 else rm = .rdn

/-- Round a sum of two dyadics, exact zeros included. -/
def FFmt.sum (f : FFmt) (rm : RM) (s1 : Bool) (m1 : Nat) (e1 : Int) (s2 : Bool) (m2 : Nat) (e2 : Int) : FRes :=
  let (s, m, e) := dyAdd s1 m1 e1 s2 m2 e2
  if m = 0 then (f.sgn (zeroSign rm s1 s2), 0) else f.round rm s m e

/-- a + b on decoded values. -/
def FFmt.addV (f : FFmt) (rm : RM) (a b : FVal) : FRes :=
  match a, b with
  | .nan .., _ => f.nanRes [a, b] false
  | _, .nan .. => f.nanRes [a, b] false
  | .inf s, .inf t => if s = t then (f.sgn s + f.infCode, 0) else f.nanRes [] true
  | .inf s, _ => (f.sgn s + f.infCode, 0)
  | _, .inf t => (f.sgn t + f.infCode, 0)
  | .fin s m e, .fin t n g => f.sum rm s m e t n g

/-- Negate a decoded value that is not a NaN. -/
def FVal.neg : FVal → FVal
  | .nan s q p => .nan s q p
  | .inf s => .inf (!s)
  | .fin s m e => .fin (!s) m e

/-- round(a + b). -/
def FFmt.add (f : FFmt) (rm : RM) (a b : Nat) : FRes := f.addV rm (f.dec a) (f.dec b)

/-- round(a − b). -/
def FFmt.sub (f : FFmt) (rm : RM) (a b : Nat) : FRes := f.addV rm (f.dec a) (f.dec b).neg

/-- round(±(a × b) + c), one rounding (R186). -/
def FFmt.fmaV (f : FFmt) (rm : RM) (neg : Bool) (a b c : FVal) : FRes :=
  let bad := match a, b with
    | .inf _, .fin _ 0 _ => true
    | .fin _ 0 _, .inf _ => true
    | _, _ => false
  if a.isNan || b.isNan || c.isNan || bad then f.nanRes [a, b, c] bad
  else
    let ps := (a.sign != b.sign) != neg
    match a, b, c with
    | .fin _ m e, .fin _ n g, .fin t k h => f.sum rm ps (m * n) (e + g) t k h
    | .fin .., .fin .., .inf t => (f.sgn t + f.infCode, 0)
    | _, _, .inf t => if t = ps then (f.sgn t + f.infCode, 0) else f.nanRes [] true
    | _, _, _ => (f.sgn ps + f.infCode, 0)

/-- round(a × b). -/
def FFmt.mul (f : FFmt) (rm : RM) (a b : Nat) : FRes :=
  match f.dec a, f.dec b with
  | .fin s m e, .fin t n g => f.round rm (s != t) (m * n) (e + g)
  | .inf s, .fin t n _ => if n = 0 then f.nanRes [] true else (f.sgn (s != t) + f.infCode, 0)
  | .fin s m _, .inf t => if m = 0 then f.nanRes [] true else (f.sgn (s != t) + f.infCode, 0)
  | .inf s, .inf t => (f.sgn (s != t) + f.infCode, 0)
  | x, y => f.nanRes [x, y] false

/-- Bits kept of a quotient or root before the sticky bit. -/
def FFmt.guardBits (f : FFmt) : Nat := f.fb + 4

/-- Round m/n 2^e, both nonzero. -/
def FFmt.quot (f : FFmt) (rm : RM) (s : Bool) (m n : Nat) (e : Int) : FRes :=
  let k := f.guardBits + Nat.log2 n - Nat.log2 m
  let num := m * 2 ^ k
  f.round rm s (2 * (num / n) + (if num % n = 0 then 0 else 1)) (e - k - 1)

/-- round(a ÷ b). -/
def FFmt.div (f : FFmt) (rm : RM) (a b : Nat) : FRes :=
  match f.dec a, f.dec b with
  | .fin s m e, .fin t n g =>
    if n = 0 then (if m = 0 then f.nanRes [] true else (f.sgn (s != t) + f.infCode, 8))
    else if m = 0 then (f.sgn (s != t), 0)
    else f.quot rm (s != t) m n (e - g)
  | .inf s, .fin t _ _ => (f.sgn (s != t) + f.infCode, 0)
  | .fin s _ _, .inf t => (f.sgn (s != t), 0)
  | .inf _, .inf _ => f.nanRes [] true
  | x, y => f.nanRes [x, y] false

/-- Integer square root, one bit at a time from bit `i − 1`. -/
def isqrtFrom (n : Nat) : Nat → Nat → Nat
  | 0, r => r
  | i + 1, r => if (r + 2 ^ i) * (r + 2 ^ i) ≤ n then isqrtFrom n i (r + 2 ^ i) else isqrtFrom n i r

/-- Integer square root. -/
def isqrt (n : Nat) : Nat := isqrtFrom n (Nat.log2 n / 2 + 1) 0

/-- A dyadic with an even exponent. -/
def evenExp (m : Nat) (e : Int) : Nat × Int := if e % 2 = 0 then (m, e) else (2 * m, e - 1)

/-- round(√a) (R94, R186). -/
def FFmt.sqrt (f : FFmt) (rm : RM) (a : Nat) : FRes :=
  match f.dec a with
  | .fin s m e =>
    if m = 0 then (f.sgn s, 0)
    else if s then f.nanRes [] true
    else
      let (m1, e1) := evenExp m e
      let k := f.guardBits
      let n := m1 * 2 ^ (2 * k)
      let r := isqrt n
      f.round rm false (2 * r + (if r * r = n then 0 else 1)) (e1 / 2 - k - 1)
  | .inf s => if s then f.nanRes [] true else (f.infCode, 0)
  | x => f.nanRes [x] false

/-- round(1 ÷ a) (R186). -/
def FFmt.rcp (f : FFmt) (rm : RM) (a : Nat) : FRes :=
  match f.dec a with
  | .fin s m e => if m = 0 then (f.sgn s + f.infCode, 8) else f.quot rm s 1 m (-e)
  | .inf s => (f.sgn s, 0)
  | x => f.nanRes [x] false

/-- round(1 ÷ √a) (R186). -/
def FFmt.rsq (f : FFmt) (rm : RM) (a : Nat) : FRes :=
  match f.dec a with
  | .fin s m e =>
    if m = 0 then (f.sgn s + f.infCode, 8)
    else if s then f.nanRes [] true
    else
      let (m1, e1) := evenExp m e
      let k := f.guardBits + Nat.log2 m1
      let r := isqrt (2 ^ (2 * k) / m1)
      f.round rm false (2 * r + (if r * r * m1 = 2 ^ (2 * k) then 0 else 1)) (-(e1 / 2) - k - 1)
  | .inf s => if s then f.nanRes [] true else (0, 0)
  | x => f.nanRes [x] false

/-- a < b on values that are not NaNs. -/
def FVal.lt : FVal → FVal → Bool
  | .inf s, .inf t => s && !t
  | .inf s, _ => s
  | _, .inf t => !t
  | .fin s m e, .fin t n g =>
    let lo := min e g
    let a : Int := (if s then -1 else 1) * (m * 2 ^ (e - lo).toNat : Nat)
    let b : Int := (if t then -1 else 1) * (n * 2 ^ (g - lo).toNat : Nat)
    a < b
  | _, _ => false

/-- a = b on values that are not NaNs; −0 equals +0. -/
def FVal.eqv (a b : FVal) : Bool := !a.isNan && !b.isNan && !a.lt b && !b.lt a

/-- minimumNumber or maximumNumber with −0 below +0, and R95 for NaNs. -/
def FFmt.minmax (f : FFmt) (mx : Bool) (a b : Nat) : FRes :=
  let x := f.dec a
  let y := f.dec b
  let nv := if x.isSnan || y.isSnan then 16 else 0
  if x.isPsn || y.isPsn then (f.poison, nv)
  else if x.isNan && y.isNan then (f.nan, nv)
  else if x.isNan then (b, nv)
  else if y.isNan then (a, nv)
  else
    let aFirst := x.lt y || (x.eqv y && x.sign && !y.sign)
    (if aFirst != mx then a else b, nv)

/-- The comparisons of FCMP and VFCMP (R96, R187): the bit and NV. -/
def FFmt.cmp (f : FFmt) (c : VFCond) (a b : Nat) : Bool × Nat :=
  let x := f.dec a
  let y := f.dec b
  let un := x.isNan || y.isNan
  let sg := if x.isSnan || y.isSnan then 16 else 0
  let any := if un then 16 else 0
  match c with
  | .eq => (x.eqv y, sg)
  | .ne => (!x.eqv y, sg)
  | .lt => (!un && x.lt y, any)
  | .le => (!un && !y.lt x, any)
  | .gt => (!un && y.lt x, any)
  | .ge => (!un && !x.lt y, any)
  | .un => (un, sg)
  | .ord => (!un, sg)

/-- Convert between formats (R97, R191). -/
def FFmt.cvt (f g : FFmt) (rm : RM) (a : Nat) : FRes :=
  match f.dec a with
  | .nan s sg p =>
    let nv := if sg then 16 else 0
    match g.style with
    | .ieee => (if p && g.hasPoison then g.poison else g.nan, nv)
    | .e4m3 => (g.sgn s + 0x7F, nv)
    | .e2m1 => (0, 16)
  | .inf s =>
    match g.style with
    | .ieee => (g.sgn s + g.infCode, 0)
    | _ => (g.sgn s + g.maxCode, 5)
  | .fin s m e => g.round rm s m e

/-- Round a finite value to an integer: magnitude and inexactness. -/
def fltInt (rm : RM) (s : Bool) (m : Nat) (e : Int) : Nat × Bool := roundTo rm s m e 0

/-- Convert to an integer of `w` bits, saturating (R97). -/
def FFmt.toInt (f : FFmt) (rm : RM) (signed : Bool) (w : Nat) (a : Nat) : FRes :=
  let hi : Nat := if signed then 2 ^ (w - 1) - 1 else 2 ^ w - 1
  let lo : Nat := if signed then 2 ^ (w - 1) else 0
  match f.dec a with
  | .nan .. => (0, 16)
  | .inf s => (if s then (2 ^ w - lo) % 2 ^ w else hi, 16)
  | .fin s m e =>
    let (n, inexact) := fltInt rm s m e
    if s then (if n > lo then ((2 ^ w - lo) % 2 ^ w, 16) else ((2 ^ w - n) % 2 ^ w, if inexact then 1 else 0))
    else if n > hi then (hi, 16) else (n, if inexact then 1 else 0)

/-- Convert an integer of `w` bits (R97). -/
def FFmt.ofInt (g : FFmt) (rm : RM) (signed : Bool) (w : Nat) (a : Nat) : FRes :=
  if signed && a ≥ 2 ^ (w - 1) then g.round rm true (2 ^ w - a) 0 else g.round rm false a 0

end Sys2Proof.Machine
end

