-- ==== Sys2Proof/Config.lean ====
section
/-! DEFINITION. What one implementation fixes, and the free values: opaque constants nothing can
evaluate. -/

namespace Sys2Proof

/-- The figures of R14, R19, R24 and R38 that every rule below uses. -/
def Config.vqDepth : Nat := 8
/-- Depth of a scalar queue and of the length queue (R14). -/
def Config.sqDepth : Nat := 16
/-- Loop entries of a sequencer (R87). -/
def Config.loopDepth : Nat := 6
/-- Bytes of a scratchpad (R24). -/
def Config.spadBytes : Nat := 0xC0000
/-- Handle records of a hart (R264). -/
def Config.records : Nat := 64
/-- Ready slices of a dispatcher (R20). -/
def Config.readySlices : Nat := 64
/-- Places in a bazaar's command queue (R291). -/
def Config.bazaarPlaces : Nat := 16
/-- Mesh numbers of a die (R298). -/
def Config.meshNumbers : Nat := 64
/-- 64 KiB units in one die's private pool. The spec gives the pool no size (log 12): DESIGN CHOICE. -/
def Config.privPool : Nat := 0x200000

/-- Whether a cache holds a line of an address space (ASID, address over 64) in a turn, and its physical address
over 64: such a line is reached without a table entry being checked (R29, R141). Free value, log 3. -/
opaque Config.lineHeld : Nat → Nat → Nat → Option Nat

/-- The ASID that Slorraroth assigns a context (R139). Free value, log 13. -/
opaque Config.asid : Nat → BitVec 16

/-- Whether an instruction cache still holds a word fetched earlier at an address whose memory has
changed since (R162). Free value, log 6. -/
opaque Config.lineKept : Nat → Bool

/-- SHA-512 of bytes (R397, R402): the spec names it and does not define it. Log 81. -/
opaque Config.sha512 : List Byte → BitVec 512
/-- Whether an ECDSA P-521 signature (r, s) over bytes verifies with a key (R397): the spec names it and does not
define it. Log 81. -/
opaque Config.verifies : List Byte → List Byte → BitVec 528 → BitVec 528 → Bool
/-- The public key that signs images, whose SHA-512 is fused into the device (R397). Log 81. -/
opaque Config.signKey : List Byte
/-- The code of the boot ROM, which is measured (R402). Log 81. -/
opaque Config.romCode : List Byte
/-- The chain of certificate slot 0 (R402). Log 81. -/
opaque Config.certChain : List Byte
/-- Where an image of Slorraroth puts its core handlers (R396). Free value, log 27. -/
opaque Config.handlerBase : Nat → Word
/-- The base of a die's save area in HBM, in units of 1 MiB (R369). Free value, log 21. -/
opaque Config.saveBase : Nat → Nat
/-- What a core adds to its wear record in an interval: its two factors (R380). Free value, log 26. -/
opaque Config.wearRate : Nat → Nat → Nat × Nat
/-- Whether Slorraroth pins a 2 MiB region of a context in host memory, as a host-type range (R146). Free value,
log 47. -/
opaque Config.pinned : Nat → Nat → Bool
/-- The frame, in units of its size, to which a moved page goes (R146). Free value, log 47. -/
opaque Config.frame : Nat → Nat → Nat
/-- The second root of a context, in units of 64 KiB (R138). Free value, log 13. -/
opaque Config.privRoot : Nat → Nat

/-- The signature bytes of an attestation answer (R402), as one number. Free value, log 30. -/
opaque Config.signature : Nat → Nat

/-- What an S-mode read of a device register outside the queue block returns (R10, R24): the spec gives such
registers no contents. The second argument is the byte's device address. Free value, log 63. -/
opaque Config.deviceByte : Nat → Nat → Byte

/-- A byte that the spec leaves open, such as the engine's own leaf records (R310). Free value, log 31. -/
opaque Config.freeByte : Nat → Byte

/-- The home die that Slorraroth gave a context's 2 MiB region (R139), modulo 4. Free value, log 13. -/
opaque Config.homeDie : Nat → Nat → Nat

/-- The physical 64 KiB page behind a page of a context's private space (R138). Free value, log 13. -/
opaque Config.privPage : Nat → Nat → Nat

/-- A RESULT that the spec does not state: of a command that ends with a status to which no rule gives one.
Free value, log 15. -/
opaque Config.openResult : Nat → BitVec 32

/-- The due date that an MMIG's handle reads before its convoys are issued. Free value, log 15. -/
opaque Config.openDue : Nat → Nat

/-- Which free mesh number MOPEN takes, modulo their count (R298). Free value, log 16. -/
opaque Config.meshNumber : Nat → Nat
/-- Where a partition on another device keeps its mesh object (R310): the partition table does not name it. Free
value, log 82. -/
opaque Config.remoteObj : Nat → Nat → Word
/-- The copy engine that a topology engine uses, modulo 16. Free value, log 16. -/
opaque Config.topoEngine : Nat → Nat

end Sys2Proof
end

