-- ==== Sys2Proof/Machine/State.lean ====
section
/-! DEFINITION. The state of the device as plain data (INVENTORY.md, heading State), the reasons a
step can stop, and the state right after reset. -/

namespace Sys2Proof.Machine

/-! ### Sequencers -/

/-- One hardware loop (R87). -/
structure LoopEntry where
  start     : Word
  stop      : Word
  remaining : Word
  index     : Word
deriving DecidableEq, Repr, Inhabited

/-- Why a sequencer stopped for a save (R370). -/
inductive StopKind where
  | yield | boundary | inside | ended
deriving DecidableEq, Repr, Inhabited

/-- A wait or stall in progress (R15, R23): the waiting instruction, the queue it waits on with the
direction of the stall (true: push), when it began and its limit; no limit for a wait that ends
within a bound the hardware sets (R160). `line` is the memory line whose writes notify a sleeping SIGW
(R331). -/
structure Wait where
  instr : Instr
  queue : Option (Nat × Bool)
  since : Nat
  limit : Option Nat
  line  : Option Nat
deriving DecidableEq, Repr, Inhabited

/-- One in-order sequencer (R13, R16). -/
structure Seq where
  pc     : Word
  loops  : List LoopEntry
  vl     : Nat
  vstart : Nat
  ended  : Bool
  stop   : Option StopKind
  wait   : Option Wait
deriving DecidableEq, Repr, Inhabited

/-! ### Queues (R14, R134) -/

/-- An entry of a vector queue; `pred` is used by store queues alone. -/
structure Entry where
  data    : VReg
  pred    : PReg
  psn     : PReg
  visible : Bool
deriving DecidableEq, Repr, Inhabited

/-- An entry that a trapped instruction holds reserved (R42, R112): the instruction's address, which entry
of the access it is, and its contents so far. -/
structure Resv where
  pc    : Word
  j     : Nat
  entry : Entry
deriving DecidableEq, Repr, Inhabited

/-- A vector queue: the 8-bit head index, the entries from the head, and the reserved entry. The tail
index is head + occupancy. `held`: the index entries that an access in progress has popped from it, with the address of
the instruction (R128). -/
structure VQueue where
  head  : BitVec 8
  items : List Entry
  resv  : Option Resv
  held  : Option (Word × List Entry)
deriving DecidableEq, Repr, Inhabited

/-- A scalar queue, or the length queue. -/
structure SQueue where
  head  : BitVec 8
  items : List Word
deriving DecidableEq, Repr, Inhabited

/-- All queues of a hart. -/
structure Queues where
  vload  : Vector VQueue 4
  vstore : Vector VQueue 4
  toX    : Vector SQueue 4
  toA    : Vector SQueue 4
  len    : SQueue
deriving DecidableEq, Repr, Inhabited

/-! ### Registers and CSRs of a hart -/

/-- The register files of R39, and PSM (R206). Positions 28 to 31 of `x` and `v` name queue heads and
hold nothing. -/
structure Regs where
  a   : Vector Word 32
  x   : Vector Word 32
  v   : Vector VReg 32
  p   : Vector PReg 64
  psm : PReg
deriving DecidableEq, Repr, Inhabited

/-- The CSRs that hold state of their own (R106). -/
structure Csrs where
  fflags  : BitVec 5
  frm     : BitVec 3
  vt      : BitVec 12
  stripsz : Word
  xlink   : Word
  qwait   : BitVec 32
  sticky  : BitVec 4
  preq    : Bool
  optlr   : Word
  optb1   : Word
  optb2   : Word
  opteps  : Word
  optwd   : Word
  optbc   : Word
deriving DecidableEq, Repr, Inhabited

/-- The supervisor and debug CSRs (R359, R371, R384). -/
structure Traps where
  nest     : Bool
  xpause   : Bool
  smode    : Bool
  causeX   : Bool
  code     : BitVec 8
  epc      : Word
  tval     : Word
  tvec     : Word
  scratch  : Word
  tval2    : Word
  xepc     : Word
  pregrace : BitVec 32
  shEn     : Bool
  shRetire : Bool
  halted   : Bool
  haltreq  : Bool
  cvhalt   : Bool
  stepdbg  : Bool
  brkdbg   : Bool
  stepx    : Bool
  stepa    : Bool
deriving DecidableEq, Repr, Inhabited

/-! ### Memory as a hart reaches it -/

/-- A lease (R143); length 0 marks it unused. -/
structure Lease where
  base : Nat
  len  : Nat
  rd   : Bool
  sc   : Bool
  ns   : Bool
  w    : Bool
  r    : Bool
deriving DecidableEq, Repr, Inhabited

/-- What a store does to poison (R126). -/
inductive PoisonAct where
  | keep | clear | set
deriving DecidableEq, Repr, Inhabited

/-- What a store writes: its bytes, their sum with memory (VSTXADD, R130), or an arrived-byte object that
keeps its phase (ABINIT, R280). -/
inductive StoreKind where
  | plain
  | add (fp : Bool)
  | abinit
deriving DecidableEq, Repr, Inhabited

/-- Contiguous bytes of a store, each under its mask, and what they do to poison. -/
structure StPart where
  key   : Nat
  bytes : List (Byte × Byte)
  psn   : PoisonAct
deriving DecidableEq, Repr, Inhabited

/-- A store admitted and not yet performed (R147), or held for an RD page (R145): the parts of one single-copy
atomic piece (R152). `rel` marks a release, performed after every earlier store of the hart (R165); `sc` a store
to an SC lease, after which nothing is performed before it (R144). `more` names, as plane and address, a block that
the storing instruction has still elements of; such a store is not performed before they are there (R152). `cmds`: the
SEQs of the engine commands that a release waits for (R164). -/
structure PendStore where
  id    : Nat
  parts : List StPart
  rd    : Option Nat
  kind  : StoreKind
  rel   : Bool
  sc    : Bool
  more  : Option (Nat × Nat)
  cmds  : List Nat
deriving DecidableEq, Repr, Inhabited

/-- The elements that a vector load in progress has read and not yet delivered (R129, R152): the load's address,
its queue and width, its first element here, the values with their poison, and whether it may stop at an element (R222). -/
structure Got where
  pc   : Word
  q    : Fin 4
  w    : Nat
  base : Nat
  vals : List (Nat × Bool)
  elem : Bool
deriving DecidableEq, Repr, Inhabited

/-- A hart as it stood at a load or AMO that later instructions have passed, as far as those and the X side change it
(log 11). -/
structure Ahead where
  a    : Seq
  x    : Seq
  regs : Regs
  q    : Queues
  csr  : Csrs
  got  : Option Got
deriving DecidableEq, Repr, Inhabited

/-- A scalar load or AMO admitted and not yet performed (R147, R157): the instruction, the generic address, its
place in memory and its bytes; whether it orders every later access; the stores admitted before it; and where
later instructions have gone past it (log 11), the hart as it stood at this one. -/
structure PendLoad where
  instr : Instr
  addr  : Word
  key   : Nat
  bytes : Nat
  hold  : Bool
  after : Nat
  ahead : Option Ahead
deriving DecidableEq, Repr, Inhabited

/-- What the hart reaches: its leases, its grants and what it has in flight. `mid`: the A side is inside a vector access
that runs on and waits for nothing (R361), and whether a forced stop may stop it there (R222). `fence`: the SEQs of the
engine commands that a restored hart's A side waits for (R171). -/
structure HartMem where
  leases   : List Lease
  spBytes  : Nat
  privSize : Nat
  pbase    : Nat
  pend     : List PendStore
  pendNo   : Nat
  pendLoad : Option PendLoad
  got      : Option Got
  mid      : Option Bool
  fence    : List Nat
deriving DecidableEq, Repr, Inhabited

/-! ### Commands with handles -/

/-- States of a handle record (R284). -/
inductive HState where
  | queued | moving | done | failed
deriving DecidableEq, Repr, Inhabited

/-- The fields of a copy control block (R261). -/
structure CopyBlock where
  src     : Word
  dst     : Word
  len     : Nat
  rows    : Nat
  spitch  : BitVec 32
  dpitch  : BitVec 32
  scope   : Nat
  acq     : Bool
  rel     : Bool
  csum    : Nat
  cmp     : Bool
  nobook  : Bool
  abv     : Bool
  mcast   : BitVec 4
  rdir    : Nat
  rwin    : Nat
  chainbk : Nat
  aboff   : Nat
  abtag   : BitVec 32
  seed    : BitVec 32
  want    : BitVec 32
deriving DecidableEq, Repr, Inhabited

/-- A remote window (R277). -/
structure RWin where
  blmask : BitVec 36
  rkey   : BitVec 32
  eport  : Nat
  w      : Bool
  r      : Bool
  via    : Bool
  peer   : Nat
  len    : Nat
  base   : Nat
deriving DecidableEq, Repr, Inhabited

/-- A copy in progress. `io` is the I/O die whose host link and ports it takes, `cluster` the issuer's
cluster in its die; `pred` is the SEQ of its chain predecessor and `first` its first booked slot. `rowNo`,
`rowOff` name the next byte to land; `sum` is the checksum over the bytes landed, with `part` the bytes of
a WSUM32 word not yet whole. `cause` is LATECAUSE; `psnOut`: poison met a host page or a peer (R268). -/
structure CopyJob where
  block   : Word
  io      : Nat
  cluster : Nat
  blk     : CopyBlock
  win     : Option RWin
  pred    : Option Nat
  first   : Nat
  rowNo   : Nat
  rowOff  : Nat
  sum     : BitVec 32
  part    : List Byte
  cause   : Nat
  psnOut  : Bool
deriving DecidableEq, Repr, Inhabited

/-- The mesh commands with handles. -/
inductive MeshOp where
  | adapt | cut | mig | halo
deriving DecidableEq, Repr, Inhabited

/-- An accepted topology command (R305 to R312) of the mesh `num` of its die. `round` is its ordinal on the
partition (R308). -/
structure MeshJob where
  block  : Word
  op     : MeshOp
  num    : Nat
  round  : Nat
  acq    : Bool
  rel    : Bool
  scope  : Nat
  addr   : Word
  cap    : Nat
  fmask  : BitVec 16
  marks  : Option Word
deriving DecidableEq, Repr, Inhabited

/-- The bazaar commands. -/
inductive BazOp where
  | hist | scan | topk | route | color | seg
deriving DecidableEq, Repr, Inhabited

/-- An accepted bazaar command (R313). -/
structure BazJob where
  block : Word
  op    : BazOp
  acq   : Bool
  rel   : Bool
  scope : Nat
  inp   : Word
  out   : Word
  out2  : Word
  out3  : Word
  n     : Nat
  p1    : Nat
  p2    : Nat
  p3    : Nat
  aux   : Word
deriving DecidableEq, Repr, Inhabited

/-- What a handle record works on. -/
inductive Job where
  | copy (j : CopyJob)
  | mesh (j : MeshJob)
  | baz (j : BazJob)
deriving DecidableEq, Repr, Inhabited

/-- A handle record (R264, R270). `intoSp`: it writes a scratchpad of the issuing caravan (R346). -/
structure HRec where
  seq      : Nat
  cpyNo    : Nat
  job      : Job
  st       : HState
  status   : Nat
  result   : BitVec 32
  due      : Nat
  unbooked : Bool
  late     : Bool
  poisoned : Bool
  intoSp   : Bool
deriving DecidableEq, Repr, Inhabited

/-- The engine side of a hart: the SEQ last given and whether SEQ has wrapped (R264), the CPYs issued, its
records by SEQ mod 64, its remembered mesh generation, its reflection registration (handler, mask, record;
R367). -/
structure HartEng where
  lastSeq : Nat
  wrapped : Bool
  cpys    : Nat
  recs    : List (Nat × HRec)
  gen     : Option Nat
  refl    : Option (Word × Word × Word)
deriving DecidableEq, Repr, Inhabited

/-- A hart: its position (R16) and what stays with its slot tag. `trapAt`: when it last entered its handler
(R399). `icache` lists the words its
sequencers have fetched since the last FENCEI (R162). `spare` holds loop entries that a debugger has written above the
depth of a stack, by stack and place (R373). -/
structure Hart where
  a      : Seq
  x      : Seq
  aside  : Option (List LoopEntry)
  regs   : Regs
  q      : Queues
  csr    : Csrs
  tr     : Traps
  wph    : Bool
  event  : Bool
  mem    : HartMem
  eng    : HartEng
  trapAt : Nat
  icache : List (Side × Word × BitVec 32)
  spare  : List (Nat × LoopEntry)
deriving DecidableEq, Repr, Inhabited

/-! ### Caravans, slices, dispatchers -/

/-- States of a caravan on or off its cores (R349). An unplaced caravan has no record. -/
inductive CarState where
  | running | stopping | saving | saved | held | ending
deriving DecidableEq, Repr, Inhabited

/-- A caravan that holds a slot tag: its slice, its number there, its size, its cores in hart order (none
while it is saved), its state, its barrier register (R325), its budget (none: unlimited) and when that reached 0, when PREQ was raised,
the order of its placement and of its save, the die that homes its private areas, whether its image is taken
and whether a stop was forced, and when it was held, placed and saved. -/
structure Caravan where
  slice    : Nat
  num      : Nat
  size     : Nat
  cores    : List Nat
  st       : CarState
  ended    : BitVec 4
  phase    : Bool
  arrived  : BitVec 4
  budget   : Option Nat
  outAt    : Nat
  preqAt   : Option Nat
  placedNo : Nat
  savedNo  : Nat
  homeDie  : Nat
  imaged   : Bool
  forced   : Bool
  heldAt   : Nat
  placedAt : Nat
  imageAt  : Nat
deriving DecidableEq, Repr, Inhabited

/-- A launch descriptor (R332). -/
structure Desc where
  codebase : Nat
  codelen  : Nat
  aent     : Nat
  xent     : Nat
  count    : Nat
  spbytes  : Nat
  shape    : Nat
  acq      : Bool
  rel      : Bool
  scope    : Nat
  dieV     : Bool
  die      : Nat
  deadline : Nat
  budget   : Option Nat
  arg      : Word
  privsz   : Nat
  signal   : Word
  sigval   : Word
  leases   : List Lease
deriving DecidableEq, Repr, Inhabited

/-- States of a slice (R350). -/
inductive SliceState where
  | pending | ready | ending | done | failed
deriving DecidableEq, Repr, Inhabited

/-- Who submitted a slice (R334, R353, R357). -/
inductive Submitter where
  | hart
  | node (g : Nat) (n : Nat)
  | slot (n : Nat)
deriving DecidableEq, Repr, Inhabited

/-- A job slice, kept under the order in which the model met it. `num` is its number on its die (R333)
once it is enqueued, and 0 while it is PENDING; `nextCar` is its lowest unplaced caravan. `owed`: a LEASE trap of it waits
for a replacement of Slorraroth (R398); `dogged`: step 1 of the watchdog ended it (R399). -/
structure Slice where
  die      : Nat
  num      : Nat
  ctx      : Nat
  desc     : Desc
  st       : SliceState
  arrival  : Nat
  nextCar  : Nat
  retired  : Nat
  who      : Submitter
  io       : Nat
  sysRel   : Bool
  endAt    : Nat
  reported : Bool
  owed     : Bool
  dogged   : Bool
deriving DecidableEq, Repr, Inhabited

/-- A pre-emption request (R342): the victim until it has left its cores, the slice it serves, and the cores
reserved until that slice's caravan is placed. -/
structure PreReq where
  victim : Option CarId
  slice  : Nat
  cores  : List Nat
deriving DecidableEq, Repr, Inhabited

/-- A dispatcher: launches accepted, its requests, the private pool's units given out as (first unit,
units), whether the die is quiesced, and since when, and whether step 2 of the watchdog has been taken on it (R399). -/
structure Disp where
  launches : Nat
  reqs     : List PreReq
  priv     : List (Nat × Nat)
  quiesced : Bool
  quietAt  : Nat
  swept    : Bool
deriving DecidableEq, Repr, Inhabited

/-! ### Cores (R382, R384, R386) -/

/-- States of a core. -/
inductive CoreState where
  | nominal | derated | drained | retired
deriving DecidableEq, Repr, Inhabited

/-- A core: retired lanes, times of each lane's last two divergences, wear record in µWU and its
nonvolatile copy, state, whether its record has reached 85 % (R382), whether lanes drained it, whether it is to be
fused once free, whether a sag or heat stretches its clock and since when, which contexts occupied it since the last accrual (context, from, to), and its count of
corrected errors (R375), and DBGCTL's bits 7 to 3 while no hart runs on it (R372). -/
structure Core where
  lanemap : BitVec 32
  div     : List (Nat × Nat)
  wear    : Nat
  nvWear  : Nat
  st      : CoreState
  worn    : Bool
  lanes4  : Bool
  full    : Bool
  sag     : Bool
  heat    : Bool
  slowAt  : Option Nat
  occ     : List (Nat × Nat × Nat)
  ecc     : Nat
  dbg     : BitVec 5
deriving DecidableEq, Repr, Inhabited

/-! ### Engines -/

/-- A resource that keeps an almanac (R258); a Bool names the direction (true: write or outward). -/
inductive Res where
  | eng (n : Nat)
  | chan (die ch : Nat) (d : Bool)
  | edge (a b : Nat)
  | port (core : Nat) (d : Bool)
  | host (io : Nat) (d : Bool)
  | bl (n : Nat) (d : Bool)
  | ep (n : Nat) (d : Bool)
deriving DecidableEq, Repr, Inhabited

/-- Bytes booked on a resource in a slot for a copy (R260). An engine keeps one entry for both directions: a copy's bytes
enter it and leave it again in the same slot. -/
structure Booking where
  res   : Res
  slot  : Nat
  bytes : Nat
  who   : CmdId
deriving DecidableEq, Repr, Inhabited

/-- A leaf of a mesh: its root, its lower corner at level-20 resolution, its level and its owner. -/
structure Leaf where
  root  : Nat
  x     : Nat
  y     : Nat
  z     : Nat
  level : Nat
  owner : Nat
deriving DecidableEq, Repr, Inhabited

/-- A face entry of a root table (R295). -/
structure RootFace where
  bnd    : Bool
  btag   : Nat
  orient : Nat
  nface  : Nat
  nroot  : Nat
deriving DecidableEq, Repr, Inhabited

/-- A mesh descriptor (R294). -/
structure MeshDesc where
  collect : Nat
  ptab    : Word
  npart   : Nat
  part    : Nat
  nfield  : Nat
  ftab    : Word
  maxleaf : Nat
  scope   : Nat
  rel     : Bool
  acq     : Bool
  dim3    : Bool
  nroots  : Nat
  roots   : Word
  objlen  : Nat
  obj     : Word
deriving DecidableEq, Repr, Inhabited

/-- The forest that all partitions of one mesh share: who opened it (context and the bytes of the partition table), leaves in
global order, root table, generation, and the owners that MCUT left pending. -/
structure Forest where
  ctx    : Nat
  ptab   : List Byte
  dim3   : Bool
  nroots : Nat
  npart  : Nat
  roots  : List (List RootFace)
  leaves : List Leaf
  gen    : Nat
  cut    : Option (List Nat)
deriving DecidableEq, Repr, Inhabited

/-- A mesh open on a die (R297): its context, the descriptor and its address, the forest, the marks
registered (R304), the collective commands accepted on this partition (R308), and the object's bytes
as the engine last left them, over whose 4 KiB pages it keeps a CRC-32C (R297). -/
structure Mesh where
  ctx    : Nat
  desc   : MeshDesc
  at_    : Word
  forest : Nat
  marks  : Option Word
  rounds : Nat
  snap   : List Byte
deriving DecidableEq, Repr, Inhabited

/-- A collective round of a forest (R308): who joined with which command, since when, the limit,
whether it ended PARTNER, as those who join late then do too, whether its copies are planned (R310, R312), and whether
every partition has joined in time. -/
structure Round where
  forest : Nat
  no     : Nat
  since  : Nat
  limit  : Nat
  dead   : Bool
  begun  : Bool
  full   : Bool
  joined : List (Nat × CmdId × MeshOp)
deriving DecidableEq, Repr, Inhabited

/-- A copy of a topology engine (R310, R312): the die of the engine, its context, the round it serves and the
partition whose command issues it; the two partitions of a convoy; the mesh whose object it writes, if it moves leaf
records; whether its bytes appear at once with its last (R312); its bytes, which were read when the round began (log 17);
its block, its remote window and the copy it is chained to; and its record, once an engine has a place for it (R257). -/
structure Leg where
  die    : Nat
  ctx    : Nat
  forest : Nat
  round  : Nat
  part   : Nat
  convoy : Option (Nat × Nat)
  obj    : Option Nat
  whole  : Bool
  data   : List (Byte × Bool)
  blk    : CopyBlock
  win    : Option RWin
  pred   : Option Nat
  hrec   : Option HRec
deriving DecidableEq, Repr, Inhabited

/-- What a partition on another device brings to a round (R308): its command, and the status that its own checks end
it with, if they do (one of R292's codes for its command; another ends nothing). -/
structure Remote where
  op   : MeshOp
  fail : Option Nat
deriving DecidableEq, Repr, Inhabited

/-! ### Command processors, host and device -/

/-- States of a graph. -/
inductive GraphState where
  | running | failing | ended (fail : Bool)
deriving DecidableEq, Repr, Inhabited

/-- A graph on a command processor (R353). `waiting` holds the node that waits and since when. -/
structure Graph where
  ctx     : Nat
  io      : Nat
  base    : Word
  pos     : Nat
  st      : GraphState
  counts  : List (Nat × Nat)
  waiting : Option (Nat × Nat)
  slices  : List (Nat × Nat × Option Bool)
  copies  : List (Nat × HRec)
  issued  : Nat
  sub     : Nat
deriving DecidableEq, Repr, Inhabited

/-- A host submission being run (R356, R358). `fin`: ended, and whether it failed. -/
structure Submission where
  ctx    : Nat
  signal : Word
  sigval : Word
  fin    : Option Bool
deriving DecidableEq, Repr, Inhabited

/-- A host queue (R391). -/
structure HostQueue where
  base  : Nat
  lsize : Nat
  tail  : BitVec 32
  head  : BitVec 32
deriving DecidableEq, Repr, Inhabited

/-- An export of a context (R401). -/
structure Expt where
  rkey : BitVec 32
  peer : Nat
  w    : Bool
  r    : Bool
  len  : Nat
  base : Nat
deriving DecidableEq, Repr, Inhabited

/-- A context (R390, R383): its registers, the ASID and the root of its private space that Slorraroth keeps
(R138, R139). `charge` counts µWU; `shown` is what WUCHG reads in milli-WU. -/
structure Ctx where
  valid  : Bool
  failed : Bool
  root   : Nat
  asid   : BitVec 16
  proot  : Nat
  allow  : Nat
  rwins  : List (Nat × Vector Word 4)
  expts  : List (Nat × Vector Word 4)
  charge : Nat
  shown  : Nat
deriving DecidableEq, Repr, Inhabited

/-- States of a region (R146). -/
inductive RegState where
  | host | toDevice | device | leased | toHost
deriving DecidableEq, Repr, Inhabited

/-- A demand on a region: the host's, or a slice's. -/
inductive Demand where
  | host
  | slice (n : Nat)
deriving DecidableEq, Repr, Inhabited

/-- A 2 MiB region of a context (R146). -/
structure Region where
  st     : RegState
  leases : Nat
  queue  : List Demand
deriving DecidableEq, Repr, Inhabited

/-- The state that an image of Slorraroth writes to HBM for the next one (R398): the queues with their indices, the
position of each graph, the outstanding slices and copy handles, and each context with its allowance. -/
structure FwSaved where
  queues : List (Nat × HostQueue)
  graphs : List (Nat × Nat)
  slices : List Nat
  copies : List CmdId
  ctxs   : List (Nat × Nat)
deriving DecidableEq, Repr, Inhabited

/-- A firmware replacement in progress, with the state that the running image has written (R398). -/
structure FwRepl where
  img   : FwImage
  since : Nat
  saved : FwSaved
deriving DecidableEq, Repr, Inhabited

/-- What a measurement block measures (R402). -/
inductive Measured where
  | rom (digest : BitVec 512)
  | active (head : BitVec 2048) (body : BitVec 512)
  | inactive (head : BitVec 2048)
  | fuses (minSvn : Nat) (config : BitVec 64) (key : BitVec 512)
  | feat (f : BitVec 4)
deriving DecidableEq, Repr, Inhabited

/-- What an SPDM request was answered with (R402). -/
inductive SpdmAnswer where
  | version
  | capabilities
  | algorithms
  | digests (slot0 : BitVec 512)
  | certificate (slot : Nat) (chain : List Byte)
  | challenge (nonce : BitVec 256) (sig : Nat)
  | measurements (blocks : List Measured) (sig : Nat)
  | error
deriving DecidableEq, Repr, Inhabited

/-- One function's SPDM connection. -/
structure Spdm where
  version : Bool
  caps    : Bool
  algs    : Bool
  last    : Option SpdmAnswer
deriving DecidableEq, Repr, Inhabited

/-- Device-wide registers and firmware state (R378, R390 to R402). `accrued`: the time up to which wear is
accrued, `savedAt` when the records were last copied to the nonvolatile store (R380). `fwUp`: the boot ROM started an
image; `keyHash`: the fused hash of the key that signs images, and `fuses` the other fuses (R397, R402). `tvec`: where the
handlers of the running image lie (R396, R398). `failing`: the contexts that fail the test of R379, as it stood at the
moment of the error; `beats`: when the command processors of each I/O die last gave a heartbeat (R399). `msix`: both functions have raised the vector of a cold-reset request
(R399). `dbgRead`, `barRead`, `peerRead`: what the last read of a debug block, of BAR0 and of a peer returned (R372, R390,
R401). -/
structure Device where
  ready    : Word
  featoff  : BitVec 4
  featreq  : BitVec 4
  feat     : BitVec 4
  featSet  : Bool
  slotB    : Bool
  last     : Bool
  svn      : Nat
  minSvn   : Nat
  fwstage  : Vector Word 2
  repl     : Option FwRepl
  staged   : Option FwImage
  number   : Nat
  warm     : Option (FailRegion × Nat)
  restarts : List Nat
  off      : Bool
  coldReq  : Bool
  imgA     : FwImage
  imgB     : FwImage
  spdm     : List (Nat × Spdm)
  accrued  : Nat
  savedAt  : Nat
  fwUp     : Bool
  keyHash  : BitVec 512
  fuses    : BitVec 64
  tvec     : Word
  failing  : List Nat
  beats    : Vector Nat 2
  msix     : Bool
  dbgRead  : Word
  barRead  : Option Word
  peerRead : List Byte
deriving DecidableEq, Repr, Inhabited

/-- The registers of a command processor (R396): those of RV64GC, and of the RISC-V privileged architecture, version
1.12, those that R396 names; sstatus, sie and sip show bits of mstatus, mie and mip. `resv`: what LR reserves (address,
bytes, what they held). `mode`: 3 machine, 1 supervisor,
0 user. -/
structure CpRegs where
  x       : Vector Word 32
  f       : Vector Word 32
  pc      : Word
  fcsr    : BitVec 8
  mode    : BitVec 2
  mstatus : Word
  mtvec   : Word
  mepc    : Word
  mcause  : Word
  mtval   : Word
  mie     : Word
  mip     : Word
  satp    : Word
  stvec   : Word
  sepc    : Word
  scause  : Word
  stval   : Word
  resv    : Option (Nat × Nat × Word)
deriving DecidableEq, Repr, Inhabited

/-! ### Turns: the model's own fields -/

/-- What a turn's access meets: nothing, a shadow unit's own result at an element (R201), an uncorrectable error in
reading elements of a vector register, in a predicate register, in an element of a store-queue entry, in a matrix
accumulator, or in a granule of a scratchpad or of HBM; an error in a core that is corrected (R375); or bits of the
chunk that lands flip on a peer's write path (R406). -/
inductive Upset where
  | none
  | shadow (e r : Nat)
  | vread (field e : Nat)
  | pread
  | stq (q : Fin 4) (e : Nat)
  | acc (e : Nat)
  | granule (key : Nat)
  | fixed (core : Nat)
  | flip (o : Nat) (x : Byte)
deriving DecidableEq, Repr, Inhabited

/-- The registers of a command processor that R396 names, with the supervisor's views, and its clocks. -/
inductive CpCsr where
  | mstatus | mtvec | mepc | mcause | mtval | mie | mip | satp
  | sstatus | stvec | sepc | scause | stval | sie | sip
  | time | fcsr
deriving DecidableEq, Repr, Inhabited

/-- What a command processor does to its privileged state (R396): it writes or reads one of its registers, reads mtime,
reads memory through its translation, takes a trap, returns from one, gives its die's watchdog a heartbeat (R399), runs the
word at its pc, or sees an interrupt line rise or fall. -/
inductive CpOp where
  | write (c : CpCsr) (v : Word)
  | read (c : CpCsr) (d : Fin 32)
  | mtime (d : Fin 32)
  | load (va : Nat) (d : Fin 32)
  | trap (cause tval : Word) (toS : Bool)
  | mret
  | sret
  | beat
  | run
  | irq (n : Fin 64) (b : Bool)
deriving DecidableEq, Repr, Inhabited

/-- Who acts in a turn: a side of a hart, an event, a core handler, the host at BAR0 of a function (offset, size and
the value it writes; R390), or a command processor. -/
inductive Act where
  | run (k : HartKey) (side : Side)
  | event (i : Instr)
  | handler (k : HartKey)
  | bar (fn off size : Nat) (w : Option Word)
  | cp (n : Fin 8) (op : CpOp)
deriving DecidableEq, Repr, Inhabited

/-- One turn: almanac time that passes first, who acts, whether its access is performed later, what error strikes
it, and the element before which a vector access or a stopped element-wise instruction ends its part of the
turn (R129, R177). -/
structure Turn where
  elapsed : Nat
  act     : Act
  defer   : Bool
  upset   : Upset
  cut     : Option Nat := none
deriving DecidableEq, Repr, Inhabited

/-- The model's own fields. `free` counts the free values taken. -/
structure Own where
  turns  : List Turn
  turnNo : Nat
  cur    : HartKey
  side   : Side
  ir     : BitVec 32
  defer  : Bool
  upset  : Upset
  cut    : Option Nat
  free   : Nat
  order  : Nat
deriving DecidableEq, Repr, Inhabited

/-- The whole machine. -/
structure State where
  own     : Own
  now     : Nat
  mem     : List Host.Cell
  poison  : List Nat
  harts   : List (HartKey × Hart)
  cars    : List (CarId × Caravan)
  slices  : List (Nat × Slice)
  disps   : List (Nat × Disp)
  cores   : List (Nat × Core)
  books   : List Booking
  meshes  : List (Nat × Mesh)
  objs    : List Mesh
  forests : List (Nat × Forest)
  joins   : List Round
  legs    : List (Nat × Leg)
  bazs    : List (Nat × List CmdId)
  graphs  : List (Nat × Graph)
  subs    : List (Nat × Submission)
  queues  : List (Nat × HostQueue)
  ctxs    : List (Nat × Ctx)
  regions : List ((Nat × Nat) × Region)
  cps     : Vector CpRegs 8
  dev     : Device
deriving DecidableEq, Repr, Inhabited

/-! ### Faults and refusals -/

/-- Why the machine stops. A trap of a hart is a next state, not one of these. -/
inductive Fault where
  /-- The module has no power (R387, POWER_LOSS); raised by `step` before anything runs. Safe: the
  spec gives no behaviour without power. -/
  | poweredOff
deriving DecidableEq, Repr, Inhabited

/-- Why the model gives no next state. -/
inductive Refusal where
  /-- The instruction has no meaning in the model yet. Safe. -/
  | notModelled (mnemonic : String)
deriving DecidableEq, Repr, Inhabited

/-! ### Reset -/

/-- A sequencer with nothing loaded. -/
def Seq.reset : Seq :=
  { pc := 0, loops := [], vl := 0, vstart := 0, ended := false, stop := none, wait := none }

/-- Empty queues (R134). -/
def Queues.reset : Queues :=
  { vload := Vector.replicate 4 { head := 0, items := [], resv := none, held := none },
    vstore := Vector.replicate 4 { head := 0, items := [], resv := none, held := none },
    toX := Vector.replicate 4 { head := 0, items := [] },
    toA := Vector.replicate 4 { head := 0, items := [] },
    len := { head := 0, items := [] } }

/-- Zero registers (R77). -/
def Regs.reset : Regs :=
  { a := Vector.replicate 32 0, x := Vector.replicate 32 0, v := Vector.replicate 32 0,
    p := Vector.replicate 64 0, psm := 0 }

/-- VT resets to 0x14 (R46), QWAIT to 0x000F_4240 (R107), everything else to 0. -/
def Csrs.reset : Csrs :=
  { fflags := 0, frm := 0, vt := 0x14, stripsz := 0, xlink := 0, qwait := 0xF4240, sticky := 0,
    preq := false, optlr := 0, optb1 := 0, optb2 := 0, opteps := 0, optwd := 0, optbc := 0 }

/-- R359, R371, R384; TVEC has no reset value (log 5). -/
def Traps.reset : Traps :=
  { nest := false, xpause := false, smode := false, causeX := false, code := 0, epc := 0, tval := 0,
    tvec := 0, scratch := 0, tval2 := 0, xepc := 0, pregrace := 0x4E20, shEn := true,
    shRetire := true, halted := false, haltreq := false, cvhalt := false, stepdbg := false,
    brkdbg := false, stepx := false, stepa := false }

/-- A hart with no grants. -/
def HartMem.reset : HartMem :=
  { leases := [], spBytes := 0, privSize := 0, pbase := 0, pend := [], pendNo := 0,
    pendLoad := none, got := none, mid := none, fence := [] }

/-- A hart with no handles. -/
def HartEng.reset : HartEng := { lastSeq := 0, wrapped := false, cpys := 0, recs := [], gen := none, refl := none }

/-- A hart at reset. -/
def Hart.reset : Hart :=
  { a := Seq.reset, x := Seq.reset, aside := none, regs := Regs.reset, q := Queues.reset,
    csr := Csrs.reset, tr := Traps.reset, wph := false, event := false, mem := HartMem.reset,
    eng := HartEng.reset, trapAt := 0, icache := [], spare := [] }

/-- A core at reset: no lane retired, no wear (log 5). -/
def Core.reset : Core :=
  { lanemap := 0, div := [], wear := 0, nvWear := 0, st := .nominal, worn := false, lanes4 := false, full := false,
    sag := false, heat := false, slowAt := none, occ := [], ecc := 0, dbg := 0 }

/-- A dispatcher at reset: no launch counted (R333). -/
def Disp.reset : Disp := { launches := 0, reqs := [], priv := [], quiesced := false, quietAt := 0, swept := false }

/-- A context at reset (R390, R401; log 5). -/
def Ctx.reset : Ctx :=
  { valid := false, failed := false, root := 0, asid := 0, proot := 0, allow := 0, rwins := [], expts := [],
    charge := 0, shown := 0 }

/-- A host queue at cold reset (R391). -/
def HostQueue.reset : HostQueue := { base := 0, lsize := 4, tail := 0, head := 0 }

/-- A region before any demand (log 5). -/
def Region.reset : Region := { st := .host, leases := 0, queue := [] }

/-- What stands in a flash slot at reset: the magic number, and zeros (log 5). -/
def FwImage.shipped : FwImage := { head := 0x534C5230, body := [] }

/-- The device registers at cold reset (R393, R395; log 5). -/
def Device.reset : Device :=
  { ready := 0, featoff := 0xF, featreq := 0, feat := 0, featSet := false, slotB := false,
    last := false, svn := 0, minSvn := 0, fwstage := Vector.replicate 2 0, repl := none, staged := none, number := 0,
    warm := none, restarts := [], off := false, coldReq := false,
    imgA := FwImage.shipped, imgB := FwImage.shipped, spdm := [], accrued := 0, savedAt := 0, fwUp := true,
    keyHash := 0, fuses := 0, tvec := 0, failing := [], beats := Vector.replicate 2 0, msix := false, dbgRead := 0, barRead := none, peerRead := [] }

/-- The model's own fields at reset (log 1). -/
def Own.reset : Own :=
  { turns := [], turnNo := 0, cur := ⟨0, 0, 0⟩, side := .A, ir := 0, defer := false, upset := .none,
    cut := none, free := 0, order := 0 }

/-- A command processor at reset: machine mode, interrupts off, no translation, 64-bit modes below (log 69). -/
def CpRegs.reset : CpRegs :=
  { x := Vector.replicate 32 0, f := Vector.replicate 32 0, pc := 0, fcsr := 0, mode := 3, mstatus := 0xA00000000, mtvec := 0, mepc := 0, mcause := 0, mtval := 0, mie := 0, mip := 0, satp := 0,
    stvec := 0, sepc := 0, scause := 0, stval := 0, resv := none }

/-- The machine right after cold reset: almanac 0 (R33), memory with nothing listed, no hart placed,
no context valid. -/
def State.reset : State :=
  { own := Own.reset, now := 0, mem := [], poison := [], harts := [], cars := [], slices := [],
    disps := [], cores := [], books := [], meshes := [], objs := [], forests := [], joins := [], legs := [], bazs := [],
    graphs := [], subs := [], queues := [], ctxs := [], regions := [], cps := Vector.replicate 8 CpRegs.reset, dev := Device.reset }

end Sys2Proof.Machine

namespace Sys2Proof

/-- The turn the machine takes when no turn is listed. Free value, log 1. -/
opaque Config.schedule : Nat → Machine.Turn

/-- What a partition on another device has joined a round with by now, if it has (R308): by the count of free values
and the partition. Free value, log 82. -/
opaque Config.remoteJoin : Nat → Nat → Option Machine.Remote

end Sys2Proof
end

