-- ==== Sys2Proof/Machine/Mem.lean ====
section
/-! DEFINITION. Lists by key, memory bytes and poison granules, the window classes and checks of
01_machine R24 to R28 and 04_access R110, and translation (R138 to R141). -/

namespace Sys2Proof.Machine

/-- What every meaning answers. -/
abbrev Out := Host.Outcome State Fault Refusal

/-! ### Lists by key -/

/-- The value under a key. -/
def kvGet {α β : Type} [DecidableEq α] : List (α × β) → α → Option β
  | [], _ => none
  | (k, v) :: t, a => if k = a then some v else kvGet t a

/-- Put a value under a key. -/
def kvSet {α β : Type} [DecidableEq α] : List (α × β) → α → β → List (α × β)
  | [], a, b => [(a, b)]
  | (k, v) :: t, a, b => if k = a then (k, b) :: t else (k, v) :: kvSet t a b

/-- Remove a key. -/
def kvDel {α β : Type} [DecidableEq α] (l : List (α × β)) (a : α) : List (α × β) :=
  l.filter (fun p => p.1 ≠ a)

/-- The value under a key, or the given one. -/
def kvGetD {α β : Type} [DecidableEq α] (l : List (α × β)) (a : α) (d : β) : β := (kvGet l a).getD d

/-! ### Whose state -/

/-- The hart of a key; one that was never placed is a hart at reset. -/
def State.hart (s : State) (k : HartKey) : Hart := kvGetD s.harts k Hart.reset

/-- Replace the hart of a key. -/
def State.setHart (s : State) (k : HartKey) (h : Hart) : State := { s with harts := kvSet s.harts k h }

/-- The hart whose turn it is. -/
def State.h (s : State) : Hart := s.hart s.own.cur

/-- Replace the hart whose turn it is. -/
def State.setH (s : State) (h : Hart) : State := s.setHart s.own.cur h

/-- Change the hart whose turn it is. -/
def State.modH (s : State) (f : Hart → Hart) : State := s.setH (f s.h)

/-- Change the hart of a key. -/
def State.modHart (s : State) (k : HartKey) (f : Hart → Hart) : State := s.setHart k (f (s.hart k))

/-- The caravan of a hart (R25). -/
def carKey (k : HartKey) : CarId := ⟨k.die, k.slot⟩

/-- The caravan of an identifier. -/
def State.carOf (s : State) (c : CarId) : Caravan := kvGetD s.cars c default

/-- The caravan of a hart. -/
def State.caravan (s : State) (k : HartKey) : Caravan := s.carOf (carKey k)

/-- Replace a caravan. -/
def State.setCar (s : State) (c : CarId) (v : Caravan) : State := { s with cars := kvSet s.cars c v }

/-- The slice under a serial number. -/
def State.sliceNo (s : State) (n : Nat) : Slice := kvGetD s.slices n default

/-- The slice a hart runs for. -/
def State.sliceOf (s : State) (k : HartKey) : Slice := s.sliceNo (s.caravan k).slice

/-- Replace a slice. -/
def State.setSlice (s : State) (n : Nat) (v : Slice) : State := { s with slices := kvSet s.slices n v }

/-- The context of a number. -/
def State.ctxNo (s : State) (n : Nat) : Ctx := kvGetD s.ctxs n Ctx.reset

/-- The core of a number. -/
def State.coreNo (s : State) (n : Nat) : Core := kvGetD s.cores n Core.reset

/-- The wear record that is 85 % of a core's budget (R381). -/
def wornAt : Nat := 187000000000000

/-- Whether a core's record has reached 85 %: its clock and its port keep the DERATED cap from then on, whatever a
loss of power takes from the record (R382, R384). -/
def Core.capped (c : Core) : Bool := c.worn || c.st == .derated || decide (c.wear ≥ wornAt)

/-- Replace a core. -/
def State.setCore (s : State) (n : Nat) (c : Core) : State := { s with cores := kvSet s.cores n c }

/-- The dispatcher of a die. -/
def State.disp (s : State) (d : Nat) : Disp := kvGetD s.disps d Disp.reset

/-- Replace the dispatcher of a die. -/
def State.setDisp (s : State) (d : Nat) (v : Disp) : State := { s with disps := kvSet s.disps d v }

/-- The core that carries a hart (R12, R17). -/
def State.coreOf (s : State) (k : HartKey) : Nat := (s.caravan k).cores.getD k.idx 0

/-- A sequencer of a hart. -/
def Hart.seq (h : Hart) (sd : Side) : Seq :=
  match sd with
  | .A => h.a
  | .X => h.x

/-- Replace a sequencer of a hart. -/
def Hart.setSeq (h : Hart) (sd : Side) (q : Seq) : Hart :=
  match sd with
  | .A => { h with a := q }
  | .X => { h with x := q }

/-- The other side. -/
def otherSide : Side → Side
  | .A => .X
  | .X => .A

/-! ### Memory cells (one byte to a key, strictly rising keys, no zero byte listed; log 4) -/

/-- The byte at a key; an unlisted byte reads 0. -/
def memGet : List Host.Cell → Nat → Byte
  | [], _ => 0
  | (k, b) :: t, a => if k = a then b else memGet t a

/-- Write a byte, keeping the canonical form. -/
def memSet : List Host.Cell → Nat → Byte → List Host.Cell
  | [], a, b => if b = 0 then [] else [(a, b)]
  | (k, c) :: t, a, b =>
    if a < k then (if b = 0 then (k, c) :: t else (a, b) :: (k, c) :: t)
    else if a = k then (if b = 0 then t else (a, b) :: t)
    else (k, c) :: memSet t a b

/-- Keys strictly rising from above a bound, no zero byte. -/
def memWfFrom : Option Nat → List Host.Cell → Bool
  | _, [] => true
  | lo, (k, b) :: t => (match lo with | none => true | some l => decide (l < k)) && b != 0 && memWfFrom (some k) t

/-- The canonical form of memory. -/
def Memory.wf (m : List Host.Cell) : Bool := memWfFrom none m

/-- `n` bytes from a key. -/
def memBytes (m : List Host.Cell) (a : Nat) : Nat → List Byte
  | 0 => []
  | n + 1 => memGet m a :: memBytes m (a + 1) n

/-- Write bytes from a key, each under a mask. -/
def memPut (m : List Host.Cell) (a : Nat) : List (Byte × Byte) → List Host.Cell
  | [] => m
  | (v, k) :: t => memPut (memSet m a ((memGet m a &&& ~~~k) ||| (v &&& k))) (a + 1) t

/-- Little-endian value of bytes (R3). -/
def bytesNat : List Byte → Nat
  | [] => 0
  | b :: t => b.toNat + 256 * bytesNat t

/-- Little-endian bytes of a value (R3). -/
def natBytes (v : Nat) : Nat → List Byte
  | 0 => []
  | n + 1 => BitVec.ofNat 8 v :: natBytes (v / 256) n

/-- Bytes written whole. -/
def whole (bs : List Byte) : List (Byte × Byte) := bs.map (fun b => (b, 0xFF))

/-! ### Poison granules of four bytes (R126) -/

/-- Insert in a strictly rising list. -/
def insNat : List Nat → Nat → List Nat
  | [], a => [a]
  | k :: t, a => if a < k then a :: k :: t else if a = k then k :: t else k :: insNat t a

/-- The granules of `n` bytes from a key. -/
def granules (a n : Nat) : List Nat := (List.range ((a + n + 3) / 4 - a / 4)).map (· + a / 4)

/-- Whether some granule of the bytes is poisoned. -/
def poisoned (p : List Nat) (a n : Nat) : Bool := (granules a n).any (fun g => p.contains g)

/-- Poison the granules of the bytes. -/
def poisonSet (p : List Nat) (a n : Nat) : List Nat := (granules a n).foldl insNat p

/-- Clear the granules of the bytes. -/
def poisonClear (p : List Nat) (a n : Nat) : List Nat :=
  p.filter (fun g => !(decide (a / 4 ≤ g) && decide (g < (a + n + 3) / 4)))

/-- Apply a poison action to the bytes. -/
def poisonDo (p : List Nat) (act : PoisonAct) (a n : Nat) : List Nat :=
  match act with
  | .keep => p
  | .clear => poisonClear p a n
  | .set => poisonSet p a n

/-- What storing an element of `n` bytes does to poison (R126): a clean element narrower than a
granule clears none. -/
def psnAct (poison : Bool) (n : Nat) : PoisonAct :=
  if poison then .set else if n ≥ 4 then .clear else .keep

/-! ### Spaces: one flat key for every byte of every memory -/

/-- Size of a space's key range. -/
def spaceSize : Nat := 0x10000000000000000
/-- Device HBM by physical address. -/
def keyHbm (pa : Nat) : Nat := pa
/-- Host memory by bus address. -/
def keyHost (ba : Nat) : Nat := spaceSize + ba
/-- Slorraroth's own address space, from which S-mode code is fetched (R360). -/
def keyRom (a : Nat) : Nat := 2 * spaceSize + a
/-- A context's private virtual space (R138). -/
def keyPriv (ctx va : Nat) : Nat := (0x1000 + ctx) * spaceSize + va
/-- A hart's scratchpad (R24, R348). -/
def keySpad (k : HartKey) (off : Nat) : Nat := (0x10000 + (k.die * 256 + k.slot) * 4 + k.idx) * spaceSize + off
/-- A peer device's memory (R277). -/
def keyPeer (n a : Nat) : Nat := (0x100000 + n) * spaceSize + a

/-- Host memory and peers hold no poison (R125, R268). -/
def keyHoldsPoison (key : Nat) : Bool :=
  key < spaceSize || (0x1000 * spaceSize ≤ key && key < 0x100000 * spaceSize)

/-- Whether a key is a byte of a scratchpad. -/
def keyIsSpad (key : Nat) : Bool := 0x10000 * spaceSize ≤ key && key < 0x100000 * spaceSize

/-- Whether a key is a byte of host memory. -/
def keyIsHost (key : Nat) : Bool := spaceSize ≤ key && key < 2 * spaceSize

/-! ### Windows (R24 to R28) -/

/-- [63:56]. -/
def gTop (g : Word) : Nat := (g.extractLsb' 56 8).toNat
/-- [55:0] of a global address. -/
def gVa (g : Word) : Nat := (g.extractLsb' 0 56).toNat
/-- [39:0] of a private address. -/
def gPriv (g : Word) : Nat := (g.extractLsb' 0 40).toNat
/-- [19:0] of a scratchpad or cluster address. -/
def gOff (g : Word) : Nat := (g.extractLsb' 0 20).toNat
/-- [55:48] SLOT. -/
def gSlot (g : Word) : Nat := (g.extractLsb' 48 8).toNat
/-- [47:46] HART of a scratchpad address. -/
def gHartS (g : Word) : Nat := (g.extractLsb' 46 2).toNat
/-- [21:20] HART of a cluster address. -/
def gHartC (g : Word) : Nat := (g.extractLsb' 20 2).toNat

/-- The window class of an address as a hart sees it (R28). -/
def winClass (s : State) (k : HartKey) (g : Word) : Nat :=
  if gTop g = 0x00 then 0
  else if gTop g = 0xF0 then (if g.extractLsb' 40 16 = 0 then 1 else 7)
  else if gTop g = 0xF1 then
    (if g.extractLsb' 20 26 = 0 then (if gSlot g = k.slot ∧ gHartS g = k.idx then 2 else 3) else 7)
  else if gTop g = 0xF2 then
    (if g.extractLsb' 22 26 = 0 then
      (if gSlot g = k.slot ∧ gHartC g < (s.caravan k).size then 4 else 5) else 7)
  else if gTop g = 0xFE then 6
  else 7

/-- Base of the queue block of the device window (R136). -/
def qblockBase : Nat := 0x00100000
/-- Base of the debug blocks (R372). -/
def debugBase : Nat := 0x200000000

/-- The bytes of a scratchpad that a hart of the slice may reach (R26). -/
def State.spLimit (s : State) (k : HartKey) : Nat := min Config.spadBytes (s.hart k).mem.spBytes

/-- The window rule of R26 for `n` bytes at `g`; the extent of the queue block is log 63. -/
def windowOk (s : State) (k : HartKey) (g : Word) (n : Nat) : Bool :=
  match winClass s k g with
  | 0 => gVa g + n ≤ 0x100000000000000
  | 1 => gPriv g + n ≤ (s.hart k).mem.privSize
  | 2 => gOff g + n ≤ s.spLimit k
  | 4 => gOff g + n ≤ s.spLimit k
  | 6 => (s.hart k).tr.smode &&
      (if qblockBase ≤ gVa g ∧ gVa g < qblockBase + 0x20000 then n = 8 && gVa g % 8 = 0
       else !(debugBase ≤ gVa g && gVa g < debugBase + 512 * 0x100000))
  | _ => false

/-- The cause of a trap with its two details (R360). -/
structure Trap where
  cause : Nat
  tval  : Word
  tval2 : Word
deriving DecidableEq, Repr, Inhabited

/-- Causes of R363. -/
def cIllegal : Nat := 0x01
/-- MISALIGN. -/
def cMisalign : Nat := 0x02
/-- WINDOW. -/
def cWindow : Nat := 0x03
/-- LEASE. -/
def cLease : Nat := 0x04
/-- POISON. -/
def cPoison : Nat := 0x05
/-- SHADOW. -/
def cShadow : Nat := 0x06
/-- OVERDUE. -/
def cOverdue : Nat := 0x07
/-- WAITTIME. -/
def cWaittime : Nat := 0x08
/-- QSTALL. -/
def cQstall : Nat := 0x09
/-- ORPHAN. -/
def cOrphan : Nat := 0x0B
/-- INTEGRITY. -/
def cIntegrity : Nat := 0x0C
/-- ECALL. -/
def cEcall : Nat := 0x0D
/-- BREAK. -/
def cBreak : Nat := 0x0E
/-- STEP. -/
def cStep : Nat := 0x0F
/-- ENGINE. -/
def cEngine : Nat := 0x12

/-- A natural number as a 64-bit word. -/
def word (n : Nat) : Word := BitVec.ofNat 64 n

/-- The lease that governs an address: the lowest index that contains it (R110, R143). -/
def leaseAt (ls : List Lease) (va : Nat) : Option (Nat × Lease) :=
  (ls.zipIdx.find? (fun p => decide (p.1.base ≤ va) && decide (va < p.1.base + p.1.len))).map (fun p => (p.2, p.1))

/-! ### Translation (R140, R141) -/

/-- Rights an access needs. -/
structure Need where
  r : Bool
  w : Bool
  x : Bool
deriving DecidableEq, Repr, Inhabited

/-- A load. -/
def needR : Need := ⟨true, false, false⟩
/-- A store. -/
def needW : Need := ⟨false, true, false⟩
/-- VSTXADD and every AMO (R110). -/
def needRW : Need := ⟨true, true, false⟩
/-- An instruction fetch. -/
def needX : Need := ⟨false, false, true⟩

/-- The four levels: shift of the index, index bits, whether a leaf may stand there, alignment shift
of the next table (R140). -/
def walkLevels : List (Nat × Nat × Bool × Nat) :=
  [(43, 13, false, 16), (30, 13, true, 12), (21, 9, true, 8), (16, 5, true, 0)]

/-- Walk from a table: the page's physical or bus address, whether it is a host page, and whether the
leaf holds the rights needed. -/
def walkFrom (m : List Host.Cell) (need : Need) (va : Nat) :
    List (Nat × Nat × Bool × Nat) → Nat → Option (Nat × Bool × Bool)
  | [], _ => none
  | (sh, bits, leafOk, nextSh) :: rest, table =>
    let e := bytesNat (memBytes m (keyHbm (table + 8 * (va / 2 ^ sh % 2 ^ bits))) 8)
    let addr := e / 256 % 2 ^ 48 * 256
    if e % 2 = 0 then none
    else if e / 16 % 2 = 1 then
      if leafOk && addr % 2 ^ sh = 0 then
        some (addr + va % 2 ^ sh, e / 32 % 2 = 1,
          (!need.r || e / 2 % 2 = 1) && (!need.w || e / 4 % 2 = 1) && (!need.x || e / 8 % 2 = 1))
      else none
    else if e / 32 % 2 = 1 || rest.isEmpty || addr % 2 ^ nextSh ≠ 0 then none
    else walkFrom m need va rest addr

/-- The device address of a byte whose line a cache holds for a context, tagged by ASID (R29, R137); whether one
does is a free value (log 3). -/
def heldLine (s : State) (ctx va : Nat) : Option Nat :=
  (Config.lineHeld s.own.free (s.ctxNo ctx).asid.toNat (va / 64)).map (fun l => l % 2 ^ 50 * 64 + va % 64)

/-- Where a global address lies. A line that a cache holds is reached without a table entry being checked (R29,
R141); lines of host pages are never held (R137). -/
def translate (s : State) (ctx : Nat) (va : Nat) (need : Need) : Option Nat :=
  match walkFrom s.mem need va walkLevels (s.ctxNo ctx).root with
  | none => (heldLine s ctx va).map keyHbm
  | some (a, host, ok) =>
    if ok || (!host && (heldLine s ctx va).isSome) then some (if host then keyHost a else keyHbm a) else none

/-- Whether a walk from a table stops at an entry that is not valid. -/
def walkGap (m : List Host.Cell) (va : Nat) : List (Nat × Nat × Bool × Nat) → Nat → Bool
  | [], _ => false
  | (sh, bits, _, nextSh) :: rest, table =>
    let e := bytesNat (memBytes m (keyHbm (table + 8 * (va / 2 ^ sh % 2 ^ bits))) 8)
    let addr := e / 256 % 2 ^ 48 * 256
    if e % 2 = 0 then true
    else if e / 16 % 2 = 1 || e / 32 % 2 = 1 || rest.isEmpty || addr % 2 ^ nextSh ≠ 0 then false
    else walkGap m va rest addr

/-- Where a byte of a context's private space lies: the tables of the second root say it (R138). Where they hold no valid
entry for it, it is in the page that Slorraroth mapped there before the caravan ran (log 13). -/
def privKey (s : State) (ctx va : Nat) (need : Need) : Option Nat :=
  match walkFrom s.mem need va walkLevels (s.ctxNo ctx).proot with
  | none => if walkGap s.mem va walkLevels (s.ctxNo ctx).proot then some (keyPriv ctx va) else none
  | some (a, host, ok) => if ok then some (if host then keyHost a else keyHbm a) else none

/-- Where a page of a private space lies, whatever rights its leaf holds. -/
def privPageKey (s : State) (ctx va : Nat) : Nat := (privKey s ctx va ⟨false, false, false⟩).getD (keyPriv ctx va)

/-- Whether a walk of the tables finds a leaf with the rights needed, whatever a cache holds (R428). -/
def mapped (s : State) (ctx : Nat) (va : Nat) (need : Need) : Bool :=
  match walkFrom s.mem need va walkLevels (s.ctxNo ctx).root with
  | some (_, _, ok) => ok
  | none => false

/-- The shift (16, 21 or 30) of the page that maps a global address (R140). -/
def pageShift (m : List Host.Cell) (va : Nat) : List (Nat × Nat × Bool × Nat) → Nat → Nat
  | [], _ => 16
  | (sh, bits, _, _) :: rest, table =>
    let e := bytesNat (memBytes m (keyHbm (table + 8 * (va / 2 ^ sh % 2 ^ bits))) 8)
    if e % 2 = 1 ∧ e / 16 % 2 = 0 then pageShift m va rest (e / 256 % 2 ^ 48 * 256) else sh

/-- The first 64 KiB unit of the page that maps an address (R140, R145; log 86). -/
def pageOf (s : State) (ctx va : Nat) : Nat :=
  let sh := max 16 (min 30 (pageShift s.mem va walkLevels (s.ctxNo ctx).root))
  va / 2 ^ sh * 2 ^ sh / 0x10000

/-! ### The checks of R110 -/

/-- A checked element: its key, its governing lease, its class, and for class 6 its device address. -/
structure Place where
  key : Nat
  cls : Nat
  rd  : Option Nat
  sc  : Bool
  ns  : Bool
  dev : Nat
deriving DecidableEq, Repr, Inhabited

/-- The hart that an address of class 2 or 4 names. -/
def spadHart (k : HartKey) (cls : Nat) (g : Word) : HartKey := if cls = 4 then { k with idx := gHartC g } else k

/-- A translated global element under a lease. -/
def placeGlobal (s : State) (k : HartKey) (g : Word) (need : Need) (l : Lease) : Except Trap Place :=
  match translate s (s.sliceOf k).ctx (gVa g) need with
  | some key => .ok { key := key, cls := 0, rd := if l.rd then some (pageOf s (s.sliceOf k).ctx (gVa g)) else none,
                      sc := l.sc, ns := l.ns, dev := 0 }
  | none => .error ⟨cLease, g, 2⟩

/-- Window and lease checks of an element, without alignment (R110). -/
def checkRange (s : State) (k : HartKey) (g : Word) (n : Nat) (need : Need) : Except Trap (Option Lease) :=
  if !windowOk s k g n then .error ⟨cWindow, g, word (winClass s k g)⟩
  else if winClass s k g = 0 then
    match leaseAt (s.hart k).mem.leases (gVa g) with
    | none => .error ⟨cLease, g, 0⟩
    | some (_, l) =>
      if gVa g + n > l.base + l.len then .error ⟨cLease, g, 0⟩
      else if (need.r && !l.r) || (need.w && !l.w) then .error ⟨cLease, g, 1⟩
      else .ok (some l)
  else .ok none

/-- Resolve an address whose window and lease checks have passed. -/
def resolve (s : State) (k : HartKey) (g : Word) (need : Need) (l : Option Lease) : Except Trap Place :=
  match winClass s k g with
  | 0 => placeGlobal s k g need (l.getD default)
  | 1 =>
    match privKey s (s.sliceOf k).ctx ((s.hart k).mem.pbase + gPriv g) need with
    | some key => .ok { key := key, cls := 1, rd := none, sc := false, ns := false, dev := 0 }
    | none => .error ⟨cLease, g, 2⟩
  | 6 => .ok { key := 0, cls := 6, rd := none, sc := false, ns := false, dev := gVa g }
  | c => .ok { key := keySpad (spadHart k c g) (gOff g), cls := c, rd := none, sc := false, ns := false, dev := 0 }

/-- Check an element of `n` bytes at `g` as R110 does, element index `e`, and find its place. -/
def checkElem (s : State) (k : HartKey) (g : Word) (n : Nat) (need : Need) (e : Nat) : Except Trap Place :=
  match checkRange s k g n need with
  | .error t => .error t
  | .ok l =>
    if n > 1 ∧ g.toNat % n ≠ 0 then .error ⟨cMisalign, g, word e⟩
    else resolve s k g need l

/-- The checks of R110 without translation, for ranges an engine or LCHK judges. -/
def checkOnly (s : State) (k : HartKey) (g : Word) (n : Nat) (need : Need) : Option Trap :=
  match checkRange s k g n need with
  | .error t => some t
  | .ok _ => none

/-- The key of one byte of a checked range, for an engine acting for a hart; none where translation
fails. -/
def byteKey (s : State) (k : HartKey) (g : Word) (need : Need) : Option Nat :=
  match winClass s k g with
  | 0 => translate s (s.sliceOf k).ctx (gVa g) need
  | _ =>
    match resolve s k g need none with
    | .ok p => some p.key
    | .error _ => none

/-! ### Performing accesses -/

/-- Whether a hart sleeps in a SIGW whose line the bytes touch (R331). -/
def Hart.sleepsOn (h : Hart) (key n : Nat) : Bool :=
  match h.a.wait with
  | some w =>
    match w.line with
    | some l => decide (l < key + n) && decide (key < l + 64)
    | none => false
  | none => false

/-- The home of a line notifies the harts that sleep on it: their event bits are set (R102, R331). -/
def notify (hs : List (HartKey × Hart)) (key n : Nat) : List (HartKey × Hart) :=
  hs.map (fun p => if p.2.sleepsOn key n then (p.1, { p.2 with event := true }) else p)

/-- Write bytes with a poison action, and notify who sleeps on them. -/
def State.put (s : State) (key : Nat) (bs : List (Byte × Byte)) (act : PoisonAct) : State :=
  { s with mem := memPut s.mem key bs,
           harts := notify s.harts key bs.length,
           poison := if keyHoldsPoison key then poisonDo s.poison act key bs.length else s.poison }

/-- Bytes at a key with one part of a store laid over them. -/
def StPart.over (p : StPart) (key : Nat) (bs : List Byte) : List Byte :=
  bs.zipIdx.map (fun bi =>
    if p.key ≤ key + bi.2 then
      match p.bytes[key + bi.2 - p.key]? with
      | some vm => (bi.1 &&& ~~~vm.2) ||| (vm.1 &&& vm.2)
      | none => bi.1
    else bi.1)

/-- The parts of pending stores that their own hart reads early; nobody reads a store to an RD page before it is
performed (R145, R163). -/
def ownParts (pend : List PendStore) : List StPart := (pend.filter (fun p => p.rd.isNone)).flatMap (·.parts)

/-- Overlay the stores a hart has not yet performed on bytes at a key (R163). -/
def overlay (pend : List PendStore) (key : Nat) (bs : List Byte) : List Byte :=
  (ownParts pend).foldl (fun acc p => p.over key acc) bs

/-- Poison of bytes as the hart's own stores leave it. -/
def overlayPsn (pend : List PendStore) (poison : List Nat) (key n : Nat) : Bool :=
  poisoned ((ownParts pend).foldl (fun acc p => poisonDo acc p.psn p.key p.bytes.length) poison) key n

/-- The bytes a hart reads at a key, and whether some are poisoned. -/
def State.readAs (s : State) (k : HartKey) (key n : Nat) : List Byte × Bool :=
  match (s.hart k).mem.pend with
  | [] => (memBytes s.mem key n, keyHoldsPoison key && poisoned s.poison key n)
  | p => (overlay p key (memBytes s.mem key n), keyHoldsPoison key && overlayPsn p s.poison key n)

/-- Whether a pending store overlaps bytes. -/
def PendStore.hits (p : PendStore) (key n : Nat) : Bool :=
  p.parts.any (fun q => decide (q.key < key + n) && decide (key < q.key + q.bytes.length))

/-- Whether two pending stores overlap. -/
def PendStore.meets (p o : PendStore) : Bool := p.parts.any (fun q => o.hits q.key q.bytes.length)

/-- The stores of a hart before the first that an instruction in progress still adds to; what stands behind that one is
the same instruction's (R152). -/
def HartMem.closed (m : HartMem) : List PendStore := m.pend.takeWhile (fun p => p.more.isNone)

/-- Nothing is added to any store any more. -/
def HartMem.close (m : HartMem) : HartMem := { m with pend := m.pend.map (fun p => { p with more := none }) }

/-- Whether an access to an RD page must wait for the hart's own held store to it (R145). -/
def rdHeld (h : Hart) (page : Option Nat) : Bool :=
  match page with
  | none => false
  | some pg => h.mem.closed.any (fun p => p.rd == some pg)

end Sys2Proof.Machine
end

