-- ==== Sys2Proof/WellFormed.lean ====
section
/-! DEFINITION. Which instructions a word can encode (the limits whose violation is ILLEGAL with
subcode 0, R57 to R63), and which register numbers are legal (subcode 3, R44). -/

namespace Sys2Proof

/-- The plane count of a family (R208). -/
def Fam.planes : Fam → Nat
  | .e8 => 3
  | .e11 => 4

/-- The forms FM 01 and 10 of a slide, VEXTR or VINS; a negative immediate is excluded (R193, R194). -/
def slideOk (fm : BKind) (k : Reg) : Bool :=
  match fm with
  | .vec => false
  | .scal => true
  | .imm => !k.msb

/-- An AMO's SCOPE is zero when ACQ and REL are both 0 (R154). -/
def amoOk (acq rel : Bool) (sc : Scope) : Bool :=
  acq || rel || sc == .hart

/-- Whether the instruction has a 32-bit word that obeys every limit of subcode 0 (R62, R63). -/
def Instr.encodable (i : Instr) : Bool :=
  match i with
  | .loop _ e => e != 0
  | .loopi _ e => e != 0
  | .lidx _ l => l < 6
  | .lbrk l => l < 6
  | .fence p s _ => p != 0 && s != 0
  | .strip _ _ b n _ _ => n ≤ 4 && (n != 0 || b == 0)
  | .vldp _ _ _ pl _ _ rnd fam => (rnd && pl.toNat + 1 < fam.planes) || (!rnd && pl.toNat < fam.planes)
  | .vstp _ _ _ pl _ _ _ fam => pl.toNat < fam.planes
  | .vstxadd _ _ _ _ _ fp e => e != .e4 && !(fp && e == .e8)
  | .amoadd _ _ _ q r s _ => amoOk q r s
  | .amoand _ _ _ q r s _ => amoOk q r s
  | .amoor _ _ _ q r s _ => amoOk q r s
  | .amoxor _ _ _ q r s _ => amoOk q r s
  | .amomin _ _ _ q r s _ => amoOk q r s
  | .amomax _ _ _ q r s _ => amoOk q r s
  | .amominn _ _ _ q r s _ => amoOk q r s
  | .amomaxn _ _ _ q r s _ => amoOk q r s
  | .amoswap _ _ _ q r s _ => amoOk q r s
  | .amocas _ _ _ q r s _ => amoOk q r s
  | .amofadd _ _ _ q r s _ => amoOk q r s
  | .vbcast _ _ fm _ => fm != .vec
  | .vslideup _ _ k fm _ => slideOk fm k
  | .vslidedn _ _ k fm _ => slideOk fm k
  | .vextr _ _ k fm => slideOk fm k
  | .vins _ _ k fm => slideOk fm k
  | .vpsplit _ _ _ fam n => n.toNat < fam.planes
  | .vpjoin _ _ _ fam n => n.toNat < fam.planes
  | .vptrunc _ _ _ fam n => n.toNat < fam.planes
  | .vprnd _ _ _ fam n => n.toNat + 1 < fam.planes
  | .qstall .. | .waittime .. | .waitEnd .. | .sigwRecheck .. | .overdue .. => false
  | .budgetExhausted .. | .budgetExtension .. | .dispatcherDecision .. | .forcedStop .. => false
  | .caravanSave .. | .saveImageWritten .. | .caravanRetire .. | .sliceFailedEnd .. | .endReport .. => false
  | .copyChunkLanding .. | .copyCompletion .. | .linkFailure .. | .linkRetransmission .. => false
  | .remoteAccessRequest .. | .remoteRefusal .. | .mnbrEntryDelivery .. | .loadEntryArrival .. => false
  | .storePerformed .. | .rdInvalidationAck .. | .topologyCommandCompletion .. | .collectTimeout .. => false
  | .generationCommit .. | .bazaarCommandCompletion .. | .hostDemand .. | .regionMoveComplete .. => false
  | .submissionSlotRead .. | .submissionEnd .. | .nodeLaunch .. | .nodeCopy .. | .nodeSignal .. => false
  | .nodeWait .. | .nodeCond .. | .nodeLoop .. | .nodeEnd .. | .qtailWrite .. | .qbaseWrite .. => false
  | .qsizeWrite .. | .ctxctlWrite .. | .ctxrootWrite .. | .featreqWrite .. | .fwstageWrite .. => false
  | .fwReplacementComplete | .fwReplacementTimeout | .dbgctlHaltreq .. | .hartHalted .. => false
  | .dbgctlResume .. | .debugBlockAccess .. | .queueIndexWordWrite .. | .stickyClear .. => false
  | .registerWrite .. | .coreError .. | .warmReset .. | .warmResetReady | .wearAccrual .. => false
  | .wearRecordSave | .coreFuse .. | .supplySag .. | .supplyRecovery .. | .thermalThrottle .. => false
  | .thermalRecovery .. | .thermalShutdown | .coldReset .. | .unitReady .. | .unitFailure .. => false
  | .watchdogEndCaravan .. | .watchdogEndSlice .. | .cpRestart | .dieQuiesce .. => false
  | .watchdogWarmReset .. | .coldResetRequest | .deviceNumberAssign .. | .getVersion .. => false
  | .getCapabilities .. | .negotiateAlgorithms .. | .getDigests .. | .getCertificate .. => false
  | .challenge .. | .getMeasurements .. | .illegalWord .. | .loadPerformed .. | .powerLoss => false
  | .orderlyShutdown | .nodeLimitExpired .. | .operatorRetireRequest .. => false
  | _ => true

/-- A register number that names a queue head (R42). -/
def isQ (r : Reg) : Bool := 28 ≤ r

/-- A matrix tile base, or an MTRANS operand (R44). -/
def tileBase (r : Reg) : Bool := r == 0 || r == 8 || r == 16

/-- The register-number limits that do not depend on VT (R44, R57, R59, R60, R118, R239, R249, R321).
A violation raises ILLEGAL with subcode 3. The group limits of LMUL are judged with VT, in Operands. -/
def Instr.regsLegal (i : Instr) : Bool :=
  match i with
  | .pushs q _ => isQ q
  | .pops _ q => isQ q
  | .strip d a b n _ _ =>
      n == 0 ||
        (b != 0 && b.toNat + n.toNat ≤ 32 &&
          !(b.toNat ≤ d.toNat && d.toNat < b.toNat + n.toNat) &&
          !(b.toNat ≤ a.toNat && a.toNat < b.toNat + n.toNat))
  | .vld q .. => isQ q
  | .vlds q .. => isQ q
  | .vldx q _ x .. => isQ q && x != 0
  | .vldff q .. => isQ q
  | .vldp q .. => isQ q
  | .vst q .. => isQ q
  | .vsts q .. => isQ q
  | .vstx q _ x .. => isQ q && x != 0
  | .vstxadd q _ x .. => isQ q && x != 0
  | .vstp q .. => isQ q
  | .pcnt d _ => d < 32
  | .pfirst d _ => d < 32
  | .vqmx d .. => d.toNat + 1 ≤ 27
  | .vadamw _ _ b _ => b.toNat + 1 ≤ 27
  | .vsgdm _ _ b _ => b.toNat + 1 ≤ 27
  | .mma c _ b _ t =>
      tileBase b && !isQ c &&
        (match t with
         | .f64 => true
         | .e2m1 => c.toNat + 2 ≤ 27
         | _ => c.toNat + 1 ≤ 27)
  | .mmap c _ b _ => tileBase b && c.toNat + 1 ≤ 27
  | .mmaz c t => match t with
      | .f64 => !isQ c
      | .f32 => c.toNat + 1 ≤ 27
  | .mtrans c b _ => tileBase c && tileBase b
  | .mnbr d .. => d != 0
  | .mcell d .. => d != 0
  | _ => true

/-- A well-formed instruction: a word of the opcode tables whose register numbers are legal. -/
def Instr.wellFormed (i : Instr) : Bool := i.encodable && i.regsLegal

end Sys2Proof
end

