-- ==== Sys2Proof/Machine/Ops.lean ====
section
/-! DEFINITION. The operations every meaning shares: the running sequencer, scalar registers and
queue heads, completion with its back-edge and yield point, the end of sequencers, harts and slices,
taking a trap (12_system R360 to R363), ERET (R365), and waits (R15, R23). -/

namespace Sys2Proof

/-- The element-wise instructions: OP 0x40 to 0x5F, VMV, VBCAST and VMERGE (R176). -/
def Instr.isElementwise (i : Instr) : Bool :=
  match i with
  | .vfadd .. | .vfsub .. | .vfmul .. | .vfdiv .. | .vfsqrt .. | .vfma .. | .vfms .. | .vfnma .. | .vfnms .. => true
  | .vfmin .. | .vfmax .. | .vfabs .. | .vfneg .. | .vfrcp .. | .vfrsq .. | .vfcmp .. => true
  | .vadd .. | .vsub .. | .vmul .. | .vmulh .. | .vand .. | .vor .. | .vxor .. | .vsll .. | .vsrl .. | .vsra .. => true
  | .vmin .. | .vmax .. | .vminn .. | .vmaxn .. | .vcmp .. | .vcvt .. | .vmv .. | .vbcast .. | .vmerge .. => true
  | _ => false

/-- The vector instructions that ignore VSTART and set it to 0 when they complete or trap (R176): moves, permutes,
reductions, plane, MX, optimiser and matrix instructions. The predicate rows of OP 0x70, PSNGET and PSNCLR, which R174 lists
as vector instructions and R200 has ignore VSTART, leave it as it is: the model's choice (log 93). -/
def Instr.ignoresVstart (i : Instr) : Bool :=
  match i with
  | .vslideup .. | .vslidedn .. | .vperm .. | .vcomp .. | .vexpd .. | .vextr .. | .vins .. | .viota .. => true
  | .vredsum .. | .vredtree .. | .vredmax .. | .vredmin .. | .vscan .. => true
  | .vpsplit .. | .vpjoin .. | .vptrunc .. | .vprnd .. | .vqmx .. | .vdqmx .. | .vpacc .. => true
  | .vadamw .. | .vsgdm .. | .mma .. | .mmap .. | .mmaz .. | .mtrans .. => true
  | _ => false

end Sys2Proof

namespace Sys2Proof.Machine

/-! ### The running sequencer -/

/-- The sequencer whose turn it is. -/
def State.seq (s : State) : Seq := s.h.seq s.own.side

/-- Replace the sequencer whose turn it is. -/
def State.setSeq (s : State) (q : Seq) : State := s.modH (fun h => h.setSeq s.own.side q)

/-- Act as a hart's side. -/
def State.actAs (s : State) (k : HartKey) (sd : Side) : State :=
  { s with own := { s.own with cur := k, side := sd } }

/-- The harts of a caravan. -/
def carHarts (c : CarId) (size : Nat) : List HartKey := (List.range size).map (fun i => ⟨c.die, c.slot, i⟩)

/-- Change every hart of a list. -/
def State.modHarts (s : State) (ks : List HartKey) (f : Hart → Hart) : State :=
  ks.foldl (fun acc k => acc.modHart k f) s

/-- Set a hart's event bit (R102). -/
def State.setEvent (s : State) (k : HartKey) : State := s.modHart k (fun h => { h with event := true })

/-- QWAIT; 0 acts as 1 (R107). -/
def Hart.qwaitOf (h : Hart) : Nat := max 1 h.csr.qwait.toNat

/-! ### Scalar registers (R39 to R43) -/

/-- Queue number of a queue head. -/
def qNo (r : Reg) : Fin 4 := ⟨r.toNat % 4, Nat.mod_lt _ (by decide)⟩

/-- An A-side register; a0 reads zero (R40). -/
def Hart.readA (h : Hart) (r : Reg) : Word := if r = 0 then 0 else h.regs.a[r.toNat]

/-- Write an A-side register; a0 discards (R40). -/
def Hart.writeA (h : Hart) (r : Reg) (v : Word) : Hart :=
  if r = 0 then h else { h with regs := { h.regs with a := h.regs.a.set r.toNat v } }

/-- An X-side register; s0 reads zero, and a queue head reads the entry `k` places behind its head (R42). -/
def Hart.readX (h : Hart) (r : Reg) (k : Nat) : Word :=
  if r = 0 then 0 else if isQ r then (h.q.toX[qNo r]).items.getD k 0 else h.regs.x[r.toNat]

/-- Push to an X-to-A scalar queue. -/
def Hart.pushToA (h : Hart) (q : Fin 4) (v : Word) : Hart :=
  { h with q := { h.q with toA := h.q.toA.set q { h.q.toA[q] with items := (h.q.toA[q]).items ++ [v] } } }

/-- Push to an A-to-X scalar queue. -/
def Hart.pushToX (h : Hart) (q : Fin 4) (v : Word) : Hart :=
  { h with q := { h.q with toX := h.q.toX.set q { h.q.toX[q] with items := (h.q.toX[q]).items ++ [v] } } }

/-- Write an X-side register; s0 discards, and a queue head pushes (R40, R42). -/
def Hart.writeX (h : Hart) (r : Reg) (v : Word) : Hart :=
  if r = 0 then h else if isQ r then h.pushToA (qNo r) v
  else { h with regs := { h.regs with x := h.regs.x.set r.toNat v } }

/-- Drop `n` entries of a scalar queue (R134). -/
def SQueue.pop (q : SQueue) (n : Nat) : SQueue :=
  { head := q.head + BitVec.ofNat 8 n, items := q.items.drop n }

/-- Drop `n` entries of a vector queue. -/
def VQueue.pop (q : VQueue) (n : Nat) : VQueue :=
  { q with head := q.head + BitVec.ofNat 8 n, items := q.items.drop n }

/-- The index entries that the access at an address has popped from a queue (R128). -/
def VQueue.heldAt (q : VQueue) (pc : Word) : List Entry :=
  match q.held with
  | some (p, es) => if p = pc then es else []
  | none => []

/-- Tail index of a queue with this head and occupancy (R134). -/
def tailIdx (head : BitVec 8) (n : Nat) : BitVec 8 := head + BitVec.ofNat 8 n

/-- A source field of an instruction: a scalar or a vector register. -/
inductive Fld where
  | s (r : Reg)
  | v (r : Reg)
deriving DecidableEq, Repr, Inhabited

/-- The queue code (R135) and number an X-side source field pops, if it names a queue head. -/
def Fld.pops : Fld → Option (Nat × Fin 4)
  | .s r => if isQ r then some (0x20 + (qNo r).val, qNo r) else none
  | .v r => if isQ r then some ((qNo r).val, qNo r) else none

/-- Pops of one queue among fields. -/
def popCount (fs : List Fld) (code : Nat) : Nat :=
  fs.countP (fun f => match f.pops with | some (c, _) => c == code | none => false)

/-- Entries of a queue that a pop can take; an entry not yet arrived is not visible (R124). -/
def Hart.avail (h : Hart) (code : Nat) : Nat :=
  let q : Fin 4 := ⟨code % 4, Nat.mod_lt _ (by decide)⟩
  if code < 0x10 then ((h.q.vload[q]).items.takeWhile (·.visible)).length
  else if code < 0x20 then (h.q.vstore[q]).items.length
  else if code < 0x30 then (h.q.toX[q]).items.length
  else if code < 0x40 then (h.q.toA[q]).items.length
  else h.q.len.items.length

/-- Entries a queue holds (R134). -/
def Hart.occ (h : Hart) (code : Nat) : Nat :=
  let q : Fin 4 := ⟨code % 4, Nat.mod_lt _ (by decide)⟩
  if code < 0x10 then (h.q.vload[q]).items.length else h.avail code

/-- Depth of a queue (R14). -/
def qDepth (code : Nat) : Nat := if code < 0x20 then Config.vqDepth else Config.sqDepth

/-- Head index of a queue. -/
def Hart.headIdx (h : Hart) (code : Nat) : BitVec 8 :=
  let q : Fin 4 := ⟨code % 4, Nat.mod_lt _ (by decide)⟩
  if code < 0x10 then (h.q.vload[q]).head
  else if code < 0x20 then (h.q.vstore[q]).head
  else if code < 0x30 then (h.q.toX[q]).head
  else if code < 0x40 then (h.q.toA[q]).head
  else h.q.len.head

/-- The first queue an X-side instruction must wait for: a pop of too few entries, or a push without
room (R42). The Bool is the direction: true for a push. -/
def Hart.blocked (h : Hart) (fs : List Fld) (sd vd : Option Reg) : Option (Nat × Bool) :=
  match fs.find? (fun f => match f.pops with
      | some (c, _) => decide (h.avail c < popCount fs c)
      | none => false) with
  | some f => f.pops.map (fun p => (p.1, false))
  | none =>
    match sd with
    | some r =>
      if isQ r && h.occ (0x30 + (qNo r).val) ≥ Config.sqDepth then some (0x30 + (qNo r).val, true) else none
    | none =>
      match vd with
      | some r =>
        if isQ r && h.occ (0x10 + (qNo r).val) ≥ Config.vqDepth then some (0x10 + (qNo r).val, true) else none
      | none => none

/-- Take the entry that one field popped (R42). -/
def Hart.popFld (h : Hart) (f : Fld) : Hart :=
  match f with
  | .s r => if isQ r then { h with q := { h.q with toX := h.q.toX.set (qNo r) ((h.q.toX[qNo r]).pop 1) } } else h
  | .v r => if isQ r then { h with q := { h.q with vload := h.q.vload.set (qNo r) ((h.q.vload[qNo r]).pop 1) } } else h

/-- Take the entries the fields popped (R42). -/
def Hart.popFlds (h : Hart) (fs : List Fld) : Hart := fs.foldl Hart.popFld h

/-- How many earlier fields pop the queue of field `i`. -/
def fldDepth (fs : List Fld) (i : Nat) : Nat :=
  match fs[i]? with
  | some f => match f.pops with
    | some (c, _) => popCount (fs.take i) c
    | none => 0
  | none => 0

/-- The scalar value of field `i`. -/
def State.fld (s : State) (fs : List Fld) (i : Nat) : Word :=
  match fs[i]? with
  | some (.s r) =>
    match s.own.side with
    | .A => s.h.readA r
    | .X => s.h.readX r (fldDepth fs i)
  | _ => 0

/-- Write a scalar destination of the executing side. -/
def State.writeR (s : State) (d : Reg) (v : Word) : State :=
  match s.own.side with
  | .A => s.modH (fun h => h.writeA d v)
  | .X => s.modH (fun h => h.writeX d v)

/-- Take the entries the fields popped; the A side pops nothing by register number. -/
def State.popAll (s : State) (fs : List Fld) : State :=
  match s.own.side with
  | .A => s
  | .X => s.modH (fun h => h.popFlds fs)

/-! ### Records of commands with handles (R264, R284, R292) -/

/-- Release every booking of a command (R283). -/
def State.unbook (s : State) (i : CmdId) : State := { s with books := s.books.filter (fun b => b.who ≠ i) }

/-- The record of a command: a hart's by SEQ (R264), a graph's by its number there. -/
def State.cmd (s : State) (i : CmdId) : Option HRec :=
  match i with
  | .hart k n => (kvGet (s.hart k).eng.recs (n % Config.records)).filter (fun r => r.seq = n)
  | .graph g n => (kvGet s.graphs g).bind (fun gr => kvGet gr.copies n)
  | .topo d n => (kvGet s.legs n).bind (fun l => if l.die = d then l.hrec else none)

/-- Replace the record of a command. -/
def State.setCmd (s : State) (i : CmdId) (r : HRec) : State :=
  match i with
  | .hart k n => s.modHart k (fun h => { h with eng := { h.eng with recs := kvSet h.eng.recs (n % Config.records) r } })
  | .graph g n =>
    match kvGet s.graphs g with
    | some gr => { s with graphs := kvSet s.graphs g { gr with copies := kvSet gr.copies n r } }
    | none => s
  | .topo _ n =>
    match kvGet s.legs n with
    | some l => { s with legs := kvSet s.legs n { l with hrec := some r } }
    | none => s

/-- The key of one byte that a command reaches: through its hart's windows, or the context of its graph or mesh
(R310, R428); none where translation fails. -/
def State.keyFor (s : State) (i : CmdId) (g : Word) (need : Need) : Option Nat :=
  match i with
  | .hart k _ => byteKey s k g need
  | .graph n _ => translate s (kvGetD s.graphs n default).ctx (gVa g) need
  | .topo _ n => translate s (kvGetD s.legs n default).ctx (gVa g) need

/-- Write bytes one by one, each with its poison: a granule is poisoned by a poisoned byte, and cleared
when it is written whole and clean (R126). -/
def State.putBytes (s : State) (bs : List (Nat × Byte × Bool)) : State :=
  let held := bs.filter (fun b => keyHoldsPoison b.1)
  let full := held.filter (fun b => b.1 % 4 = 3 && [1, 2, 3].all (fun d => held.any (fun c => c.1 + d == b.1)))
  let bad := held.filter (fun b => b.2.2)
  { s with mem := bs.foldl (fun m b => memSet m b.1 b.2.1) s.mem,
           harts := bs.foldl (fun hs b => notify hs b.1 1) s.harts,
           poison := bad.foldl (fun p b => poisonSet p b.1 1) (full.foldl (fun p b => poisonClear p b.1 1) s.poison) }

/-- The bytes of a command's write at a generic address, with their keys; bytes without a translation are
not written. -/
def State.keyed (s : State) (i : CmdId) (g : Word) (bs : List (Byte × Bool)) : List (Nat × Byte × Bool) :=
  bs.zipIdx.filterMap (fun b => (s.keyFor i (g + word b.2) needW).map (fun key => (key, b.1)))

/-- Write clean bytes at a generic address for a command. -/
def State.putFor (s : State) (i : CmdId) (g : Word) (bs : List Byte) : State :=
  s.putBytes (s.keyed i g (bs.map (fun b => (b, false))))

/-- The bytes at a generic address as a command reads them, with their poison; a byte without a
translation is a free value (log 31). -/
def State.getFor (s : State) (i : CmdId) (g : Word) (n : Nat) : List (Byte × Bool) :=
  (List.range n).map (fun o =>
    match s.keyFor i (g + word o) needR with
    | some key => (memGet s.mem key, keyHoldsPoison key && poisoned s.poison key 1)
    | none => (Config.freeByte (s.own.free * 2 ^ 40 + o), false))

/-- Write STATUS and RESULT to a command's block at its end (R261, R290); a topology engine's own copy has none. -/
def State.writeBlock (s : State) (i : CmdId) (r : HRec) : State :=
  match r.job with
  | .copy j =>
    match i with
    | .topo _ _ => s
    | _ => s.putFor i (j.block + 56) (natBytes (r.result.toNat + r.status * 2 ^ 32) 8)
  | .mesh j => (s.putFor i (j.block + 4) (natBytes r.result.toNat 4)).putFor i (j.block + 2) [BitVec.ofNat 8 r.status]
  | .baz j => (s.putFor i (j.block + 4) (natBytes r.result.toNat 4)).putFor i (j.block + 2) [BitVec.ofNat 8 r.status]

/-- Whether a record's command has ended. -/
def HRec.over (r : HRec) : Bool := r.st == .done || r.st == .failed

/-- The SEQs of a hart's engine commands that have not ended (R160). -/
def Hart.unfinished (h : Hart) : List Nat := (h.eng.recs.filter (fun p => !p.2.over)).map (·.2.seq)

/-- Whether the commands of some SEQs have ended. -/
def Hart.overAll (h : Hart) (ns : List Nat) : Bool := ns.all (fun n => !h.unfinished.contains n)

/-- Set the event bit of the hart that issued a command (R102). -/
def State.cmdEvent (s : State) (i : CmdId) : State :=
  match i with
  | .hart k _ => s.setEvent k
  | .graph _ _ => s
  | .topo _ _ => s

/-- End one command: its record, its block, its bookings, its hart's event bit (R102, R284). -/
def State.endOne (s : State) (i : CmdId) (status : Nat) (result : BitVec 32) : State :=
  match s.cmd i with
  | none => s
  | some r =>
    if r.over then s
    else
      let r1 := { r with st := if status = 0 then .done else .failed, status := status, result := result,
                         late := r.late || decide (r.due < 2 ^ 64 - 1 ∧ s.now > r.due) }
      (((s.setCmd i r1).cmdEvent i).writeBlock i r1).unbook i

/-- Whether a record holds a copy. -/
def HRec.isCopy (r : HRec) : Bool := match r.job with | .copy _ => true | _ => false

/-- Whether a record holds a topology command. -/
def HRec.isMesh (r : HRec) : Bool := match r.job with | .mesh _ => true | _ => false

/-- A QUEUED copy whose predecessor has ended DONE moves, with the predecessor's result as its initial
checksum; its first slot may have gone by (R274, R284). -/
def HRec.startCopy (r : HRec) (now : Nat) (start : BitVec 32) : HRec :=
  match r.job with
  | .copy j =>
    let late := j.cause = 0 && !r.unbooked && decide (now ≥ 64 * j.first)
    { r with st := .moving, job := .copy { j with sum := start, cause := if late then 4 else j.cause } }
  | _ => r

/-- Whether a record holds a QUEUED copy chained to the copy of a number. -/
def HRec.awaits (r : HRec) (n : Nat) : Bool :=
  r.st == .queued && (match r.job with | .copy j => j.pred == some n | _ => false)

/-- The QUEUED copies chained to a command. -/
def State.chained (s : State) (i : CmdId) : List CmdId :=
  match i with
  | .hart k n => ((s.hart k).eng.recs.filter (fun p => p.2.awaits n)).map (fun p => CmdId.hart k p.2.seq)
  | .graph _ _ => []
  | .topo d n => (s.legs.filter (fun p => p.2.hrec.any (fun r => r.awaits n))).map (fun p => CmdId.topo d p.1)

/-- Start the copies chained to commands that have ended, or end them CHAINFAIL and go on with those
chained to them (R284). -/
def State.follow : Nat → State → List CmdId → State
  | 0, s, _ => s
  | _, s, [] => s
  | fuel + 1, s, i :: rest =>
    match s.cmd i with
    | none => State.follow fuel s rest
    | some r =>
      let next := s.chained i
      if r.st = .done then
        State.follow fuel (next.foldl (fun t i => match t.cmd i with
          | some c => t.setCmd i (c.startCopy t.now r.result)
          | none => t) s) rest
      else if r.st = .failed then
        State.follow fuel (next.foldl (fun t i => t.endOne i 0x05 0) s) (next ++ rest)
      else State.follow fuel s rest

/-- Whether everything that a graph started has ended (R353). -/
def Graph.idle (g : Graph) : Bool := g.slices.all (fun x => x.2.2.isSome) && g.copies.all (fun r => r.2.over)

/-- A graph ends, and with it its submission (R353, R358). -/
def State.endGraph (s : State) (g : Nat) (fail : Bool) : State :=
  let gr := kvGetD s.graphs g default
  let s1 := { s with graphs := kvSet s.graphs g { gr with st := .ended fail, waiting := none } }
  match kvGet s1.subs gr.sub with
  | some b => { s1 with subs := kvSet s1.subs gr.sub { b with fin := some fail } }
  | none => s1

/-- A failed graph ends once everything that it started has ended (R355). -/
def State.settleGraph (s : State) (g : Nat) : State :=
  match kvGet s.graphs g with
  | some gr => if gr.st = .failing ∧ gr.idle then s.endGraph g true else s
  | none => s

/-- End a command and act on the copies chained to it, or on its graph. -/
def State.endCmd (s : State) (i : CmdId) (status : Nat) (result : BitVec 32) : State :=
  let s1 := State.follow (Config.records + 1) (s.endOne i status result) [i]
  match i with
  | .hart _ _ => s1
  | .graph g _ => s1.settleGraph g
  | .topo _ _ => s1

/-- The checksum over the bytes landed so far, or what the record's result reads (R270, R276). -/
def HRec.sumNow (r : HRec) : BitVec 32 :=
  match r.job with
  | .copy j => if r.over then r.result else if j.blk.csum = 0 then 0 else j.sum + BitVec.ofNat 32 (bytesNat j.part)
  | _ => r.result

/-- The commands of a hart that have not ended and that a test selects. -/
def State.running (s : State) (k : HartKey) (sel : HRec → Bool) : List CmdId :=
  ((s.hart k).eng.recs.filter (fun p => !p.2.over && sel p.2)).map (fun p => CmdId.hart k p.2.seq)

/-- End ABORTED the commands of a hart that a test selects (R283). -/
def State.abortCmds (s : State) (k : HartKey) (sel : HRec → Bool) : State :=
  let is := s.running k sel
  State.follow (Config.records + 1 + is.length) (is.foldl (fun acc i => match acc.cmd i with
    | some r => acc.endOne i 0x06 r.sumNow
    | none => acc) s) is

/-- The caravans of a slice that hold a slot tag. -/
def State.carsOf (s : State) (n : Nat) : List (CarId × Caravan) := s.cars.filter (fun p => p.2.slice = n)

/-- Stop a sequencer where it stands (R345, R361). -/
def Seq.halt (q : Seq) (kind : StopKind) : Seq :=
  match q.stop with
  | some _ => { q with wait := none }
  | none => { q with wait := none, stop := some (if q.ended then .ended else kind) }

/-- The stop kind of a sequencer stopped by force: inside an instruction when VSTART records progress. -/
def Seq.forcedKind (q : Seq) : StopKind := if q.vstart ≠ 0 then .inside else .boundary

/-- A scalar load or AMO not yet performed is given up, and the A side stands at it again; stores admitted after it
are dropped with the instructions that admitted them, and the hart goes back to how it stood there (log 11). -/
def Hart.dropLoad (h : Hart) : Hart :=
  match h.mem.pendLoad with
  | none => h
  | some l =>
    let h1 := { h with mem := { h.mem with pendLoad := none, pend := h.mem.pend.filter (fun p => decide (p.id < l.after)) } }
    match l.ahead with
    | some o => { h1 with a := o.a, x := o.x, regs := o.regs, q := o.q, csr := { o.csr with preq := h.csr.preq },
                          mem := { h1.mem with got := o.got, mid := none } }
    | none => h1

/-- What a vector access in progress holds beside VSTART is given up. -/
def Hart.dropAccess (h : Hart) : Hart := { h with mem := { h.mem.close with got := none, mid := none } }

/-- Stop both sides of a hart by force. -/
def Hart.forceStop (h : Hart) : Hart :=
  let h1 := h.dropLoad.dropAccess
  { h1 with a := h1.a.halt h1.a.forcedKind, x := h1.x.halt h1.x.forcedKind }

/-- The copies of other caravans that land in a slot tag's scratchpads (R283). -/
def HRec.landsIn (r : HRec) (c : CarId) (k : HartKey) : Bool :=
  match r.job with
  | .copy j => k.die == c.die && gTop j.blk.dst == 0xF2 && j.blk.rdir != 1 && gSlot j.blk.dst == c.slot
  | _ => false

/-- End a slice that fails: it goes to ENDING, its caravans with it, and their copies and bazaar
commands end ABORTED (R283, R337, R349, R350). Topology commands end in SLICE_FAILED_END. -/
def State.endSlice (s : State) (n : Nat) : State :=
  let sl := s.sliceNo n
  if sl.st = .ready ∨ sl.st = .pending then
    let s1 := s.setSlice n { sl with st := .ending, endAt := s.now }
    (s1.carsOf n).foldl (fun acc p =>
      let ks := carHarts p.1 p.2.size
      let a1 := (acc.setCar p.1 { p.2 with st := .ending }).modHarts ks Hart.forceStop
      let a2 := ks.foldl (fun t k => t.abortCmds k (fun r => !r.isMesh)) a1
      a2.harts.foldl (fun t q => t.abortCmds q.1 (fun r => r.landsIn p.1 q.1)) a2) s1
  else s

/-! ### Traps (R360 to R363) -/

/-- The address a stopped side resumes at; 0 for a side that has ended (R360). -/
def Seq.npc (q : Seq) : Word := if q.ended then 0 else q.pc

/-- Whether a trap of a side finds the A side where it can stop: a load or AMO that has been admitted completes first,
and, for a trap of the X side, a vector access that waits for nothing (R361). -/
def Hart.calm (h : Hart) (sd : Side) : Bool := h.mem.pendLoad.isNone && (sd == .A || h.mem.mid.isNone)

/-- Abandon waits and stalled vector accesses: they re-execute (R361). -/
def Hart.abandon (h : Hart) : Hart :=
  { h.dropAccess with a := { h.a with wait := none }, x := { h.x with wait := none } }

/-- Write CAUSE, EPC, XEPC, TVAL and TVAL2 (R360). -/
def Hart.record (h : Hart) (sd : Side) (t : Trap) (resume : Word) : Hart :=
  { h with tr := { h.tr with
      causeX := sd == .X, code := BitVec.ofNat 8 t.cause,
      epc := if sd = .A then resume else (if h.tr.smode then h.a.pc else h.a.npc),
      xepc := if sd = .X then resume else h.x.npc,
      tval := t.tval, tval2 := t.tval2, nest := h.tr.smode } }

/-- Enter the core handler (R360, R92). -/
def Hart.enterHandler (h : Hart) (now : Nat) : Hart :=
  { h with trapAt := now, aside := some h.a.loops, a := { h.a with loops := [], pc := h.tr.tvec, stop := none },
           x := { h.x with stop := none },
           tr := { h.tr with smode := true, xpause := true } }

/-- Whether a SHADOW report has FATAL set (R202). -/
def shadowFatal (tval : Word) : Bool := tval.getLsbD 25

/-- A core leaves service for a fatal divergence: its caravan is stopped by force and saved, and the
core is fused once free (R377, R382). PREQ.PENDING is set as for a forced stop, and no event bit: the rule does not say
whether this save counts as the dispatcher raising PREQ (R102, log 85). -/
def State.fatalCore (s : State) (k : HartKey) : State :=
  let c := s.caravan k
  let s1 := ((s.modHarts (carHarts (carKey k) c.size) (fun h =>
      { h.forceStop with csr := { h.csr with preq := true } })).modHart k (fun h =>
      { h with x := { h.x with stop := some .inside } })).setCar (carKey k) { c with st := .saving, forced := true }
  let n := s.coreOf k
  s1.setCore n { s1.coreNo n with st := .drained, full := true }

/-- Request a halt of a hart, and with CVHALT of its caravan (R371, R373). A vector access that waits for nothing goes on
to its end first (R361). -/
def State.requestHalt (s : State) (k : HartKey) : State :=
  let ks := if (s.hart k).tr.cvhalt then carHarts (carKey k) (s.caravan k).size else [k]
  s.modHarts ks (fun h => let g := if h.mem.mid.isNone then h.abandon else h; { g with tr := { g.tr with haltreq := true } })

/-- A LEASE trap: Slorraroth ends the slice, or while it is being replaced the hart stays stopped and the new image ends
the slice (R363, R398). -/
def State.leaseTrap (s : State) (h : Hart) : State :=
  let n := (s.caravan s.own.cur).slice
  if s.dev.repl.isSome then (s.setH h.forceStop).setSlice n { s.sliceNo n with owed := true } else (s.setH h).endSlice n

/-- Take a trap on the running side, whose resume address is given (R360, R362, R363). A LEASE trap of a hart in S mode
ends the slice like every trap there, while Slorraroth is replaced through the new image (R398). -/
def State.takeTrap (s : State) (t : Trap) (resume : Word) : State :=
  let k := s.own.cur
  let h := s.h.abandon
  if t.cause = cBreak ∧ h.tr.brkdbg then (s.setH h).requestHalt k
  else if t.cause = cStep ∧ h.tr.stepdbg ∧ !h.tr.smode then (s.setH h).requestHalt k
  else
    let h1 := h.record s.own.side t resume
    if h.tr.smode && !(t.cause == cLease && s.dev.repl.isSome) then
      (s.setH h1).endSlice (s.caravan k).slice
    else if t.cause = cLease then s.leaseTrap h1
    else if t.cause = cShadow ∧ shadowFatal t.tval then (s.setH h1).fatalCore k
    else s.setH (h1.enterHandler s.now)

/-! ### Reports at boundaries that the dispatcher chooses (R364) -/

/-- Write the trap registers of a hart for BUDGET or PREEMPT; a hart in S mode keeps its handler's. -/
def Hart.report (h : Hart) (cause : Nat) (tval tval2 : Word) : Hart :=
  if h.tr.smode then h
  else { h with tr := { h.tr with causeX := false, code := BitVec.ofNat 8 cause, epc := h.a.npc, xepc := h.x.npc, tval := tval,
                                  tval2 := tval2, nest := false } }

/-- BUDGET. -/
def cBudget : Nat := 0x0A
/-- PREEMPT. -/
def cPreempt : Nat := 0x10

/-- Stop kinds (R370). -/
def StopKind.code : StopKind → Nat
  | .yield => 0
  | .boundary => 1
  | .inside => 2
  | .ended => 3

/-- The stop kind of a sequencer; one that has ended needs no stop (R370). -/
def Seq.kind (q : Seq) : Nat :=
  match q.stop with
  | some k => k.code
  | none => if q.ended then 3 else 1

/-- The stop-kind word (R370). -/
def Hart.kinds (h : Hart) : Word := word (h.a.kind + 4 * h.x.kind)

/-- The grace of a hart (R384). -/
def Hart.grace (h : Hart) : Nat := max 1 h.tr.pregrace.toNat

/-- Stop a hart by force and report PREEMPT (R345, R363). -/
def Hart.preempt (h : Hart) (now : Nat) : Hart :=
  let h1 := h.forceStop
  h1.report cPreempt (word now) h1.kinds

/-! ### Raising a trap -/

/-- Raise a trap at the running instruction. -/
def State.trap (s : State) (t : Trap) : Out := .next (s.takeTrap t s.seq.pc)

/-- Set the X side's VSTART to 0. -/
def Hart.xStart0 (h : Hart) : Hart := { h with x := { h.x with vstart := 0 } }

/-- Raise a trap at a running instruction that need not have begun: every vector instruction of the X side but the
element-wise ones sets VSTART to 0 on a trap (R176). -/
def State.trapAt (s : State) (i : Instr) (t : Trap) : Out :=
  match s.own.side with
  | .X => if i.ignoresVstart then (s.modH Hart.xStart0).trap t else s.trap t
  | .A => s.trap t

/-- Raise a cause with its details at the running instruction. -/
def State.raise (s : State) (cause : Nat) (tval tval2 : Word) : Out := s.trap ⟨cause, tval, tval2⟩

/-- ILLEGAL with a subcode (R63). -/
def State.illegal (s : State) (sub : Nat) : Out := s.raise cIllegal (s.own.ir.zeroExtend 64) (word sub)

/-- ENGINE with a subcode and a detail (R269). -/
def engineTrap (tval : Word) (sub detail : Nat) : Trap := ⟨cEngine, tval, word (sub + 256 * detail)⟩

/-! ### Completion (R88, R90, R374) -/

/-- Evaluate the back-edge at end address `e` (R88): the stack and the next address. -/
def backEdge (e : Word) : List LoopEntry → List LoopEntry × Word
  | [] => ([], e + 4)
  | top :: rest =>
    if top.remaining - 1 ≠ 0 then
      ({ top with remaining := top.remaining - 1, index := top.index + 1 } :: rest, top.start)
    else
      match rest with
      | [] => ([], e + 4)
      | nxt :: _ => if nxt.stop = e then backEdge e rest else (rest, e + 4)

/-- Whether the instruction at `pc` evaluates a back-edge. -/
def atEnd (q : Seq) : Bool :=
  match q.loops with
  | top :: _ => top.stop == q.pc
  | [] => false

/-- STEP, when the side is single-stepped in U mode (R374). -/
def State.stepTrap (s : State) (old : Word) : Out :=
  let h := s.h
  let on := match s.own.side with | .A => h.tr.stepa | .X => h.tr.stepx
  if on && !h.tr.smode then .next (s.takeTrap ⟨cStep, old, 0⟩ s.seq.npc) else .next s

/-- Where the running sequencer stands after its instruction completes at the next word. -/
def Seq.advance (q : Seq) : Seq :=
  if atEnd q then { q with loops := (backEdge q.pc q.loops).1, pc := (backEdge q.pc q.loops).2, wait := none }
  else { q with pc := q.pc + 4, wait := none }

/-- Stop at a yield point when PREQ is pending in U mode (R90, R343). -/
def yieldStop (h : Hart) (q : Seq) (point : Bool) : Seq :=
  if point && h.csr.preq && !h.tr.smode then { q with stop := some .yield } else q

/-- The state after the running instruction has completed. -/
def State.advance (s : State) : State :=
  s.setSeq (yieldStop s.h s.seq.advance (atEnd s.seq))

/-- The running instruction completes and its successor is the next word. -/
def State.complete (s : State) : Out := s.advance.stepTrap s.seq.pc

/-! ### The end of a sequencer, and the barrier (R322, R326) -/

/-- Discard what is left in a scalar queue. -/
def SQueue.flush (q : SQueue) : SQueue := q.pop q.items.length

/-- Discard what is left in a vector queue. -/
def VQueue.flush (q : VQueue) : VQueue := { q.pop q.items.length with resv := none, held := none }

/-- Discard every entry of a hart's queues (R322). -/
def Hart.flush (h : Hart) : Hart :=
  { h with q := { vload := h.q.vload.map VQueue.flush, vstore := h.q.vstore.map VQueue.flush,
                  toX := h.q.toX.map SQueue.flush, toA := h.q.toA.map SQueue.flush, len := h.q.len.flush } }

/-- All bits of a caravan's harts. -/
def sizeMask (n : Nat) : BitVec 4 := BitVec.ofNat 4 (2 ^ n - 1)

/-- The bit of a hart index. -/
def hartBit (i : Nat) : BitVec 4 := BitVec.ofNat 4 (2 ^ i)

/-- Complete the count when every hart has arrived (R326). -/
def Caravan.settle (c : Caravan) : Caravan :=
  if c.arrived &&& sizeMask c.size = sizeMask c.size then { c with phase := !c.phase, arrived := c.ended } else c

/-- Install a caravan's new barrier register, with the event bits of a phase flip (R102, R326). -/
def State.setBarrier (s : State) (id : CarId) (c : Caravan) : State :=
  let c1 := c.settle
  let s1 := s.setCar id c1
  if c1.phase = c.phase then s1 else s1.modHarts (carHarts id c.size) (fun h => { h with event := true })

/-- The running hart ends once both its sequencers have (R322): its queues are discarded, and its ENDED and ARRIVED bits
set (R326). -/
def State.endHart (s : State) : State :=
  if s.h.a.ended && s.h.x.ended then
    let k := s.own.cur
    let c := s.caravan k
    (s.modH Hart.flush).setBarrier (carKey k)
      { c with ended := c.ended ||| hartBit k.idx, arrived := c.arrived ||| hartBit k.idx }
  else s

/-- A sequencer that has ended (R322); a core handler's then admits nothing more. -/
def Seq.finish (q : Seq) (smode : Bool) : Seq :=
  { q with ended := true, pc := 0, wait := none, stop := if smode then some .ended else q.stop }

/-- The running sequencer ends (R322); with its partner ended the hart ends (R326). -/
def State.endSeq (s : State) : State := (s.setSeq (s.seq.finish s.h.tr.smode)).endHart

/-- The running instruction completes with a control transfer to `t` (R84 to R91): no back-edge is
evaluated. `stops` marks the words whose target 0 ends the sequencer (R322). -/
def State.jump (s : State) (t : Word) (stops : Bool) : Out :=
  let old := s.seq.pc
  if stops && t == 0 then (s.endSeq).stepTrap old
  else (s.setSeq { s.seq with pc := t, wait := none }).stepTrap old

/-! ### ERET (R365) -/

/-- Return from the core handler: U mode, the set-aside loop stack, both sides at their saved
addresses; an ended side stays ended. -/
def Hart.eret (h : Hart) : Hart :=
  { h with
    a := { h.a with pc := h.tr.epc, loops := h.aside.getD [], wait := none },
    x := { h.x with pc := h.tr.xepc, wait := none },
    aside := none,
    tr := { h.tr with smode := false, xpause := false } }

/-! ### Waits (R15, R23) -/

/-- The wait that the running sequencer is in already: for the same instruction, on the same queue, and with a limit
where this one has a limit. A wait for stores, which has none, is another than the bounded wait that the same
instruction goes on to (R160). An X-side instruction that goes on from one queue to another begins a wait of its own there,
with a new stall clock: the model's choice, which R15 and R42 leave open (log 92). -/
def State.waits (s : State) (i : Instr) (queue : Option (Nat × Bool)) (limit : Option Nat) : Option Wait :=
  s.seq.wait.filter (fun w => decide (w.instr = i ∧ w.queue = queue ∧ w.limit.isSome = limit.isSome))

/-- Begin a wait on a memory line or on none, or go on waiting. -/
def State.sleepOn (s : State) (i : Instr) (queue : Option (Nat × Bool)) (limit line : Option Nat) : State :=
  match s.waits i queue limit with
  | some w => s.setSeq { s.seq with wait := some { w with line := line } }
  | none => s.setSeq { s.seq with wait := some { instr := i, queue := queue, since := s.now, limit := limit, line := line } }

/-- Begin a wait, or go on waiting. -/
def State.waitOn (s : State) (i : Instr) (queue : Option (Nat × Bool)) (limit : Option Nat) : State :=
  s.sleepOn i queue limit none

/-- The limit of the wait the running instruction is in, if it has passed. -/
def State.expired (s : State) (i : Instr) : Option Nat :=
  match s.seq.wait with
  | some w =>
    if w.instr = i ∧ w.queue = none then
      match w.limit with
      | some l => if s.now ≥ w.since + l then some l else none
      | none => none
    else none
  | none => none

/-- Wait under a limit, or raise WAITTIME with TVAL the limit used (R23). -/
def State.waitOr (s : State) (i : Instr) (limit : Nat) (tval2 : Word) : Out :=
  match s.expired i with
  | some l => s.raise cWaittime (word l) tval2
  | none => .next (s.waitOn i none (some limit))

/-- The QSTALL report of R135 for a stall of this side on a queue. -/
def Hart.qstallTrap (h : Hart) (sd : Side) (code : Nat) (push : Bool) : Trap :=
  let hd := (h.headIdx code).toNat
  let tl := (tailIdx (h.headIdx code) (h.occ code)).toNat
  let other := match (h.seq (otherSide sd)).wait with
    | some w => match w.queue with
      | some (c, p) => c + (if p then 256 else 0)
      | none => 0xFF
    | none => 0xFF
  ⟨cQstall, word ((if push then 2 ^ 33 else 0) + tl * 2 ^ 16 + hd * 2 ^ 8 + code), word other⟩

/-- Whether a side's stall has lasted longer than QWAIT and counts (R15, R343): not while its partner
stopped for a save, and not when the partner's own stall began first, or at the same time and the
partner is the A side (R135). -/
def Hart.stallOver (h : Hart) (now : Nat) (sd : Side) : Option (Nat × Bool) :=
  match (h.seq sd).wait with
  | none => none
  | some w =>
    match w.queue with
    | none => none
    | some q =>
      let o := h.seq (otherSide sd)
      let first := match o.wait with
        | some w2 => match w2.queue with
          | some _ => decide (w.since < w2.since) || (w.since == w2.since && sd == .A)
          | none => true
        | none => true
      if o.stop.isNone && first && decide (now > w.since + w.limit.getD 0) then some q else none

/-- Raise QSTALL at the instruction that the running side is stalled in. -/
def State.stallTrap (s : State) (t : Trap) : Out :=
  match s.seq.wait with
  | some w => s.trapAt w.instr t
  | none => s.trap t

/-- Stall on a queue, or raise QSTALL when the stall has lasted too long (R15). -/
def State.stall (s : State) (i : Instr) (q : Nat × Bool) : Out :=
  let s1 := s.waitOn i (some q) (some s.h.qwaitOf)
  match s1.h.stallOver s1.now s1.own.side with
  | some _ => s1.stallTrap (s1.h.qstallTrap s1.own.side q.1 q.2)
  | none => .next s1

/-- Run a meaning once the queues an X-side instruction pops and pushes allow it (R42). -/
def State.withQueues (s : State) (i : Instr) (fs : List Fld) (sd vd : Option Reg) (k : State → Out) : Out :=
  match s.own.side with
  | .A => k s
  | .X =>
    match s.h.blocked fs sd vd with
    | some q => s.stall i q
    | none => k s

end Sys2Proof.Machine
end

