-- ==== Sys2Proof/Machine/Operands.lean ====
section
/-! DEFINITION. Every operand form: VT (02_words R46, R47), register groups (R44), the order in which an
illegal word is judged (R61 to R63), vector and predicate operands with their poison (06_vector R175,
R182 to R185, R205), and the destinations of vector instructions. -/

namespace Sys2Proof.Machine

/-! ### VT (R46) -/

/-- VT.KIND. -/
inductive Kind where
  | int | nat | ieee | bf16 | e4m3 | e5m2 | e2m1
deriving DecidableEq, Repr, Inhabited

/-- A valid VT: kind, element width, LMUL, rounding mode, saturation. -/
structure VType where
  kind : Kind
  w    : Nat
  lmul : Nat
  rm   : RM
  sat  : Bool
deriving DecidableEq, Repr, Inhabited

/-- LMUL code (R46). -/
def vtLmul (vt : BitVec 12) : Nat := 2 ^ (vt.extractLsb' 6 2).toNat

/-- SEW codes 0 to 4 (R46). -/
def vtSew (vt : BitVec 12) : Option Nat :=
  match (vt.extractLsb' 0 3).toNat with
  | 0 => some 4
  | 1 => some 8
  | 2 => some 16
  | 3 => some 32
  | 4 => some 64
  | _ => none

/-- A rounding mode in VT or FRM: 000 means RNE; 110 and 111 are invalid (R47, R52). -/
def rmOfCsr (b : BitVec 3) : Option RM :=
  match b.toNat with
  | 0 => some .rne
  | 1 => some .rne
  | 2 => some .rtz
  | 3 => some .rdn
  | 4 => some .rup
  | 5 => some .rna
  | _ => none

/-- The valid pairs of KIND and SEW (R47). -/
def vtPair (kind w : Nat) : Option Kind :=
  if kind = 0 ∧ (w = 8 ∨ w = 16 ∨ w = 32 ∨ w = 64) then some .int
  else if kind = 1 ∧ (w = 8 ∨ w = 16 ∨ w = 32 ∨ w = 64) then some .nat
  else if kind = 2 ∧ (w = 16 ∨ w = 32 ∨ w = 64) then some .ieee
  else if kind = 3 ∧ w = 16 then some .bf16
  else if kind = 4 ∧ w = 8 then some .e4m3
  else if kind = 5 ∧ w = 8 then some .e5m2
  else if kind = 6 ∧ w = 4 then some .e2m1
  else none

/-- Read VT; none while it holds an invalid combination (R47). -/
def vtOf (vt : BitVec 12) : Option VType :=
  match vtSew vt, rmOfCsr (vt.extractLsb' 8 3) with
  | some w, some rm =>
    (vtPair (vt.extractLsb' 3 3).toNat w).map (fun k => ⟨k, w, vtLmul vt, rm, vt.getLsbD 11⟩)
  | _, _ => none

/-- The running hart's VT. -/
def State.vt (s : State) : Option VType := vtOf s.h.csr.vt

/-- The IEEE format of a width. -/
def ieeeFmt (w : Nat) : FFmt := if w = 64 then fmt64 else if w = 32 then fmt32 else fmt16

/-- The format of a floating-point kind. -/
def VType.fmt (t : VType) : FFmt :=
  match t.kind with
  | .bf16 => fmtBf
  | .e4m3 => fmtE4M3
  | .e5m2 => fmtE5M2
  | .e2m1 => fmtE2M1
  | _ => ieeeFmt t.w

/-- Whether the kind is IEEE binary or bfloat16, which carry poison in their values (R205). -/
def VType.fp (t : VType) : Bool := t.kind == .ieee || t.kind == .bf16

/-- The poison result of a kind (R205). -/
def VType.psn (t : VType) : Nat := if t.fp then t.fmt.poison else 0

/-- Elements of one register. -/
def perReg (w : Nat) : Nat := 8192 / w

/-- The effective length (R175). -/
def State.vlen (s : State) (t : VType) : Nat := min s.h.x.vl (t.lmul * perReg t.w)

end Sys2Proof.Machine

namespace Sys2Proof
open Machine

/-- The width of an element size (R52). -/
def Esz.width : Esz → Nat
  | .e8 => 8
  | .e16 => 16
  | .e32 => 32
  | .e64 => 64
  | .e4 => 4

end Sys2Proof

namespace Sys2Proof.Machine

/-! ### Lanes and VLMAX (R19, R106, R172) -/

/-- Usable lanes of a core; a RETIRED core reads 0 (R382). -/
def Core.lanes (c : Core) : Nat :=
  if c.st = .retired then 0 else (List.range 32).countP (fun n => !c.lanemap.getLsbD n)

/-- The physical lane of a usable lane (R172). -/
def Core.physLane (c : Core) (u : Nat) : Nat := ((List.range 32).filter (fun n => !c.lanemap.getLsbD n)).getD u 0

/-- VLMAX of one core at a width and LMUL (R119). -/
def Core.vlmax (c : Core) (w lmul : Nat) : Nat := min 2048 (c.lanes * 256 / w * lmul)

/-- The caravan VLMAX (R19). -/
def State.vlmax (s : State) (w lmul : Nat) : Nat :=
  (s.caravan s.own.cur).cores.foldl (fun m n => min m ((s.coreNo n).vlmax w lmul)) 2048

/-! ### Which words are ILLEGAL when they execute (R61 to R63) -/

end Sys2Proof.Machine

namespace Sys2Proof
open Machine

/-- The side a word executes on; none for both sides and for events (R56 to R61). -/
def Instr.onSide (i : Instr) : Option Side :=
  match i with
  | .fadd .. | .fsub .. | .fmul .. | .fdiv .. | .fsqrt .. | .ffma .. | .fmin .. | .fmax .. => some .X
  | .fcmp .. | .fcvt .. | .setvl .. | .vltake .. | .vfadd .. | .vfsub .. | .vfmul .. | .vfdiv .. => some .X
  | .vfsqrt .. | .vfma .. | .vfms .. | .vfnma .. | .vfnms .. | .vfmin .. | .vfmax .. | .vfabs .. => some .X
  | .vfneg .. | .vfrcp .. | .vfrsq .. | .vfcmp .. | .vadd .. | .vsub .. | .vmul .. | .vmulh .. => some .X
  | .vand .. | .vor .. | .vxor .. | .vsll .. | .vsrl .. | .vsra .. | .vmin .. | .vmax .. => some .X
  | .vminn .. | .vmaxn .. | .vcmp .. | .vcvt .. | .vmv .. | .vbcast .. | .vmerge .. | .vslideup .. => some .X
  | .vslidedn .. | .vperm .. | .vcomp .. | .vexpd .. | .vextr .. | .vins .. | .viota .. | .vredsum .. => some .X
  | .vredtree .. | .vredmax .. | .vredmin .. | .vscan .. | .pand .. | .por .. | .pxor .. | .pandn .. => some .X
  | .pnot .. | .pcnt .. | .pfirst .. | .pset .. | .pclr .. | .pmov .. | .vpsplit .. | .vpjoin .. => some .X
  | .vptrunc .. | .vprnd .. | .vqmx .. | .vdqmx .. | .vpacc .. | .vadamw .. | .vsgdm .. | .mma .. => some .X
  | .mmap .. | .mmaz .. | .mtrans .. | .psnget .. | .psnclr => some .X
  | .eret | .wfe | .fence .. | .fencei | .ldb .. | .ldbn .. | .ldh .. | .ldhn .. => some .A
  | .ldw .. | .ldwn .. | .ldd .. | .stb .. | .sth .. | .stw .. | .std .. | .sptest .. => some .A
  | .spcast .. | .pushs .. | .pops .. | .strip .. | .lchk .. | .vld .. | .vlds .. | .vldx .. => some .A
  | .vldff .. | .vldp .. | .vst .. | .vsts .. | .vstx .. | .vstxadd .. | .vstp .. | .amoadd .. => some .A
  | .amoand .. | .amoor .. | .amoxor .. | .amomin .. | .amomax .. | .amominn .. | .amomaxn .. | .amoswap .. => some .A
  | .amocas .. | .amofadd .. | .cpy .. | .due .. | .waitd .. | .waith .. | .cpyst .. | .abinit .. => some .A
  | .waitab .. | .mopen .. | .mnbr .. | .mcell .. | .mmark .. | .madapt .. | .mcut .. | .mmig .. => some .A
  | .mhalo .. | .bhist .. | .bscan .. | .btopk .. | .broute .. | .bcolor .. | .bseg .. | .barw .. => some .A
  | .bara | .barq .. | .sigw .. | .launch .. => some .A
  | _ => none

/-- The kind of a CSR (R105). -/
inductive CsrKind where
  | a | x | perSide | shared
deriving DecidableEq, Repr, Inhabited

/-- Kinds of R106. -/
def Csr.kind : Csr → CsrKind
  | .fflags | .frm | .vt | .psnstat | .xlink => .x
  | .optlr | .optb1 | .optb2 | .opteps | .optwd | .optbc => .x
  | .stripsz => .a
  | .vstart | .vl => .perSide
  | _ => .shared

/-- CSRs with no U access (R106). -/
def Csr.priv (c : Csr) : Bool :=
  match c with
  | .status | .cause | .epc | .tval | .tvec | .scratch | .tval2 | .xepc => true
  | .pregrace | .shctl | .lanemap | .wearst | .wurec | .dbgctl => true
  | _ => false

/-- The CSR a word accesses. -/
def Instr.csr? (i : Instr) : Option Csr :=
  match i with
  | .csrr _ c => some c
  | .csrw _ _ c => some c
  | .csrs _ _ c => some c
  | .csrc _ _ c => some c
  | _ => none

/-- Whether a CSR belongs to the other side (R105). -/
def Csr.foreign (c : Csr) (sd : Side) : Bool :=
  match c.kind, sd with
  | .a, .X => true
  | .x, .A => true
  | _, _ => false

/-- What a word needs of VT (R47, R182, R223, R231, R235, R240). -/
inductive VtNeed where
  | no | any | fp | red | acc | opt
deriving DecidableEq, Repr, Inhabited

/-- The VT class of a word. -/
def Instr.vtNeed (i : Instr) : VtNeed :=
  match i with
  | .setvl .. => .any
  | .vfadd .. | .vfsub .. | .vfmul .. | .vfdiv .. | .vfsqrt .. | .vfma .. | .vfms .. | .vfnma .. => .fp
  | .vfnms .. | .vfmin .. | .vfmax .. | .vfabs .. | .vfneg .. | .vfrcp .. | .vfrsq .. | .vfcmp .. => .fp
  | .vadd .. | .vsub .. | .vmul .. | .vmulh .. | .vand .. | .vor .. | .vxor .. | .vsll .. => .any
  | .vsrl .. | .vsra .. | .vmin .. | .vmax .. | .vminn .. | .vmaxn .. | .vcmp .. | .vcvt .. => .any
  | .vmv .. | .vbcast .. | .vmerge .. | .vslideup .. | .vslidedn .. | .vperm .. => .any
  | .vcomp .. | .vexpd .. | .vextr .. | .vins .. | .viota .. => .any
  | .vredsum .. | .vredtree .. | .vredmax .. | .vredmin .. | .vscan .. => .red
  | .vpsplit .. | .vpjoin .. | .vptrunc .. | .vprnd .. => .any
  | .vqmx .. | .vdqmx .. => .fp
  | .vpacc .. => .acc
  | .vadamw .. | .vsgdm .. => .opt
  | _ => .no

/-- Whether VT serves a word. -/
def VtNeed.ok (n : VtNeed) (vt : Option VType) : Bool :=
  match n, vt with
  | .no, _ => true
  | _, none => false
  | .any, some _ => true
  | .fp, some t => t.fp
  | .red, some t => t.fp || t.kind == .int || t.kind == .nat
  | .acc, some t => t.kind == .ieee && t.w != 16
  | .opt, some t => t.kind == .ieee && t.w != 16 && t.lmul == 1

/-- Legal bases of a group of `k` registers (R44). -/
def groupOk (r : Reg) (k : Nat) : Bool :=
  match k with
  | 1 => true
  | 2 => r.toNat % 2 == 0 && r.toNat ≤ 26
  | 4 => r.toNat % 4 == 0 && r.toNat ≤ 24
  | 8 => r.toNat % 8 == 0 && r.toNat ≤ 16
  | _ => false

/-- Width of a VCVT source type. -/
def VTy.width : VTy → Nat
  | .i8 | .n8 | .e4m3 | .e5m2 => 8
  | .i16 | .n16 | .f16 | .bf16 => 16
  | .i32 | .n32 | .f32 => 32
  | .i64 | .n64 | .f64 => 64
  | .e2m1 => 4

/-- Full width of a plane family (R208). -/
def Fam.width : Fam → Nat
  | .e8 => 32
  | .e11 => 64

/-- Width of plane k (R208). -/
def Fam.planeWidth (f : Fam) (k : Nat) : Nat :=
  match f with
  | .e8 => if k = 0 then 16 else 8
  | .e11 => 16

/-- Low bit of plane p (R208). -/
def Fam.lo (f : Fam) (p : Nat) : Nat :=
  match f with
  | .e8 => if p = 0 then 16 else if p = 1 then 8 else 0
  | .e11 => 16 * (3 - p)

/-- Registers of a group of elements of width `v` beside elements of width `w` (R190, R223). -/
def sideGroup (lmul v w : Nat) : Nat := max 1 (lmul * v / w)

/-- Grouped operands of the B kind. -/
def bGroup (fm : BKind) (b : Reg) (l : Nat) : List (Reg × Nat) :=
  match fm with
  | .vec => [(b, l)]
  | _ => []

/-- The grouped vector operands of a word, with their group sizes (R44, R190, R223, R231). -/
def Instr.groups (i : Instr) (vt : BitVec 12) : List (Reg × Nat) :=
  let l := vtLmul vt
  match i with
  | .vfadd d a b fm _ _ | .vfsub d a b fm _ _ | .vfmul d a b fm _ _ | .vfdiv d a b fm _ _
  | .vfma d a b fm _ _ | .vfms d a b fm _ _ | .vfnma d a b fm _ _ | .vfnms d a b fm _ _ => [(d, l), (a, l)] ++ bGroup fm b l
  | .vfmin d a b fm _ | .vfmax d a b fm _
  | .vadd d a b fm _ | .vsub d a b fm _ | .vmul d a b fm _ | .vmulh d a b fm _ | .vand d a b fm _
  | .vor d a b fm _ | .vxor d a b fm _ | .vsll d a b fm _ | .vsrl d a b fm _ | .vsra d a b fm _
  | .vmin d a b fm _ | .vmax d a b fm _ | .vminn d a b fm _ | .vmaxn d a b fm _
  | .vmerge d a b fm _ => [(d, l), (a, l)] ++ bGroup fm b l
  | .vfsqrt d a _ _ | .vfrcp d a _ _ | .vfrsq d a _ _ => [(d, l), (a, l)]
  | .vfabs d a _ | .vfneg d a _ | .vmv d a _ | .vcomp d a _ | .vexpd d a _ => [(d, l), (a, l)]
  | .vfcmp _ a b fm _ _ => [(a, l)] ++ bGroup fm b l
  | .vcmp _ a b fm _ _ => [(a, l)] ++ bGroup fm b l
  | .vcvt d a _ _ t =>
    match vtSew vt with
    | some w => [(d, l), (a, sideGroup l t.width w)]
    | none => [(d, l)]
  | .vbcast d _ _ _ | .viota d _ | .vins d _ _ _ => [(d, l)]
  | .vslideup d a _ _ _ | .vslidedn d a _ _ _ => [(d, l), (a, l)]
  | .vperm d a b _ => [(d, l), (a, l), (b, l)]
  | .vextr _ a _ _ => [(a, l)]
  | .vredsum _ a _ _ | .vredtree _ a _ _ => [(a, l)]
  | .vredmax _ a _ | .vredmin _ a _ => [(a, l)]
  | .vscan d a _ _ => [(d, l), (a, l)]
  | .vpsplit d a _ f n => [(d, sideGroup l (f.planeWidth n.toNat) f.width), (a, l)]
  | .vpjoin d a _ f n => [(d, l), (a, sideGroup l (f.planeWidth n.toNat) f.width)]
  | .vptrunc d a _ _ _ | .vprnd d a _ _ _ => [(d, l), (a, l)]
  | .vqmx _ a _ => [(a, l)]
  | .vdqmx d _ _ _ => [(d, l)]
  | .vpacc d a _ _ => [(d, l), (a, Nat.max 1 (l / 2))]
  | _ => []

end Sys2Proof

namespace Sys2Proof.Machine

/-- Whether the hart may run privileged words on this side: an A-side handler (R105, R359). -/
def State.inS (s : State) : Bool := s.h.tr.smode && s.own.side == .A

/-- The lowest subcode of ILLEGAL that applies to a decoded word (R61 to R63). -/
def State.illegalSub (s : State) (i : Instr) : Option Nat :=
  let foreign : Bool := match i.csr? with | some c => !s.inS && c.foreign s.own.side | none => false
  let priv : Bool := match i.csr? with | some c => !s.inS && c.priv | none => i == .eret && !s.inS
  if (match i.onSide with | some sd => sd != s.own.side | none => false) || foreign then some 1
  else if priv then some 2
  else if !i.regsLegal || !((i.groups s.h.csr.vt).all (fun p => groupOk p.1 p.2)) then some 3
  else if !i.vtNeed.ok s.vt then some 4
  else none

/-- Run a meaning unless its word is ILLEGAL here, before any effect (R63). -/
def State.gate (s : State) (i : Instr) (k : State → Out) : Out :=
  match s.illegalSub i with
  | some n => s.illegal n
  | none => k s

/-! ### Vector and predicate operands -/

/-- Element `e` of width `w` of a group. -/
def vGet (regs : List VReg) (w e : Nat) : Nat :=
  ((regs.getD (e / perReg w) 0).extractLsb' (w * (e % perReg w)) w).toNat

/-- Replace bits of a register. -/
def putBits (r : VReg) (w o v : Nat) : VReg :=
  (r &&& ~~~((BitVec.ofNat 8192 (2 ^ w - 1)) <<< o)) ||| ((BitVec.ofNat 8192 (v % 2 ^ w)) <<< o)

/-- Write element `e` of width `w` of a group. -/
def vSet (regs : List VReg) (w e v : Nat) : List VReg :=
  regs.modify (e / perReg w) (fun r => putBits r w (w * (e % perReg w)) v)

/-- The registers of a group. -/
def Hart.vGroup (h : Hart) (r : Reg) (n : Nat) : List VReg :=
  (List.range n).map (fun j => h.regs.v.toList.getD (r.toNat + j) 0)

/-- Write the registers of a group. -/
def Hart.setGroup (h : Hart) (r : Reg) (vs : List VReg) : Hart :=
  { h with regs := { h.regs with v :=
      (vs.zipIdx.foldl (fun acc vi => acc.setIfInBounds (r.toNat + vi.2) vi.1) h.regs.v) } }

/-- A predicate register; p0 reads all ones (R40). -/
def Hart.readP (h : Hart) (p : BitVec 6) : PReg := if p = 0 then BitVec.allOnes 2048 else h.regs.p[p.toNat]

/-- Write a predicate register; p0 discards (R40). -/
def Hart.writeP (h : Hart) (p : BitVec 6) (v : PReg) : Hart :=
  if p = 0 then h else { h with regs := { h.regs with p := h.regs.p.set p.toNat v } }

/-- Set or clear a bit of a mask. -/
def setBit (p : PReg) (e : Nat) (b : Bool) : PReg :=
  if b then p ||| (1#2048 <<< e) else p &&& ~~~(1#2048 <<< e)

/-- The governing predicate of PG (R45). -/
def Hart.guard (h : Hart) (pg : BitVec 3) : PReg := h.readP (pg.zeroExtend 6)

/-- A vector operand: its registers, and its poison bits when a load queue supplied it. -/
structure VOpnd where
  regs : List VReg
  psn  : PReg
deriving DecidableEq, Repr, Inhabited

/-- The vector operand of field `i`, a group of `n` registers. -/
def State.vopnd (s : State) (fs : List Fld) (i n : Nat) : VOpnd :=
  match fs[i]? with
  | some (.v r) =>
    if isQ r then
      match (s.h.q.vload[qNo r]).items[fldDepth fs i]? with
      | some e => ⟨[e.data], e.psn⟩
      | none => ⟨[0], 0⟩
    else ⟨s.h.vGroup r n, 0⟩
  | _ => ⟨[0], 0⟩

/-- An operand as elements: each value, and whether it is poisoned. -/
structure Opnd where
  val : Nat → Nat
  psn : Nat → Bool

/-- An uncorrectable error in reading element `e` of field `i` (R205). -/
def State.readErr (s : State) (i e : Nat) : Bool :=
  match s.own.upset with
  | .vread f x => f == i && x == e
  | _ => false

/-- Field `i` as elements of width `w`; `fmt` gives the format whose poison payload counts (R205). -/
def State.vop (s : State) (fs : List Fld) (i n w : Nat) (fmt : Option FFmt) : Opnd :=
  let o := s.vopnd fs i n
  ⟨vGet o.regs w, fun e => o.psn.getLsbD e || s.readErr i e ||
    (match fmt with | some f => (f.dec (vGet o.regs w e)).isPsn | none => false)⟩

/-- The value of a 5-bit immediate in a kind (R183). -/
def VType.imm (t : VType) (b : Reg) : Nat :=
  match t.kind with
  | .int | .nat => (b.signExtend t.w).toNat
  | _ => (t.fmt.ofInt .rne true 5 b.toNat).1

/-- One value as an operand of every element. -/
def constOp (fmt : Option FFmt) (v : Nat) : Opnd :=
  ⟨fun _ => v, fun _ => match fmt with | some f => (f.dec v).isPsn | none => false⟩

/-- The source field of the B operand. -/
def bFld (fm : BKind) (b : Reg) : List Fld :=
  match fm with
  | .vec => [.v b]
  | .scal => [.s b]
  | .imm => []

/-- The B operand, whose field is number `i` (R183). -/
def State.bop (s : State) (t : VType) (fs : List Fld) (i : Nat) (fm : BKind) (b : Reg) (fmt : Option FFmt) : Opnd :=
  match fm with
  | .vec => s.vop fs i t.lmul t.w fmt
  | .scal => constOp fmt ((s.fld fs i).toNat % 2 ^ t.w)
  | .imm => constOp fmt (t.imm b)

/-- An uncorrectable error in reading the governing predicate (R205). -/
def State.predErr (s : State) : Bool := s.own.upset == .pread

/-! ### Shadow divergence (R201 to R204) -/

/-- The physical lane of an element (R172). -/
def Core.laneOf (c : Core) (w e : Nat) : Nat :=
  let p := c.lanes * 256 / w
  c.physLane (e % p * w / 64 % c.lanes)

/-- A divergence at element `e` with the main unit's result: the lane's history, its retirement, and
the report (R202, R203, R204). -/
def State.diverge (s : State) (w e result : Nat) : State × Trap :=
  let n := s.coreOf s.own.cur
  let c := s.coreNo n
  let lane := c.laneOf w e
  let times := (c.div.filter (fun p => p.1 = lane)).map (·.2)
  let third := decide (times.length ≥ 2) && times.all (fun t => decide (s.now ≤ t + 2 ^ 20))
  let retire := third && s.h.tr.shRetire
  let fatal := retire && c.lanes == 16
  let div := c.div.filter (fun p => p.1 ≠ lane) ++ ((times ++ [s.now]).drop (times.length - 1)).map (fun t => (lane, t))
  let c1 := { c with div := div, lanemap := if retire then c.lanemap ||| (1#32 <<< lane) else c.lanemap }
  let four := retire && decide (c1.lanes ≤ 28) && (c.st == .nominal || c.st == .derated)
  let c2 := if four then { c1 with st := .drained, lanes4 := true } else c1
  let s1 := s.setCore n c2
  let s2 := if retire then s1.modH (fun h => { h with csr := { h.csr with sticky := h.csr.sticky ||| 4 } }) else s1
  (s2, ⟨cShadow, word (e + lane * 2 ^ 16 + (if retire then 2 ^ 24 else 0) + (if fatal then 2 ^ 25 else 0)), word result⟩)

/-- The element whose shadow gives a result of its own in this turn, with that result, if checking is on (R201). -/
def State.shadowAt (s : State) : Option (Nat × Nat) :=
  match s.own.upset with
  | .shadow e r => if s.h.tr.shEn then some (e, r) else none
  | _ => none

/-! ### Destinations of vector instructions (R176, R184, R185) -/

/-- What a vector instruction has computed so far. -/
structure VAcc where
  regs  : List VReg
  pred  : PReg
  psn   : PReg
  psm   : PReg
  flags : Nat
deriving DecidableEq, Repr, Inhabited

/-- Start an accumulation: the destination group as it stands, or a fresh or reserved entry. -/
def State.vstartAcc (s : State) (d : Reg) (n : Nat) (resume : Bool) : VAcc :=
  if isQ d then
    match (s.h.q.vstore[qNo d]).resv, resume with
    | some r, true =>
      if r.pc = s.h.x.pc then ⟨[r.entry.data], r.entry.pred, r.entry.psn, s.h.regs.psm, 0⟩
      else ⟨[0], 0, 0, s.h.regs.psm, 0⟩
    | _, _ => ⟨[0], 0, 0, s.h.regs.psm, 0⟩
  else ⟨s.h.vGroup d n, 0, 0, s.h.regs.psm, 0⟩

/-- Put a result in place; `psn` is the poison bit its value takes in a queue entry. -/
def VAcc.put (a : VAcc) (w e v : Nat) (poison : Bool) (flags : Nat) (psn : Bool) : VAcc :=
  { regs := vSet a.regs w e v, pred := a.pred, psn := setBit a.psn e psn,
    psm := if poison then setBit a.psm e true else a.psm, flags := a.flags ||| flags }

/-- Whether a result's value marks its position of a pushed entry poisoned (R185). -/
def VType.entryPsn (t : VType) (v : Nat) : Bool := t.fp && (t.fmt.dec v).isPsn

/-- The active elements below `vl`, as a mask (R175). -/
def State.actMask (s : State) (pg : BitVec 3) (vl : Nat) : PReg := s.h.guard pg &&& BitVec.ofNat 2048 (2 ^ vl - 1)

/-- The marks of the positions of a pushed entry: the predicate bits of the active elements, and for kinds without a
poison encoding the poison bits that PSM holds (R185). -/
def VAcc.mark (a : VAcc) (t : VType) (act : PReg) : VAcc :=
  { a with pred := act, psn := if t.fp then a.psn else a.psn ||| (a.psm &&& BitVec.ofNat 2048 (2 ^ perReg t.w - 1)) }

/-- OR flags into FFLAGS (R98). -/
def Hart.orFlags (h : Hart) (f : Nat) : Hart :=
  { h with csr := { h.csr with fflags := h.csr.fflags ||| BitVec.ofNat 5 f } }

/-- Write PSM. -/
def Hart.setPsm (h : Hart) (p : PReg) : Hart := { h with regs := { h.regs with psm := p } }

/-- Push a store-queue entry, in place of any reserved one (R42, R185). -/
def Hart.pushV (h : Hart) (q : Fin 4) (e : Entry) : Hart :=
  { h with q := { h.q with vstore := h.q.vstore.set q { h.q.vstore[q] with items := (h.q.vstore[q]).items ++ [e], resv := none } } }

/-- Keep a partly filled entry reserved (R42). -/
def Hart.reserveV (h : Hart) (q : Fin 4) (e : Entry) : Hart :=
  { h with q := { h.q with vstore := h.q.vstore.set q { h.q.vstore[q] with resv := some ⟨h.x.pc, 0, e⟩ } } }

/-- Write a vector destination at completion: a group, or one entry pushed. -/
def Hart.writeV (h : Hart) (d : Reg) (a : VAcc) : Hart :=
  if isQ d then h.pushV (qNo d) ⟨a.regs.getD 0 0, a.pred, a.psn, true⟩ else h.setGroup d a.regs

/-- Write what a trapped element-wise instruction has done (R176). -/
def Hart.writePart (h : Hart) (d : Reg) (a : VAcc) : Hart :=
  if isQ d then h.reserveV (qNo d) ⟨a.regs.getD 0 0, a.pred, a.psn, true⟩ else h.setGroup d a.regs

/-- Set the X side's VSTART. -/
def Hart.xVstart (h : Hart) (n : Nat) : Hart := { h with x := { h.x with vstart := n } }

/-- A vector instruction completes: pops, destination, PSM, flags, VSTART 0. -/
def State.finishV (s : State) (fs : List Fld) (d : Reg) (a : VAcc) : Out :=
  ((s.popAll fs).modH (fun h => (((h.writeV d a).setPsm a.psm).orFlags a.flags).xVstart 0)).complete

/-- A vector instruction that writes a predicate completes. -/
def State.finishP (s : State) (fs : List Fld) (d : Reg) (bits : PReg) (psm : PReg) (flags : Nat) : Out :=
  ((s.popAll fs).modH (fun h => (((h.writeP (d.zeroExtend 6) bits).setPsm psm).orFlags flags).xVstart 0)).complete

/-- A vector instruction that writes an s register completes (R198). -/
def State.finishS (s : State) (fs : List Fld) (d : Reg) (v : Word) (psm : PReg) (flags : Nat) : Out :=
  (((s.popAll fs).writeR d v).modH (fun h => ((h.setPsm psm).orFlags flags).xVstart 0)).complete

/-- A vector instruction traps with no destination written; VSTART 0 (R176). -/
def State.trapV (s : State) (t : Trap) : Out := (s.modH (fun h => h.xVstart 0)).trap t

/-- Whether an element is active (R175). -/
def activeAt (g : PReg) (e : Nat) : Bool := g.getLsbD e

/-- Elements an element-wise instruction executes (R176). -/
def State.elems (s : State) (g : PReg) (vl : Nat) : List Nat :=
  (List.range vl).filter (fun e => decide (s.h.x.vstart ≤ e) && activeAt g e)

/-- The flags of an element that takes its poison result: NV for a signalling NaN among the operands that are not
poisoned (R180). `f` is the format of the operands' NaNs. -/
def psnFlags (f : FFmt) (bad : Bool) (srcs : List Opnd) (e : Nat) : Nat :=
  if !bad && srcs.any (fun o => !o.psn e && (f.dec (o.val e)).isSnan) then 16 else 0

/-- The flags of an element that takes its poison result, in a row whose operands are of format `f`: those that the
operation sets when each poisoned operand stands as the quiet NaN of R180, so NV for a signalling NaN beside it and for
a product of 0 and infinity (R180, R186; log 56). -/
def opFlags (f : Option FFmt) (bad : Bool) (srcs : List Opnd) (op : List Nat → FRes) (e : Nat) : Nat :=
  match f with
  | some f => if bad then 0 else (op (srcs.map (fun o => if o.psn e then f.poison else o.val e))).2
  | none => 0

/-- One element of an element-wise instruction (R184): a poisoned operand gives the row's poison result `pv`. -/
def eStep (t : VType) (nf : Option FFmt) (pv : Nat) (srcs : List Opnd) (bad : Bool) (op : List Nat → FRes) (a : VAcc) (e : Nat) : VAcc :=
  let p := bad || srcs.any (fun o => o.psn e)
  let r : FRes := if p then (pv, opFlags nf bad srcs op e) else op (srcs.map (fun o => o.val e))
  a.put t.w e r.1 p r.2 (t.entryPsn r.1)

/-- The element at a beat boundary before which the turn stops an element-wise instruction by force (R172, R177). -/
def State.cutBeat (s : State) (w vl : Nat) : Option Nat :=
  s.own.cut.bind (fun c =>
    let b := (s.coreNo (s.coreOf s.own.cur)).lanes * 64 / w
    let e := c / b * b
    if s.h.x.vstart < e ∧ e < vl then some e else none)

/-- The running hart is stopped by force inside its X-side instruction, whose VSTART stands at element `e` (R177,
R345). -/
def State.stopInside (s : State) (e : Nat) : Out :=
  let s1 := s.modH (fun h => (h.xVstart e).preempt s.now)
  .next (s1.setCar (carKey s.own.cur) { s1.caravan s.own.cur with forced := true })

/-- Write what an element-wise instruction has done before element `e`. -/
def State.putPart (s : State) (d : Reg) (a : VAcc) : State :=
  s.modH (fun h => ((h.writePart d a).setPsm a.psm).orFlags a.flags)

/-- What the shadow gives at one of these elements, where it diverges from the main unit's result (R201). -/
def State.divergesAt (s : State) (f : FFmt) (es : List Nat) (main : Nat → Nat) : Option Nat :=
  s.shadowAt.bind (fun p => if es.contains p.1 && f.diverges (main p.1) p.2 then some p.1 else none)

/-- The loop of R184 for a row that writes a vector; `run` performs some elements in order. `shadow` marks a row of R201.
Where reading the governing predicate meets an uncorrectable error, its stored bits select the active elements (R205 does
not say which those are; log 60). -/
def State.loopV (s : State) (t : VType) (fs : List Fld) (d : Reg) (pg : BitVec 3) (shadow : Bool)
    (run : List Nat → VAcc → VAcc) : Out :=
  let vl := s.vlen t
  let all := s.elems (s.h.guard pg) vl
  let cut := s.cutBeat t.w vl
  let es := all.filter (fun e => decide (e < cut.getD vl))
  let a0 := s.vstartAcc d t.lmul (decide (s.h.x.vstart ≠ 0))
  let upTo := fun (n : Nat) => (run (es.filter (fun x => decide (x < n))) a0).mark t (s.actMask pg n)
  let main := fun (e : Nat) => vGet (run (es.filter (fun x => decide (x < e + 1))) a0).regs t.w e
  match (if shadow then s.divergesAt t.fmt es main else none) with
  | some e =>
    let (s2, tr) := ((s.putPart d (upTo e)).modH (fun h => h.xVstart e)).diverge t.w e (main e)
    s2.trap tr
  | none =>
    match cut with
    | some c => (s.putPart d (upTo c)).stopInside c
    | none => s.finishV fs d ((run es a0).mark t (s.actMask pg vl))

/-- A row whose sources and destination stand at the same places of their groups, so that no element read is one written
before. `nf` is the format of its operands' NaNs. -/
def State.elementwise (s : State) (t : VType) (fs : List Fld) (d : Reg) (pg : BitVec 3) (shadow : Bool) (nf : Option FFmt)
    (pv : Nat) (srcs : List Opnd) (op : List Nat → FRes) : Out :=
  s.loopV t fs d pg shadow (fun es a => es.foldl (eStep t nf pv srcs s.predErr op) a)

/-- Elements of a pass (R172). -/
def State.perPass (s : State) (w : Nat) : Nat := max 1 ((s.coreNo (s.coreOf s.own.cur)).lanes * 256 / w)

/-- The state in which a pass reads its sources: its destination holds what earlier passes wrote (R184). -/
def State.withGroup (s : State) (d : Reg) (vs : List VReg) : State :=
  if isQ d then s else s.modH (fun h => h.setGroup d vs)

/-- Perform elements pass by pass; the sources of a pass are read when the passes before it have written (R184). -/
def State.passes (s : State) (t : VType) (d : Reg) (pv : Nat) (srcs : State → List Opnd) (op : List Nat → FRes)
    (es : List Nat) (a : VAcc) : VAcc :=
  (List.range ((s.vlen t + s.perPass t.w - 1) / s.perPass t.w)).foldl (fun acc p =>
    (es.filter (fun e => e / s.perPass t.w == p)).foldl
      (eStep t none pv (srcs (s.withGroup d acc.regs)) s.predErr op) acc) a

/-- The loop of R184 for a row that writes a predicate: a poisoned element gives bit 0 (R187, R189). -/
def State.elementwiseP (s : State) (t : VType) (fs : List Fld) (d : Reg) (pg : BitVec 3)
    (srcs : List Opnd) (op : List Nat → Bool × Nat) : Out :=
  let vl := s.vlen t
  let cut := s.cutBeat t.w vl
  let es := (s.elems (s.h.guard pg) vl).filter (fun e => decide (e < cut.getD vl))
  let r := es.foldl (fun (acc : PReg × PReg × Nat) e =>
    if s.predErr || srcs.any (fun o => o.psn e) then (setBit acc.1 e false, setBit acc.2.1 e true, acc.2.2)
    else
      let b := op (srcs.map (fun o => o.val e))
      (setBit acc.1 e b.1, acc.2.1, acc.2.2 ||| b.2)) (s.h.readP (d.zeroExtend 6), s.h.regs.psm, 0)
  match cut with
  | some c => (s.modH (fun h => ((h.writeP (d.zeroExtend 6) r.1).setPsm r.2.1).orFlags r.2.2)).stopInside c
  | none => s.finishP fs d r.1 r.2.1 r.2.2

end Sys2Proof.Machine
end

