-- ==== Sys2Proof/Machine/Flags.lean ====
section
/-! DEFINITION. FFLAGS and the rounding modes that words and CSRs select (03_scalar R98, R99,
02_words R52). -/

namespace Sys2Proof.Machine

/-- FFLAGS is ORed with an instruction's flags when it completes (R93, R98). -/
def State.orFlags (s : State) (f : Nat) : State := s.modH (fun h => h.orFlags f)

/-- The rounding mode of a scalar FP word: the dynamic code takes FRM (R94, R99). -/
def State.scalarRm (s : State) (rm : RM) : RM :=
  match rm with
  | .dyn => (rmOfCsr s.h.csr.frm).getD .rne
  | r => r

/-- The rounding mode of a vector word: the dynamic code takes VT.RM (R52, R186). -/
def VType.vectorRm (t : VType) (rm : RM) : RM :=
  match rm with
  | .dyn => t.rm
  | r => r

/-- The format of a scalar FP type (R93). -/
def ftyFmt (t : FTy) : FFmt :=
  match t with
  | .d => fmt64
  | .s => fmt32
  | .h => fmt16

/-- A scalar FP operand: the low bits of its register (R93). -/
def fpLow (t : FTy) (v : Word) : Nat := v.toNat % 2 ^ (ftyFmt t).width

end Sys2Proof.Machine
end

