-- ==== Sys2Proof/Machine/QBlock.lean ====
section
/-! DEFINITION. The queue block of the device window (04_access R134, R136): how its 8-byte words read and
what writing them does. -/

namespace Sys2Proof.Machine

/-- Replace bits of a mask. -/
def putMask (r : PReg) (w o v : Nat) : PReg :=
  (r &&& ~~~((BitVec.ofNat 2048 (2 ^ w - 1)) <<< o)) ||| ((BitVec.ofNat 2048 (v % 2 ^ w)) <<< o)

/-- An entry with nothing in it. -/
def Entry.zero : Entry := ⟨0, 0, 0, true⟩

/-- The entry of a slot that can be read and written: below the occupancy, or reserved at it (R136). -/
def VQueue.slot (q : VQueue) (k : Nat) : Option Entry :=
  if k < q.items.length then q.items[k]? else if k = q.items.length then q.resv.map (·.entry) else none

/-- Replace the entry of a slot; other slots ignore the write (R136). -/
def VQueue.setSlot (q : VQueue) (k : Nat) (e : Entry) : VQueue :=
  if k < q.items.length then { q with items := q.items.set k e }
  else if k = q.items.length then { q with resv := q.resv.map (fun r => { r with entry := e }) }
  else q

/-- A vector queue of a hart by kind (0 load, 1 store) and number. -/
def Hart.vq (h : Hart) (kind : Nat) (n : Fin 4) : VQueue := if kind = 0 then h.q.vload[n] else h.q.vstore[n]

/-- Replace a vector queue. -/
def Hart.setVq (h : Hart) (kind : Nat) (n : Fin 4) (q : VQueue) : Hart :=
  if kind = 0 then { h with q := { h.q with vload := h.q.vload.set n q } }
  else { h with q := { h.q with vstore := h.q.vstore.set n q } }

/-- A scalar queue of a hart by kind (2 A-to-X, 3 X-to-A, 4 length). -/
def Hart.sq (h : Hart) (kind : Nat) (n : Fin 4) : SQueue :=
  if kind = 2 then h.q.toX[n] else if kind = 3 then h.q.toA[n] else h.q.len

/-- Replace a scalar queue. -/
def Hart.setSq (h : Hart) (kind : Nat) (n : Fin 4) (q : SQueue) : Hart :=
  if kind = 2 then { h with q := { h.q with toX := h.q.toX.set n q } }
  else if kind = 3 then { h with q := { h.q with toA := h.q.toA.set n q } }
  else { h with q := { h.q with len := q } }

/-- A number below 4. -/
def four (n : Nat) : Fin 4 := ⟨n % 4, Nat.mod_lt _ (by decide)⟩

/-- Whether an 8-bit number is a queue code (R135). -/
def isCode (c : Nat) : Bool := (decide (c / 16 < 4) && decide (c % 16 < 4)) || c == 0x40

/-- The items of a queue after its index word is written (R134, R136): each place keeps what stood at its
index, an entry reserved at the tail included; other places hold nothing. -/
def reindex {α : Type} (items : List α) (resv : Option α) (zero : α) (oldHead newHead : BitVec 8) (occ : Nat) : List α :=
  (List.range occ).map (fun i =>
    let at_ := (newHead + BitVec.ofNat 8 i - oldHead).toNat
    if at_ < items.length then items.getD at_ zero
    else if at_ = items.length then resv.getD zero else zero)

/-- Write the index word of a queue: tail in [15:8], head in [7:0]; ignored when the occupancy would pass
the depth (R136). An entry reserved at the old tail stays reserved, unless the new indices take it in. -/
def Hart.writeIndex (h : Hart) (code : Nat) (v : Word) : Hart :=
  let hd := v.extractLsb' 0 8
  let occ := (v.extractLsb' 8 8 - hd).toNat
  let n := four code
  if !isCode code || occ > qDepth code then h
  else if code / 16 < 2 then
    let q := h.vq (code / 16) n
    h.setVq (code / 16) n
      { q with head := hd, items := reindex q.items (q.resv.map (·.entry)) Entry.zero q.head hd occ,
               resv := if (tailIdx q.head q.items.length - hd).toNat < occ then none else q.resv }
  else
    let q := h.sq (code / 16) n
    h.setSq (code / 16) n { head := hd, items := reindex q.items none 0 q.head hd occ }

/-- Read an 8-byte word of the block (R136). -/
def Hart.qblockRead (h : Hart) (off : Nat) : Nat :=
  if off < 0x10000 then
    match (h.vq (off / 0x8000) (four (off / 0x2000))).slot (off / 0x400 % 8) with
    | some e => (e.data.extractLsb' (8 * (off % 0x400)) 64).toNat
    | none => 0
  else if off < 0x18000 then
    let o := off - 0x10000
    match (h.vq (o / 0x4000) (four (o / 0x1000))).slot (o / 0x200 % 8) with
    | some e =>
      if o % 0x200 < 0x100 then (if o / 0x4000 = 1 then (e.pred.extractLsb' (8 * (o % 0x200)) 64).toNat else 0)
      else (e.psn.extractLsb' (8 * (o % 0x100)) 64).toNat
    | none => 0
  else if off < 0x18800 then
    let o := off - 0x18000
    if o % 0x100 < 0x80 then ((h.sq (2 + o / 0x400) (four (o / 0x100))).items.getD (o % 0x100 / 8) 0).toNat else 0
  else if off < 0x18880 then (h.q.len.items.getD ((off - 0x18800) / 8) 0).toNat
  else if 0x19000 ≤ off ∧ off < 0x19800 then
    let c := (off - 0x19000) / 8
    if isCode c then (h.headIdx c).toNat + 256 * (tailIdx (h.headIdx c) (h.occ c)).toNat else 0
  else 0

/-- Write an 8-byte word of the block (R136). -/
def Hart.qblockWrite (h : Hart) (off : Nat) (v : Word) : Hart :=
  if off < 0x10000 then
    let q := h.vq (off / 0x8000) (four (off / 0x2000))
    match q.slot (off / 0x400 % 8) with
    | some e => h.setVq (off / 0x8000) (four (off / 0x2000))
        (q.setSlot (off / 0x400 % 8) { e with data := putBits e.data 64 (8 * (off % 0x400)) v.toNat })
    | none => h
  else if off < 0x18000 then
    let o := off - 0x10000
    let q := h.vq (o / 0x4000) (four (o / 0x1000))
    match q.slot (o / 0x200 % 8) with
    | some e =>
      let e1 := if o % 0x200 < 0x100 then
          (if o / 0x4000 = 1 then { e with pred := putMask e.pred 64 (8 * (o % 0x200)) v.toNat } else e)
        else { e with psn := putMask e.psn 64 (8 * (o % 0x100)) v.toNat }
      h.setVq (o / 0x4000) (four (o / 0x1000)) (q.setSlot (o / 0x200 % 8) e1)
    | none => h
  else if off < 0x18800 then
    let o := off - 0x18000
    let q := h.sq (2 + o / 0x400) (four (o / 0x100))
    if o % 0x100 < 0x80 then
      h.setSq (2 + o / 0x400) (four (o / 0x100)) { q with items := q.items.set (o % 0x100 / 8) v }
    else h
  else if off < 0x18880 then
    { h with q := { h.q with len := { h.q.len with items := h.q.len.items.set ((off - 0x18800) / 8) v } } }
  else if 0x19000 ≤ off ∧ off < 0x19800 then h.writeIndex ((off - 0x19000) / 8) v
  else h

end Sys2Proof.Machine
end

