-- ==== Sys2Proof/Machine/Access.lean ====
section
/-! DEFINITION. How accesses of the A side reach memory (04_access R110 to R115, R144, R145, R147), and the
loops that move vector queue entries (R111, R124 to R132, 07_planes R213 to R216). -/

namespace Sys2Proof.Machine

/-! ### One checked place -/

/-- Whether a place of the device window lies in the queue block (R136), whose extent is log 63. -/
def Place.inQBlock (p : Place) : Bool := decide (qblockBase ≤ p.dev) && decide (p.dev < qblockBase + 0x20000)

/-- The bytes at a checked place and whether they are poisoned. The queue block reads as R136 says; other device
registers have contents that the spec does not give, and they read as free values (log 63). -/
def State.readPlace (s : State) (p : Place) (n : Nat) : List Byte × Bool :=
  if p.cls = 6 then
    if p.inQBlock then (natBytes (s.h.qblockRead (p.dev - qblockBase)) 8, false)
    else ((List.range n).map (fun o => Config.deviceByte s.own.free (p.dev + o)), false)
  else s.readAs s.own.cur p.key n

/-- The two's-complement or IEEE add of VSTXADD and AMOADD (R130, R155). -/
def addBytes (fp : Bool) (old v : List Byte) : List Byte :=
  let w := 8 * old.length
  let x := bytesNat old
  let y := bytesNat v
  natBytes (if fp then ((ieeeFmt w).add .rne x y).1 else (x + y) % 2 ^ w) old.length

/-- Perform one part of a store at its memory (R126, R130, R280). -/
def State.performPart (s : State) (kind : StoreKind) (p : StPart) : State :=
  match kind with
  | .plain => s.put p.key p.bytes p.psn
  | .abinit =>
    let ph := memGet s.mem (p.key + 12) &&& 1
    s.put p.key (p.bytes.take 12 ++ whole [ph ||| ((ph ^^^ 1) <<< 1), 0, 0, 0]) p.psn
  | .add fp =>
    let n := p.bytes.length
    let bad := keyHoldsPoison p.key && poisoned s.poison p.key n
    s.put p.key (whole (addBytes fp (memBytes s.mem p.key n) (p.bytes.map (·.1)))) (if bad then .set else p.psn)

/-- Perform a store at its memory, all its parts in one action (R152). -/
def State.performStore (s : State) (p : PendStore) : State := p.parts.foldl (fun t q => t.performPart p.kind q) s

/-- Change what the running hart has in flight. -/
def State.modMem (s : State) (f : HartMem → HartMem) : State := s.modH (fun h => { h with mem := f h.mem })

/-- Whether a store must stay pending at its admission, behind the stores `before` it: to an RD page until it is
acknowledged (R145); where the turn defers it (R147), unless its lease is SC (R144); behind an earlier store to the same
bytes (R163); behind or as an access to an SC lease (R144); as a release, behind every earlier store and engine command
(R164, R165); while its block is not whole (R152); and behind a load that has not been performed (log 11). -/
def HartMem.keeps (m : HartMem) (before : List PendStore) (st : PendStore) (defer : Bool) : Bool :=
  st.rd.isSome || (defer && !st.sc) || ((st.rel || st.sc) && !before.isEmpty) || !st.cmds.isEmpty ||
    before.any (fun o => o.sc || st.meets o) || st.more.isSome || m.pendLoad.isSome

/-- Admit a store of the running hart: it is performed at once, or it stays pending. -/
def State.admitStore (s : State) (st : PendStore) (defer : Bool) : State :=
  let x := { st with id := s.h.mem.pendNo, cmds := if st.rel then s.h.unfinished else [] }
  if s.h.mem.keeps s.h.mem.pend x defer then s.modMem (fun m => { m with pend := m.pend ++ [x], pendNo := m.pendNo + 1 })
  else s.performStore x

/-- Store bytes at a checked place of the running hart. In the queue block the add of a VSTXADD is made to the word there,
which the spec does not say; a device register outside it takes the write, and the spec gives it no effect (log 63). -/
def State.storePlace (s : State) (p : Place) (bytes : List (Byte × Byte)) (act : PoisonAct) (kind : StoreKind)
    (rel defer : Bool) : State :=
  if p.cls = 6 then
    if p.inQBlock then
      let o := p.dev - qblockBase
      let v := match kind with
        | .add fp => addBytes fp (natBytes (s.h.qblockRead o) 8) (bytes.map (·.1))
        | _ => bytes.map (·.1)
      s.modH (fun h => h.qblockWrite o (word (bytesNat v)))
    else s
  else s.admitStore ⟨0, [⟨p.key, bytes, act⟩], p.rd, kind, rel, p.sc, none, []⟩ defer

/-- Whether an access to these places must wait: for the hart's own store to an RD page (R145); for all its stores
under SC, and after a store to an SC lease (R144); as a release, for all its stores and engine commands (R164; log 75);
for an add to the same bytes
not yet performed; for a store to the same scratchpad bytes, which its own hart reads no earlier than others (R168);
and for a load not yet performed that orders it or reads the same bytes (R115, R157). -/
def State.mustWait (s : State) (ps : List (Place × Nat)) (rel : Bool) : Bool :=
  let pend := s.h.mem.closed
  (rel && !(pend.isEmpty && s.h.unfinished.isEmpty)) || (!ps.isEmpty && pend.any (·.sc)) ||
    ps.any (fun p => (p.1.sc && !pend.isEmpty) || rdHeld s.h p.1.rd ||
      pend.any (fun o => (o.kind != .plain || keyIsSpad p.1.key) && o.hits p.1.key p.2)) ||
    (match s.h.mem.pendLoad with
     | some l => ps.any (fun p => l.hold || p.1.sc || p.1.cls = 6 || (decide (l.key < p.1.key + p.2) && decide (p.1.key < l.key + l.bytes)))
     | none => false)

/-! ### Scalar loads and stores (R113 to R115) -/

/-- What a scalar load writes to d. -/
def extend (signed : Bool) (bs : List Byte) : Word :=
  if signed && decide (bytesNat bs ≥ 2 ^ (8 * bs.length - 1)) then word (bytesNat bs) - word (2 ^ (8 * bs.length))
  else word (bytesNat bs)

/-- A scalar load is performed: POISON on poisoned bytes, else d (R114). `fin` is what follows. -/
def State.finishLoad (s : State) (d : Reg) (g : Word) (signed : Bool) (r : List Byte × Bool) (fin : State → Out) : Out :=
  if r.2 then s.raise cPoison g 0
  else fin (s.modH (fun h => h.writeA d (extend signed r.1)))

/-- A scalar load of `n` bytes at a + sext(imm) (R113). -/
def State.scalarLoad (s : State) (i : Instr) (d a : Reg) (imm : BitVec 15) (n : Nat) (signed : Bool) : Out :=
  s.gate i (fun s =>
    let g := s.h.readA a + imm.signExtend 64
    match checkElem s s.own.cur g n needR 0 with
    | .error t => s.trap t
    | .ok p =>
      if s.mustWait [(p, n)] false then .next (s.waitOn i none none)
      else if s.own.defer && p.cls != 6 && s.h.mem.pendLoad.isNone then
        .next (s.modMem (fun m => { m with pendLoad := some ⟨i, g, p.key, n, p.sc, m.pendNo, none⟩ }))
      else s.finishLoad d g signed (s.readPlace p n) State.complete)

/-- The low bytes of a word. -/
def lowBytes (v : Word) (n : Nat) : List Byte := natBytes v.toNat n

/-- A scalar store of `n` bytes at a + sext(imm) (R113, R114). -/
def State.scalarStore (s : State) (i : Instr) (d a : Reg) (imm : BitVec 15) (n : Nat) : Out :=
  s.gate i (fun s =>
    let g := s.h.readA a + imm.signExtend 64
    match checkElem s s.own.cur g n needW 0 with
    | .error t => s.trap t
    | .ok p =>
      if s.mustWait [(p, n)] false then .next (s.waitOn i none none)
      else (s.storePlace p (whole (lowBytes (s.h.readA d) n)) (psnAct false n) .plain false s.own.defer).complete)

/-! ### Elements of a vector access (R127, R128) -/

/-- One piece of an element: its address, its bytes, and which nibble of its byte for a 4-bit element. -/
structure Piece where
  g   : Word
  n   : Nat
  nib : Option Bool
deriving DecidableEq, Repr, Inhabited

/-- What an access does at an element: nothing, poison from a poisoned index, its pieces, or a trap in
reading its index. -/
inductive Elt where
  | skip
  | psn
  | pieces (ps : List Piece)
  | bad (t : Trap)
deriving DecidableEq, Repr, Inhabited

/-- The piece of an element of width `w` at an offset counted in bytes, or in nibbles for width 4. -/
def elemPiece (base : Word) (w : Nat) (off : Int) : Piece :=
  if w = 4 then
    let nib : Int := 2 * (base.toNat : Int) + off
    ⟨BitVec.ofInt 64 (nib / 2), 1, some (nib % 2 = 1)⟩
  else ⟨base + BitVec.ofInt 64 off, w / 8, none⟩

/-- Bytes of an element, in nibbles for width 4. -/
def elemUnit (w : Nat) : Nat := if w = 4 then 1 else w / 8

/-- Element `e` of VLD, VST and VLDFF. -/
def State.eltUnit (s : State) (b : Reg) (w : Nat) (e : Nat) : Elt :=
  .pieces [elemPiece (s.h.readA b) w (e * elemUnit w : Nat)]

/-- Element `e` of VLDS and VSTS. -/
def State.eltStride (s : State) (b r : Reg) (w : Nat) (e : Nat) : Elt :=
  .pieces [elemPiece (s.h.readA b) w ((e : Int) * (s.h.readA r).toInt)]

/-- The pieces of planes 0 to `last` of element `e` (R210). -/
def State.eltPlanes (s : State) (b r : Reg) (wp : Nat → Nat) (last e : Nat) : Elt :=
  .pieces ((List.range (last + 1)).map (fun (p : Nat) =>
    ⟨s.h.readA b + BitVec.ofInt 64 ((p : Int) * (s.h.readA r).toInt) + word (e * (wp p / 8)), wp p / 8, none⟩))

/-- Index `e` of an index list in memory: its value and poison (R128); at a device register of no stated contents a free
value, not poisoned (log 63). -/
def State.listIndex (s : State) (x : Reg) (e : Nat) : Except Trap (Nat × Bool) :=
  let g := s.h.readA x + word (4 * e)
  match checkElem s s.own.cur g 4 needR e with
  | .error t => .error t
  | .ok p => .ok (bytesNat ((s.readPlace p 4).1.take 4), (s.readPlace p 4).2)

/-- The places of an index list from element `e`, as far as its checks pass (R128). -/
def State.listPlaces (s : State) (x : Reg) (es : List Nat) : List (Place × Nat) :=
  if isQ x then []
  else es.filterMap (fun e => match checkElem s s.own.cur (s.h.readA x + word (4 * e)) 4 needR e with
    | .ok p => some (p, 4)
    | .error _ => none)

/-- Element `e` of an indexed access; `ents` are the index entries taken from a queue. -/
def State.eltIndex (s : State) (b x : Reg) (ents : List Entry) (w : Nat) (store : Bool) (e : Nat) : Elt :=
  if isQ x then
    let en := ents.getD (e / 256) Entry.zero
    if !en.pred.getLsbD (e % 256) then .skip
    else if en.psn.getLsbD (e % 256) then (if store then .skip else .psn)
    else .pieces [elemPiece (s.h.readA b) w (vGet [en.data] 32 (e % 256) * elemUnit w : Nat)]
  else
    match s.listIndex x e with
    | .error t => .bad t
    | .ok (v, true) => if store then .skip else (let _ := v; .psn)
    | .ok (v, false) => .pieces [elemPiece (s.h.readA b) w (v * elemUnit w : Nat)]

/-- Check the pieces of an element in order (R110, R213). -/
def State.checkPieces (s : State) (need : Need) (e : Nat) : List Piece → Except Trap (List (Place × Piece))
  | [] => .ok []
  | pc :: t =>
    match checkElem s s.own.cur pc.g pc.n need e with
    | .error tr => .error tr
    | .ok p => match s.checkPieces need e t with
      | .error tr => .error tr
      | .ok r => .ok ((p, pc) :: r)

/-- Check an element. -/
def State.checkElt (s : State) (need : Need) (e : Nat) (x : Elt) : Except Trap (List (Place × Piece)) :=
  match x with
  | .pieces ps => s.checkPieces need e ps
  | .bad t => .error t
  | _ => .ok []

/-- The first element from `lo`, among `n`, whose checks fail. -/
def State.firstBad (s : State) (need : Need) (elt : Nat → Elt) (lo n : Nat) : Option (Nat × Trap) :=
  (List.range' lo n).findSome? (fun e =>
    match s.checkElt need e (elt e) with
    | .error t => some (e, t)
    | .ok _ => none)

/-! ### Vector loads -/

/-- The value of a piece from its bytes. -/
def Piece.val (p : Piece) (bs : List Byte) : Nat :=
  match p.nib with
  | some true => bytesNat bs / 16
  | some false => bytesNat bs % 16
  | none => bytesNat bs

/-- Read the pieces of an element: their values, and whether some are poisoned. -/
def State.readPieces (s : State) : List (Place × Piece) → List Nat × Bool
  | [] => ([], false)
  | (p, pc) :: t =>
    let r := s.readPlace p pc.n
    let q := s.readPieces t
    (pc.val r.1 :: q.1, r.2 || q.2)

/-- What an element delivers, with its poison bit (R126, R128); its checks have passed. -/
def State.eltVal (s : State) (build : List Nat → Nat) (e : Nat) (x : Elt) : Nat × Bool :=
  match x with
  | .pieces ps =>
    match s.checkPieces needR e ps with
    | .ok places => let r := s.readPieces places; (if r.2 then 0 else build r.1, r.2)
    | .error _ => (0, false)
  | .psn => (0, true)
  | _ => (0, false)

/-- Put values of width `w` into an entry from position `pos`. -/
def Entry.fill (w : Nat) : Nat → List (Nat × Bool) → Entry → Entry
  | _, [], en => en
  | pos, v :: t, en => Entry.fill w (pos + 1) t { en with data := putBits en.data w (w * pos) v.1, psn := setBit en.psn pos v.2 }

/-- Push an entry to a load queue, releasing any reserved one. -/
def Hart.pushLoad (h : Hart) (q : Fin 4) (e : Entry) : Hart :=
  { h with q := { h.q with vload := h.q.vload.set q { h.q.vload[q] with items := (h.q.vload[q]).items ++ [e], resv := none } } }

/-- Hold an entry of a trapped load reserved (R111, R112). -/
def Hart.reserveLoad (h : Hart) (q : Fin 4) (r : Resv) : Hart :=
  { h with q := { h.q with vload := h.q.vload.set q { h.q.vload[q] with resv := some r } } }

/-- Set the A side's VSTART. -/
def Hart.aVstart (h : Hart) (n : Nat) : Hart := { h with a := { h.a with vstart := n } }

/-- Entries of an access of `vl` elements of width `w` (R124). -/
def entries (vl w : Nat) : Nat := max 1 ((vl + perReg w - 1) / perReg w)

/-- The reserved entry that a resumed access continues: it is for the same instruction, and VSTART lies in it, or at its
end where the handler has completed its last element (R111, R112). -/
def Hart.resumed (h : Hart) (q : Fin 4) (w : Nat) : Option Resv :=
  (h.q.vload[q]).resv.filter (fun r => decide (r.pc = h.a.pc ∧ h.a.vstart ≠ 0 ∧
    (r.j = h.a.vstart / perReg w ∨ (r.j + 1) * perReg w = h.a.vstart)))

/-- The A side makes progress: a stall that it was in is over (R15). -/
def Hart.progress (h : Hart) : Hart := { h with a := { h.a with wait := none } }

/-- The A side ends its turn inside a vector access that waits for nothing, and that a forced stop may stop there or not
(R222, R361), or is inside none. -/
def Hart.inside (h : Hart) (b : Option Bool) : Hart := { h with mem := { h.mem with mid := b } }

/-! ### Single-copy atomic blocks (R152) -/

/-- The contiguous arrays that an access moves: of each plane, its first address and the bits of an element. -/
abbrev Runs := List (Word × Nat)

/-- The single-copy atomic size at an address (R151). -/
def atomSize (s : State) (k : HartKey) (g : Word) (need : Need) : Nat :=
  match winClass s k g with
  | 0 => match translate s (s.sliceOf k).ctx (gVa g) need with
    | some key => if keyIsHost key then 0x08 else 0x20
    | none => 0x20
  | 1 => 0x20
  | _ => 0x40

/-- The aligned block that a byte of a run of `vl` elements lies in, where all of the block is moved. -/
def blockOf (s : State) (k : HartKey) (need : Need) (run : Word × Nat) (vl : Nat) (g : Word) : Option Nat :=
  let n := atomSize s k g need
  let lo := g.toNat / n * n
  if run.1.toNat ≤ lo ∧ 8 * (lo + n) ≤ 8 * run.1.toNat + vl * run.2 then some lo else none

/-- Whether a boundary before element `c` would split a block of a run. -/
def splitsBlock (s : State) (k : HartKey) (need : Need) (vl c : Nat) (run : Word × Nat) : Bool :=
  let o := c * run.2
  let g := run.1 + word (o / 8)
  match blockOf s k need run vl g with
  | some lo => decide (8 * lo < 8 * g.toNat + o % 8)
  | none => false

/-- Where a turn ends its part of a load's reads, from `lo` on: at the boundary that the turn names, or at the last
one before it that splits no block. -/
def State.cutAt (s : State) (runs : Runs) (vl lo stop : Nat) : Nat :=
  match s.own.cut with
  | some c =>
    if c ≥ stop then stop
    else ((List.range' lo (c + 1 - lo)).reverse.find? (fun e => !runs.any (splitsBlock s s.own.cur needR vl e))).getD lo
  | none => stop

/-! ### The loop of a vector load -/

/-- What the access at this address has read already of its elements from `start`. -/
def Hart.readSoFar (h : Hart) (start : Nat) : List (Nat × Bool) :=
  match h.mem.got with
  | some g => if g.pc = h.a.pc ∧ g.base ≤ start then g.vals.drop (start - g.base) else []
  | none => []

/-- Push the entries of a vector load from entry `j`, `fuel` of them at most, from the values `vals` of its elements
from `base`: elements up to `stop` are performed, and at `stop` the trap `bad` is taken (R111, R124). An entry
whose elements are not all read ends the turn. `fin` is what completion does. -/
def State.loadEntries (s : State) (i : Instr) (q : Fin 4) (w vl stop : Nat) (bad : Option Trap) (base : Nat)
    (vals : List (Nat × Bool)) (fin : State → Out) : Nat → Nat → Option Resv → Out
  | 0, _, _ => fin s
  | fuel + 1, j, part =>
    let m := perReg w
    let lo := max s.h.a.vstart (j * m)
    let hi := min stop (min vl ((j + 1) * m))
    if j ≥ entries vl w then fin s
    else if part.isNone && s.h.occ q.val ≥ Config.vqDepth then (s.modH (fun h => h.aVstart lo)).stall i (q.val, true)
    else if base + vals.length < hi then .next (s.modH (fun h => h.progress.inside (h.mem.got.map Got.elem)))
    else
      let en := Entry.fill w (lo - j * m) ((vals.drop (lo - base)).take (hi - lo)) (part.elim Entry.zero Resv.entry)
      let pushed := s.modH (fun h => ((h.pushLoad q { en with visible := !s.own.defer }).aVstart ((j + 1) * m)).progress)
      match bad with
      | some t =>
        if stop < (j + 1) * m then (s.modH (fun h => (h.reserveLoad q ⟨h.a.pc, j, en⟩).aVstart stop)).trap t
        else pushed.loadEntries i q w vl stop bad base vals fin fuel (j + 1) none
      | none => pushed.loadEntries i q w vl stop bad base vals fin fuel (j + 1) none

/-- Every place of the elements listed. -/
def State.places (s : State) (need : Need) (elt : Nat → Elt) (es : List Nat) : List (Place × Nat) :=
  es.flatMap (fun e => match s.checkElt need e (elt e) with
    | .ok ps => ps.map (fun p => (p.1, p.2.n))
    | .error _ => [])

/-- How a vector load is performed: the arrays it moves, the places of its index list, whether all its reads are
performed together (DEDUP, R129; ACQ on VLDP, R219), and whether it may stop at an element (R222). -/
structure LoadForm where
  runs : Runs
  list : List Nat → List (Place × Nat)
  once : Bool
  elem : Bool

/-- A load of single elements. -/
def LoadForm.plain : LoadForm := ⟨[], fun _ => [], false, false⟩

/-- A vector load of `vl` elements of width `w` into load queue `q` (R111, R124, R126). -/
def State.vload (s : State) (i : Instr) (q : Fin 4) (w vl : Nat) (f : LoadForm) (elt : Nat → Elt) (build : List Nat → Nat)
    (fin : State → Out) : Out :=
  let start := if vl = 0 then 0 else s.h.a.vstart
  let bad := s.firstBad needR elt start (vl - start)
  let stop := match bad with | some b => b.1 | none => vl
  let es := List.range' start (stop - start)
  if s.mustWait (f.list es ++ s.places needR elt es) false then .next (s.waitOn i none none)
  else
    let old := s.h.readSoFar start
    let lo := start + old.length
    let hi := if f.once then stop else s.cutAt f.runs vl lo stop
    let vals := old ++ (List.range' lo (hi - lo)).map (fun e => s.eltVal build e (elt e))
    let part := if vl = 0 then none else s.h.resumed q w
    (s.modH (fun h => { h.aVstart start with mem := { h.mem with got := some ⟨h.a.pc, q, w, start, vals, f.elem⟩, mid := none } })).loadEntries
      i q w vl stop (bad.map (·.2)) start vals fin (entries vl w) (part.elim (start / perReg w) Resv.j) part

/-- A load that may stop at an element keeps what it has read of its next entry, which stays reserved (R222). -/
def Hart.keepPart (h : Hart) : Hart :=
  match h.mem.got with
  | some g =>
    let m := perReg g.w
    let lo := h.a.vstart
    let vals := (h.readSoFar lo).take ((lo / m + 1) * m - lo)
    if g.elem && !vals.isEmpty && decide ((h.q.vload[g.q]).items.length < Config.vqDepth) then
      (h.reserveLoad g.q ⟨h.a.pc, lo / m, Entry.fill g.w (lo % m) vals (((h.resumed g.q g.w).filter (fun r => decide (r.j = lo / m))).elim Entry.zero Resv.entry)⟩).aVstart (lo + vals.length)
    else h
  | none => h

/-- A vector access completes: VSTART 0, nothing of it held. -/
def State.finishAccess (s : State) : Out :=
  (s.modH (fun h => { h.aVstart 0 with mem := { h.mem.close with got := none, mid := none } })).complete

/-! ### Vector stores -/

/-- The bytes of a piece as a store writes them, each under its mask. -/
def Piece.bytes (p : Piece) (v : Nat) : List (Byte × Byte) :=
  match p.nib with
  | some true => [(BitVec.ofNat 8 (v * 16), 0xF0)]
  | some false => [(BitVec.ofNat 8 v, 0x0F)]
  | none => whole (natBytes v p.n)

/-- One element to store: its checked pieces, each with its value, and its poison bit. -/
structure StElt where
  e    : Nat
  ps   : List (Place × Piece × Nat)
  psn  : Bool
deriving DecidableEq, Repr, Inhabited

/-- Check an element and pair its pieces with their values; poison bound for a host page raises POISON at
the element (R125, R217). -/
def State.stElt (s : State) (need : Need) (w : Nat) (elt : Nat → Elt) (split : Nat → Bool → List Nat) (en : Entry) (e : Nat) :
    Except Trap StElt :=
  let pos := e % perReg w
  let psn := en.psn.getLsbD pos
  match s.checkElt need e (elt e) with
  | .error t => .error t
  | .ok ps =>
    match (if psn then ps.find? (fun p => keyIsHost p.1.key) else none) with
    | some p => .error ⟨cPoison, p.2.g, 1⟩
    | none => .ok ⟨e, (ps.zip (split (vGet [en.data] w pos) psn)).map (fun x => (x.1.1, x.1.2, x.2)), psn⟩

/-- Check the elements of an entry in order, up to the first that fails (R213). -/
def State.stElts (s : State) (need : Need) (w : Nat) (elt : Nat → Elt) (split : Nat → Bool → List Nat) (en : Entry) :
    List Nat → List StElt × Option (Nat × Trap)
  | [] => ([], none)
  | e :: t =>
    match s.stElt need w elt split en e with
    | .error tr => ([], some (e, tr))
    | .ok x => let r := s.stElts need w elt split en t; (x :: r.1, r.2)

/-- One write of a vector store: the place, the piece, its value, its poison, whether it is a release, and its
plane. -/
structure Write where
  place : Place
  piece : Piece
  val   : Nat
  psn   : Bool
  rel   : Bool
  plane : Nat
deriving DecidableEq, Repr, Inhabited

/-- The bytes and the poison of a write. -/
def Write.part (x : Write) : StPart := ⟨x.place.key, x.piece.bytes x.val, psnAct x.psn x.piece.n⟩

/-- A block of a plane that some write lies in, where writes to it are one action (R152, R218). -/
def State.writeBlockOf (s : State) (need : Need) (runs : Runs) (vl : Nat) (x : Write) : Option (Nat × Nat) :=
  match runs[x.plane]? with
  | some run => if x.place.cls = 6 then none else (blockOf s s.own.cur need run vl x.piece.g).map (fun lo => (x.plane, lo))
  | none => none

/-- Writes in order, with neighbours of one block together. -/
def groupWrites (blk : Write → Option (Nat × Nat)) : List Write → List (Option (Nat × Nat) × List Write)
  | [] => []
  | x :: t =>
    match groupWrites blk t with
    | (some b, ys) :: r => if blk x = some b then (some b, x :: ys) :: r else (blk x, [x]) :: (some b, ys) :: r
    | r => (blk x, [x]) :: r

/-- Admit the writes of one block, with those that an earlier entry of the same instruction left waiting for it, unless
a later store has met their bytes. The block keeps its place among the stores, since releases that stand behind it wait
for it (R219); a block of releases goes behind them all. `open_`: elements of later entries still lie in the block. -/
def State.storeBlock (s : State) (b : Nat × Nat) (ws : List Write) (defer open_ : Bool) : State :=
  let st : PendStore := ⟨0, ws.map Write.part, ws.findSome? (·.place.rd), .plain, ws.any (·.rel), ws.any (·.place.sc),
    if open_ then some b else none, []⟩
  match s.h.mem.pend.find? (fun o => o.more == some b) with
  | none => s.admitStore st defer
  | some o =>
    let before := s.h.mem.pend.takeWhile (fun x => x.id != o.id)
    let later := (s.h.mem.pend.dropWhile (fun x => x.id != o.id)).tail
    let whole_ := { st with id := o.id, parts := o.parts ++ st.parts, rd := o.rd.or st.rd, sc := o.sc || st.sc }
    if later.any (fun x => o.meets x) then
      (s.modMem (fun m => { m with pend := m.pend.map (fun x => if x.id = o.id then { x with more := none } else x) })).admitStore st defer
    else if st.rel then
      (s.modMem (fun m => { m with pend := before ++ later })).admitStore whole_ defer
    else if s.h.mem.keeps before whole_ defer then s.modMem (fun m => { m with pend := before ++ whole_ :: later })
    else (s.modMem (fun m => { m with pend := before ++ later })).performStore whole_

/-- Whether elements from `next` on still lie in a block of a run. -/
def blockGoesOn (s : State) (need : Need) (runs : Runs) (vl next : Nat) (b : Nat × Nat) : Bool :=
  match runs[b.1]? with
  | some run =>
    decide (next < vl ∧ 8 * run.1.toNat + next * run.2 < 8 * (b.2 + atomSize s s.own.cur (word b.2) need))
  | none => false

/-- Perform the writes of an entry in order; `next` is the first element of the next entry. -/
def State.storeAll (s : State) (kind : StoreKind) (need : Need) (runs : Runs) (vl next : Nat) (ws : List Write) : State :=
  (groupWrites (s.writeBlockOf need runs vl) ws).foldl (fun t g =>
    match g.1 with
    | some b => t.storeBlock b g.2 s.own.defer (blockGoesOn s need runs vl next b)
    | none => g.2.foldl (fun u x => u.storePlace x.place (x.piece.bytes x.val) (psnAct x.psn x.piece.n) kind x.rel s.own.defer) t) s

/-- The writes of one entry: by plane from the highest, and by element within a plane; plane 0 is the
release (R216, R219). -/
def writesOf (top : Nat) (rel : Bool) (xs : List StElt) : List Write :=
  (List.range (top + 1)).reverse.flatMap (fun p =>
    xs.filterMap (fun x => (x.ps[p]?).map (fun y => ⟨y.1, y.2.1, y.2.2, x.psn, rel && p == 0, p⟩)))

/-- Pop `n` entries of a store queue. -/
def Hart.popStores (h : Hart) (q : Fin 4) (n : Nat) : Hart :=
  { h with q := { h.q with vstore := h.q.vstore.set q ((h.q.vstore[q]).pop n) } }

/-- How a vector store is performed: its rights, the arrays it moves, its highest plane, release, kind, whether a forced
stop may stop it between entries (R222), and what completion does. -/
structure StoreForm where
  need : Need
  runs : Runs
  list : List Nat → List (Place × Nat)
  top  : Nat
  rel  : Bool
  kind : StoreKind
  elem : Bool
  fin  : State → Out

/-- A store of single elements. -/
def StoreForm.plain (rel : Bool) : StoreForm := ⟨needW, [], fun _ => [], 0, rel, .plain, false, State.finishAccess⟩

/-- Whether the turn stops the access before entry `j` (R222). -/
def State.cutsEntry (s : State) (m j0 j : Nat) : Bool :=
  decide (j0 < j) && (match s.own.cut with | some c => decide (c ≤ j * m) | none => false)

/-- Pop and write the entries of a vector store from entry `j`; `j0` is the turn's first (R111, R124, R125, R216).
An element whose predicate bit is 0 takes no part: neither its address nor its index in memory is checked
(log 73). -/
def State.storeEntries (s : State) (i : Instr) (q : Fin 4) (w vl : Nat) (f : StoreForm) (elt : Nat → Elt)
    (split : Nat → Bool → List Nat) (j0 : Nat) : Nat → Nat → Out
  | 0, _ => f.fin s
  | fuel + 1, j =>
    let m := perReg w
    let lo := max s.h.a.vstart (j * m)
    if j ≥ entries vl w then f.fin s
    else if s.cutsEntry m j0 j then .next (s.modH (fun h => h.inside (some f.elem)))
    else
      match (s.h.q.vstore[q]).items.head? with
      | none => (s.modH (fun h => h.aVstart lo)).stall i (0x10 + q.val, false)
      | some en =>
        let on := (List.range' lo (min vl ((j + 1) * m) - lo)).filter (fun e => en.pred.getLsbD (e % m))
        let r := s.stElts f.need w elt split en (on.filter (fun e => elt e != .skip))
        if s.mustWait (f.list on ++ r.1.flatMap (fun x => x.ps.map (fun p => (p.1, p.2.1.n)))) false then
          .next ((s.modH (fun h => h.aVstart lo)).waitOn i none none)
        else
          let s1 := s.storeAll f.kind f.need f.runs vl ((j + 1) * m) (writesOf f.top f.rel r.1)
          match r.2 with
          | some (e, t) => (s1.modH (fun h => h.aVstart e)).trap t
          | none =>
            (s1.modH (fun h => ((h.popStores q 1).aVstart ((j + 1) * m)).progress)).storeEntries i q w vl f elt split j0 fuel (j + 1)

/-- A vector store of `vl` elements of width `w` from store queue `q` (R111, R124, R125). -/
def State.vstore (s : State) (i : Instr) (q : Fin 4) (w vl : Nat) (f : StoreForm) (elt : Nat → Elt)
    (split : Nat → Bool → List Nat) : Out :=
  let start := if vl = 0 then 0 else s.h.a.vstart
  (s.modH (fun h => (h.aVstart start).inside none)).storeEntries i q w vl f elt split (start / perReg w) (entries vl w) (start / perReg w)

/-! ### Index sources (R128) -/

/-- Index entries of an access (R128). -/
def indexEntries (vl : Nat) : Nat := max 1 ((vl + 255) / 256)

/-- Pop index entries of the access at this address, as far as they have come, until `n` are held; a pop ends the stall
before it (R15, R128). -/
def Hart.takeIndex (h : Hart) (q : Fin 4) (n : Nat) : Hart :=
  let v := h.q.vstore[q]
  let es := v.heldAt h.a.pc
  let m := min (n - es.length) v.items.length
  if m = 0 then h
  else ({ h with q := { h.q with vstore := h.q.vstore.set q { v.pop m with held := some (h.a.pc, es ++ v.items.take m) } } }).progress

/-- Run an access with its index entries: from memory none; from a store queue those that it pops before any data entry,
and holds until it completes (R128, log 74). -/
def State.withIndex (s : State) (i : Instr) (x : Reg) (k : State → List Entry → Out) : Out :=
  if !isQ x then k s []
  else
    let n := indexEntries s.h.a.vl
    let s1 := s.modH (fun h => h.takeIndex (qNo x) n)
    let es := (s1.h.q.vstore[qNo x]).heldAt s1.h.a.pc
    if es.length < n then s1.stall i (0x10 + (qNo x).val, false) else k s1 es

/-- The index entries that a queue holds for an access are used up. -/
def Hart.dropIndex (h : Hart) (q : Fin 4) : Hart :=
  { h with q := { h.q with vstore := h.q.vstore.set q { h.q.vstore[q] with held := none } } }

/-- An indexed access completes. -/
def State.finishIndexed (s : State) (x : Reg) : Out :=
  (if isQ x then s.modH (fun h => h.dropIndex (qNo x)) else s).finishAccess

end Sys2Proof.Machine
end

