-- ==== Sys2Proof/Machine/Scalar.lean ====
section
/-! DEFINITION. Scalar integer, immediate and floating-point instructions of both sides
(03_scalar R81 to R83, R93 to R97) and CSR access (R103 to R109). -/

namespace Sys2Proof.Machine

/-! ### Shapes -/

/-- d := f(a, b). -/
def State.alu2 (s : State) (i : Instr) (d a b : Reg) (f : Word → Word → Word) : Out :=
  s.gate i (fun s => s.withQueues i [.s a, .s b] (some d) none (fun s =>
    ((s.popAll [.s a, .s b]).writeR d (f (s.fld [.s a, .s b] 0) (s.fld [.s a, .s b] 1))).complete))

/-- d := f(a). -/
def State.alu1 (s : State) (i : Instr) (d a : Reg) (f : Word → Word) : Out :=
  s.gate i (fun s => s.withQueues i [.s a] (some d) none (fun s =>
    ((s.popAll [.s a]).writeR d (f (s.fld [.s a] 0))).complete))

/-- d := a constant. -/
def State.alu0 (s : State) (i : Instr) (d : Reg) (v : Word) : Out :=
  s.gate i (fun s => s.withQueues i [] (some d) none (fun s => (s.writeR d v).complete))

/-! ### Integer operations (R81, R82) -/

/-- 1 or 0 as a word. -/
def bit (b : Bool) : Word := if b then 1 else 0

/-- High 64 bits of the signed product. -/
def mulhS (x y : Word) : Word := BitVec.ofInt 64 (x.toInt * y.toInt / 2 ^ 64)

/-- High 64 bits of the natural product. -/
def mulhU (x y : Word) : Word := word (x.toNat * y.toNat / 2 ^ 64)

/-- Signed quotient truncated toward zero; all ones for a zero divisor. -/
def divS (x y : Word) : Word := if y = 0 then BitVec.allOnes 64 else BitVec.ofInt 64 (x.toInt.tdiv y.toInt)

/-- Natural quotient; all ones for a zero divisor. -/
def divU (x y : Word) : Word := if y = 0 then BitVec.allOnes 64 else word (x.toNat / y.toNat)

/-- Remainder with the sign of the dividend; the dividend for a zero divisor. -/
def remS (x y : Word) : Word := if y = 0 then x else BitVec.ofInt 64 (x.toInt.tmod y.toInt)

/-- Natural remainder; the dividend for a zero divisor. -/
def remU (x y : Word) : Word := if y = 0 then x else word (x.toNat % y.toNat)

/-- Leading zero bits, 64 for 0. -/
def clz (x : Word) : Word := word (if x = 0 then 64 else 63 - Nat.log2 x.toNat)

/-- Trailing zero bits, 64 for 0. -/
def ctz (x : Word) : Word := word (((List.range 64).find? (fun i => x.getLsbD i)).getD 64)

/-- One bits. -/
def popc (x : Word) : Word := word ((List.range 64).countP (fun i => x.getLsbD i))

/-- The word with bit i moved to bit 63 − i. -/
def brev (x : Word) : Word := (List.range 64).foldl (fun acc i => (acc <<< 1) ||| bit (x.getLsbD i)) 0

/-- ADD (R81). -/
def execAdd (d a b : Reg) (s : State) : Out := s.alu2 (.add d a b) d a b (fun x y => x + y)

/-- SUB (R81). -/
def execSub (d a b : Reg) (s : State) : Out := s.alu2 (.sub d a b) d a b (fun x y => x - y)

/-- AND (R81). -/
def execAnd (d a b : Reg) (s : State) : Out := s.alu2 (.and d a b) d a b (fun x y => x &&& y)

/-- OR (R81). -/
def execOr (d a b : Reg) (s : State) : Out := s.alu2 (.or d a b) d a b (fun x y => x ||| y)

/-- XOR (R81). -/
def execXor (d a b : Reg) (s : State) : Out := s.alu2 (.xor d a b) d a b (fun x y => x ^^^ y)

/-- SLL (R81). -/
def execSll (d a b : Reg) (s : State) : Out := s.alu2 (.sll d a b) d a b (fun x y => x <<< (y.toNat % 64))

/-- SRL (R81). -/
def execSrl (d a b : Reg) (s : State) : Out := s.alu2 (.srl d a b) d a b (fun x y => x >>> (y.toNat % 64))

/-- SRA (R81). -/
def execSra (d a b : Reg) (s : State) : Out := s.alu2 (.sra d a b) d a b (fun x y => x.sshiftRight (y.toNat % 64))

/-- SLT (R81). -/
def execSlt (d a b : Reg) (s : State) : Out := s.alu2 (.slt d a b) d a b (fun x y => bit (x.slt y))

/-- SLTN (R81). -/
def execSltn (d a b : Reg) (s : State) : Out := s.alu2 (.sltn d a b) d a b (fun x y => bit (x.ult y))

/-- MIN (R81). -/
def execMin (d a b : Reg) (s : State) : Out := s.alu2 (.min d a b) d a b (fun x y => if x.slt y then x else y)

/-- MAX (R81). -/
def execMax (d a b : Reg) (s : State) : Out := s.alu2 (.max d a b) d a b (fun x y => if x.slt y then y else x)

/-- MINN (R81). -/
def execMinn (d a b : Reg) (s : State) : Out := s.alu2 (.minn d a b) d a b (fun x y => if x.ult y then x else y)

/-- MAXN (R81). -/
def execMaxn (d a b : Reg) (s : State) : Out := s.alu2 (.maxn d a b) d a b (fun x y => if x.ult y then y else x)

/-- MUL (R81). -/
def execMul (d a b : Reg) (s : State) : Out := s.alu2 (.mul d a b) d a b (fun x y => x * y)

/-- MULH (R81). -/
def execMulh (d a b : Reg) (s : State) : Out := s.alu2 (.mulh d a b) d a b (fun x y => mulhS x y)

/-- MULHN (R81). -/
def execMulhn (d a b : Reg) (s : State) : Out := s.alu2 (.mulhn d a b) d a b (fun x y => mulhU x y)

/-- DIV (R82). -/
def execDiv (d a b : Reg) (s : State) : Out := s.alu2 (.div d a b) d a b (fun x y => divS x y)

/-- DIVN (R82). -/
def execDivn (d a b : Reg) (s : State) : Out := s.alu2 (.divn d a b) d a b (fun x y => divU x y)

/-- REM (R82). -/
def execRem (d a b : Reg) (s : State) : Out := s.alu2 (.rem d a b) d a b (fun x y => remS x y)

/-- REMN (R82). -/
def execRemn (d a b : Reg) (s : State) : Out := s.alu2 (.remn d a b) d a b (fun x y => remU x y)

/-- CLZ (R81). -/
def execClz (d a : Reg) (s : State) : Out := s.alu1 (.clz d a) d a clz

/-- CTZ (R81). -/
def execCtz (d a : Reg) (s : State) : Out := s.alu1 (.ctz d a) d a ctz

/-- POPC (R81). -/
def execPopc (d a : Reg) (s : State) : Out := s.alu1 (.popc d a) d a popc

/-- BREV (R81). -/
def execBrev (d a : Reg) (s : State) : Out := s.alu1 (.brev d a) d a brev

/-! ### Immediates (R83) -/

/-- ADDI (R83). -/
def execAddi (d a : Reg) (imm : BitVec 15) (s : State) : Out := s.alu1 (.addi d a imm) d a (fun x => x + imm.signExtend 64)

/-- ANDI (R83). -/
def execAndi (d a : Reg) (imm : BitVec 15) (s : State) : Out := s.alu1 (.andi d a imm) d a (fun x => x &&& imm.signExtend 64)

/-- ORI (R83). -/
def execOri (d a : Reg) (imm : BitVec 15) (s : State) : Out := s.alu1 (.ori d a imm) d a (fun x => x ||| imm.signExtend 64)

/-- XORI (R83). -/
def execXori (d a : Reg) (imm : BitVec 15) (s : State) : Out := s.alu1 (.xori d a imm) d a (fun x => x ^^^ imm.signExtend 64)

/-- SLTI (R83). -/
def execSlti (d a : Reg) (imm : BitVec 15) (s : State) : Out := s.alu1 (.slti d a imm) d a (fun x => bit (x.slt (imm.signExtend 64)))

/-- SLLI (R83). -/
def execSlli (d a : Reg) (sh : BitVec 6) (s : State) : Out := s.alu1 (.slli d a sh) d a (fun x => x <<< sh.toNat)

/-- SRLI (R83). -/
def execSrli (d a : Reg) (sh : BitVec 6) (s : State) : Out := s.alu1 (.srli d a sh) d a (fun x => x >>> sh.toNat)

/-- SRAI (R83). -/
def execSrai (d a : Reg) (sh : BitVec 6) (s : State) : Out := s.alu1 (.srai d a sh) d a (fun x => x.sshiftRight sh.toNat)

/-- LIH (R83): sext(IMM20) × 2^15. -/
def execLih (d : Reg) (imm : BitVec 20) (s : State) : Out := s.alu0 (.lih d imm) d (imm.signExtend 64 <<< 15)

/-! ### Scalar floating point (R93 to R97) -/

/-- d := a format's result of f(a, b), with its flags. -/
def State.fp2 (s : State) (i : Instr) (d a b : Reg) (t : FTy) (f : Nat → Nat → FRes) : Out :=
  s.gate i (fun s => s.withQueues i [.s a, .s b] (some d) none (fun s =>
    let r := f (fpLow t (s.fld [.s a, .s b] 0)) (fpLow t (s.fld [.s a, .s b] 1))
    (((s.popAll [.s a, .s b]).writeR d (word r.1)).orFlags r.2).complete))

/-- d := a format's result of f(a), with its flags. -/
def State.fp1 (s : State) (i : Instr) (d a : Reg) (f : Word → FRes) : Out :=
  s.gate i (fun s => s.withQueues i [.s a] (some d) none (fun s =>
    let r := f (s.fld [.s a] 0)
    (((s.popAll [.s a]).writeR d (word r.1)).orFlags r.2).complete))

/-- FADD (R94). -/
def execFadd (t : FTy) (rm : RM) (d a b : Reg) (s : State) : Out :=
  s.fp2 (.fadd t rm d a b) d a b t ((ftyFmt t).add (s.scalarRm rm))

/-- FSUB (R94). -/
def execFsub (t : FTy) (rm : RM) (d a b : Reg) (s : State) : Out :=
  s.fp2 (.fsub t rm d a b) d a b t ((ftyFmt t).sub (s.scalarRm rm))

/-- FMUL (R94). -/
def execFmul (t : FTy) (rm : RM) (d a b : Reg) (s : State) : Out :=
  s.fp2 (.fmul t rm d a b) d a b t ((ftyFmt t).mul (s.scalarRm rm))

/-- FDIV (R94). -/
def execFdiv (t : FTy) (rm : RM) (d a b : Reg) (s : State) : Out :=
  s.fp2 (.fdiv t rm d a b) d a b t ((ftyFmt t).div (s.scalarRm rm))

/-- FSQRT (R94). -/
def execFsqrt (t : FTy) (rm : RM) (d a : Reg) (s : State) : Out :=
  s.fp1 (.fsqrt t rm d a) d a (fun x => (ftyFmt t).sqrt (s.scalarRm rm) (fpLow t x))

/-- FFMA (R94): d + a × b, with d read before it is written. A d that names a queue head pops, then
pushes (R42). -/
def execFfma (t : FTy) (rm : RM) (d a b : Reg) (s : State) : Out :=
  s.gate (.ffma t rm d a b) (fun s =>
    let fs : List Fld := [.s a, .s b, .s d]
    s.withQueues (.ffma t rm d a b) fs (some d) none (fun s =>
      let f := ftyFmt t
      let r := f.fmaV (s.scalarRm rm) false (f.dec (fpLow t (s.fld fs 0))) (f.dec (fpLow t (s.fld fs 1)))
        (f.dec (fpLow t (s.fld fs 2)))
      (((s.popAll fs).writeR d (word r.1)).orFlags r.2).complete))

/-- FMIN (R94, R95). -/
def execFmin (t : FTy) (d a b : Reg) (s : State) : Out := s.fp2 (.fmin t d a b) d a b t ((ftyFmt t).minmax false)

/-- FMAX (R94, R95). -/
def execFmax (t : FTy) (d a b : Reg) (s : State) : Out := s.fp2 (.fmax t d a b) d a b t ((ftyFmt t).minmax true)

/-- FCMP's conditions among those of VFCMP (R96, R187). -/
def fcondOf (c : FCond) : VFCond :=
  match c with
  | .eq => .eq
  | .ne => .ne
  | .lt => .lt
  | .le => .le
  | .un => .un

/-- FCMP (R94, R96). -/
def execFcmp (t : FTy) (c : FCond) (d a b : Reg) (s : State) : Out :=
  s.fp2 (.fcmp t c d a b) d a b t (fun x y =>
    let r := (ftyFmt t).cmp (fcondOf c) x y
    (if r.1 then 1 else 0, r.2))

/-- Width and signedness of an integer kind (R55). -/
def ikind (k : IKind) : Nat × Bool :=
  match k with
  | .i64 => (64, true)
  | .n64 => (64, false)
  | .i32 => (32, true)
  | .n32 => (32, false)

/-- An integer result as FCVT writes it: sign-extended from .i32, zero-extended from .n32 (R97). -/
def intResult (k : IKind) (v : Nat) : Nat :=
  match k with
  | .i32 => ((BitVec.ofNat 32 v).signExtend 64).toNat
  | _ => v

/-- The conversions of FCVT (R55, R97). -/
def fcvtOp (t : FTy) (k : FCvt) (rm : RM) (x : Word) : FRes :=
  match k with
  | .fromF u => (ftyFmt u).cvt (ftyFmt t) rm (fpLow u x)
  | .fromI j => (ftyFmt t).ofInt rm (ikind j).2 (ikind j).1 (x.toNat % 2 ^ (ikind j).1)
  | .toI j =>
    let r := (ftyFmt t).toInt rm (ikind j).2 (ikind j).1 (fpLow t x)
    (intResult j r.1, r.2)

/-- FCVT (R97). -/
def execFcvt (t : FTy) (k : FCvt) (rm : RM) (d a : Reg) (s : State) : Out :=
  s.fp1 (.fcvt t k rm d a) d a (fcvtOp t k (s.scalarRm rm))

/-! ### CSRs (R103 to R109) -/

/-- PSNSTAT (R206). -/
def psnstat (p : PReg) : Word :=
  word ((List.range 2048).countP (fun e => p.getLsbD e) +
    2 ^ 16 * ((List.range 2048).find? (fun e => p.getLsbD e)).getD 0xFFF)

/-- WEARST (R384). -/
def wearst (c : Core) : Word :=
  word ((match c.st with | .nominal => 0 | .derated => 1 | .drained => 2 | .retired => 3) +
    (if c.lanes4 then 4 else 0) + 2 ^ 8 * min 100 (c.wear / 2200000000000) +
    2 ^ 16 * (if c.capped then 2400 else 2900))

/-- DBGCTL as it reads (R371). -/
def dbgctl (t : Traps) : Word :=
  word ((if t.stepa then 8 else 0) + (if t.stepx then 16 else 0) + (if t.brkdbg then 32 else 0) +
    (if t.stepdbg then 64 else 0) + (if t.cvhalt then 128 else 0) + (if t.halted then 256 else 0))

/-- CARV (R108). -/
def State.carv (s : State) (k : HartKey) : Word := word ((s.caravan k).size + 16 * k.idx + 256 * k.slot)

/-- The value a CSR reads for a hart's side (R106). -/
def State.csrRead (s : State) (k : HartKey) (sd : Side) (c : Csr) : Word :=
  let h := s.hart k
  let core := s.coreNo (s.coreOf k)
  match c with
  | .fflags => h.csr.fflags.zeroExtend 64
  | .frm => h.csr.frm.zeroExtend 64
  | .vstart => word (h.seq sd).vstart
  | .vl => word (h.seq sd).vl
  | .vt => h.csr.vt.zeroExtend 64
  | .vlmax => match vtOf h.csr.vt with
    | some t => word ((s.caravan k).cores.foldl (fun m n => min m ((s.coreNo n).vlmax t.w t.lmul)) 2048)
    | none => 0
  | .lanes => word core.lanes
  | .psnstat => psnstat h.regs.psm
  | .stripsz => h.csr.stripsz
  | .xlink => h.csr.xlink
  | .atomsz => 0x82040
  | .almt => word s.now
  | .budget => match (s.caravan k).budget with | some b => word b | none => BitVec.allOnes 64
  | .preq => bit h.csr.preq
  | .qwait => h.csr.qwait.zeroExtend 64
  | .carv => s.carv k
  | .sticky => h.csr.sticky.zeroExtend 64
  | .optlr => h.csr.optlr
  | .optb1 => h.csr.optb1
  | .optb2 => h.csr.optb2
  | .opteps => h.csr.opteps
  | .optwd => h.csr.optwd
  | .optbc => h.csr.optbc
  | .wuchg => word (s.ctxNo (s.sliceOf k).ctx).shown
  | .feat => s.dev.feat.zeroExtend 64
  | .status => word ((if h.tr.smode then 1 else 0) + (if h.tr.xpause then 4 else 0) + (if h.tr.nest then 8 else 0))
  | .cause => word ((if h.tr.causeX then 2 ^ 31 else 0) + h.tr.code.toNat)
  | .epc => h.tr.epc
  | .tval => h.tr.tval
  | .tvec => h.tr.tvec
  | .scratch => h.tr.scratch
  | .tval2 => h.tr.tval2
  | .xepc => h.tr.xepc
  | .pregrace => h.tr.pregrace.zeroExtend 64
  | .shctl => word ((if h.tr.shEn then 1 else 0) + (if h.tr.shRetire then 2 else 0))
  | .lanemap => core.lanemap.zeroExtend 64
  | .wearst => wearst core
  | .wurec => word core.wear
  | .dbgctl => dbgctl h.tr

/-- A word address: bits [1:0] read zero. -/
def align4 (v : Word) : Word := v &&& ~~~3#64

/-- The CSR fields of a hart that a write changes; RO fields and whole RO CSRs ignore it (R7, R103). -/
def Hart.csrWrite (h : Hart) (sd : Side) (c : Csr) (v : Word) : Hart :=
  match c with
  | .fflags => { h with csr := { h.csr with fflags := v.setWidth 5 } }
  | .frm => if (rmOfCsr (v.setWidth 3)).isSome then { h with csr := { h.csr with frm := v.setWidth 3 } } else h
  | .vstart => h.setSeq sd { h.seq sd with vstart := v.toNat % 2048 }
  | .vt => { h with csr := { h.csr with vt := v.setWidth 12 } }
  | .stripsz => { h with csr := { h.csr with stripsz := v } }
  | .xlink => { h with csr := { h.csr with xlink := v } }
  | .qwait => { h with csr := { h.csr with qwait := v.setWidth 32 } }
  | .sticky => { h with csr := { h.csr with sticky := h.csr.sticky &&& ~~~(v.setWidth 4) } }
  | .optlr => { h with csr := { h.csr with optlr := v } }
  | .optb1 => { h with csr := { h.csr with optb1 := v } }
  | .optb2 => { h with csr := { h.csr with optb2 := v } }
  | .opteps => { h with csr := { h.csr with opteps := v } }
  | .optwd => { h with csr := { h.csr with optwd := v } }
  | .optbc => { h with csr := { h.csr with optbc := v } }
  | .cause => { h with tr := { h.tr with causeX := v.getLsbD 31, code := v.setWidth 8 } }
  | .epc => { h with tr := { h.tr with epc := align4 v } }
  | .tval => { h with tr := { h.tr with tval := v } }
  | .tvec => { h with tr := { h.tr with tvec := align4 v } }
  | .scratch => { h with tr := { h.tr with scratch := v } }
  | .tval2 => { h with tr := { h.tr with tval2 := v } }
  | .xepc => { h with tr := { h.tr with xepc := align4 v } }
  | .pregrace => { h with tr := { h.tr with pregrace := v.setWidth 32 } }
  | .shctl => { h with tr := { h.tr with shEn := v.getLsbD 0, shRetire := v.getLsbD 1 } }
  | .dbgctl => { h with tr := { h.tr with stepa := v.getLsbD 3, stepx := v.getLsbD 4, brkdbg := v.getLsbD 5,
                                          stepdbg := v.getLsbD 6, cvhalt := v.getLsbD 7 } }
  | _ => h

/-- Resume a halted hart: both sides continue from their PCs, and a wait begins anew (R361, R373). -/
def State.resumeHart (s : State) (k : HartKey) : State :=
  s.modHart k (fun h => if h.tr.halted then { h with tr := { h.tr with halted := false, haltreq := false }, spare := [] } else h)

/-- Write a CSR of a hart; DBGCTL's HALTREQ and RESUME act once (R371). -/
def State.csrWrite (s : State) (k : HartKey) (sd : Side) (c : Csr) (v : Word) : State :=
  let s1 := s.modHart k (fun h => h.csrWrite sd c v)
  match c with
  | .dbgctl =>
    let s2 := if v.getLsbD 0 && !(s1.hart k).tr.halted then s1.requestHalt k else s1
    if v.getLsbD 1 then s2.resumeHart k else s2
  | _ => s1

/-- The side whose copy of a CSR the running side reaches: its own, or in S mode the copy of the side that raised the
trap (R105, log 23). -/
def State.csrSide (s : State) : Side :=
  match s.own.side with
  | .X => .X
  | .A => if s.h.tr.smode && s.h.tr.causeX then .X else .A

/-- d := csr, with the value read put through the write `f` when there is one. -/
def State.csrOp (s : State) (i : Instr) (d a : Reg) (c : Csr) (f : Option (Word → Word → Word)) : Out :=
  s.gate i (fun s =>
    let fs : List Fld := if f.isSome then [.s a] else []
    s.withQueues i fs (some d) none (fun s =>
      let old := s.csrRead s.own.cur s.csrSide c
      let s1 := s.popAll fs
      let s2 := match f with
        | some g => s1.csrWrite s.own.cur s.csrSide c (g old (s.fld fs 0))
        | none => s1
      (s2.writeR d old).complete))

/-- CSRR (R103). -/
def execCsrr (d : Reg) (c : Csr) (s : State) : Out := s.csrOp (.csrr d c) d 0 c none

/-- CSRW (R103). -/
def execCsrw (d a : Reg) (c : Csr) (s : State) : Out := s.csrOp (.csrw d a c) d a c (some (fun _ v => v))

/-- CSRS (R103); an A field of 0 performs no write. -/
def execCsrs (d a : Reg) (c : Csr) (s : State) : Out :=
  s.csrOp (.csrs d a c) d a c (if a = 0 then none else some (fun old v => old ||| v))

/-- CSRC (R103); an A field of 0 performs no write. -/
def execCsrc (d a : Reg) (c : Csr) (s : State) : Out :=
  s.csrOp (.csrc d a c) d a c (if a = 0 then none else some (fun old v => old &&& ~~~v))

end Sys2Proof.Machine
end

