-- ==== Sys2Proof/Machine/Atomic.lean ====
section
/-! DEFINITION. Atomic memory operations (05_order R154 to R158), and the performing of a deferred scalar
load or AMO (04_access R147). -/

namespace Sys2Proof.Machine

/-- A value of `n` bits read as signed. -/
def sInt (n v : Nat) : Int := (BitVec.ofNat n v).toInt

/-- AMOFADD's sum (R155): a NaN is the canonical one, unless the operand carries the poison payload. -/
def amoFadd (w o v : Nat) : Nat :=
  let f := if w = 4 then fmt32 else fmt64
  let r := (f.add .rne o v).1
  if (f.dec v).isPsn then f.poison else if (f.dec r).isNan then f.nan else r

/-- What one AMO computes: its d and b, its width in bytes, and its new value from the old one, the
operand and d; none where no write is made. -/
structure Amo where
  d : Reg
  b : Reg
  w : Nat
  f : Nat → Nat → Nat → Option Nat

/-- Width in bytes (R154). -/
def amoW (w64 : Bool) : Nat := if w64 then 8 else 4

end Sys2Proof.Machine

namespace Sys2Proof
open Machine

/-- The operation of an AMO word (R155). -/
def Instr.amo? (i : Instr) : Option Amo :=
  match i with
  | .amoadd d _ b _ _ _ q => some ⟨d, b, amoW q, fun o v _ => let w := amoW q; some ((o + v) % 2 ^ (8 * w))⟩
  | .amoand d _ b _ _ _ q => some ⟨d, b, amoW q, fun o v _ => some (o &&& v)⟩
  | .amoor d _ b _ _ _ q => some ⟨d, b, amoW q, fun o v _ => some (o ||| v)⟩
  | .amoxor d _ b _ _ _ q => some ⟨d, b, amoW q, fun o v _ => some (o ^^^ v)⟩
  | .amomin d _ b _ _ _ q => some ⟨d, b, amoW q, fun o v _ => let w := amoW q; some (if sInt (8 * w) o ≤ sInt (8 * w) v then o else v)⟩
  | .amomax d _ b _ _ _ q => some ⟨d, b, amoW q, fun o v _ => let w := amoW q; some (if sInt (8 * w) o ≥ sInt (8 * w) v then o else v)⟩
  | .amominn d _ b _ _ _ q => some ⟨d, b, amoW q, fun o v _ => some (Nat.min o v)⟩
  | .amomaxn d _ b _ _ _ q => some ⟨d, b, amoW q, fun o v _ => some (Nat.max o v)⟩
  | .amoswap d _ b _ _ _ q => some ⟨d, b, amoW q, fun _ v _ => some v⟩
  | .amocas d _ b _ _ _ q => some ⟨d, b, amoW q, fun o v c => if o = c then some v else none⟩
  | .amofadd d _ b _ _ _ q => some ⟨d, b, amoW q, fun o v _ => let w := amoW q; some (amoFadd w o v)⟩
  | _ => none

/-- Bytes and signedness of a scalar load, with its d (R113). -/
def Instr.load? (i : Instr) : Option (Reg × Bool) :=
  match i with
  | .ldb d _ _ | .ldh d _ _ | .ldw d _ _ => some (d, true)
  | .ldbn d _ _ | .ldhn d _ _ | .ldwn d _ _ | .ldd d _ _ => some (d, false)
  | _ => none

end Sys2Proof

namespace Sys2Proof.Machine

/-- What d receives (R155). -/
def amoResult (w old : Nat) : Word := if w = 4 then (BitVec.ofNat 32 old).signExtend 64 else word old

/-- Perform an AMO on the bytes at a key, in one action (R155). `src` holds its operands as it was admitted; `fin` is
what follows. -/
def State.performAmo (s : State) (m : Amo) (g : Word) (key : Nat) (src : Hart) (fin : State → Out) : Out :=
  if keyHoldsPoison key && poisoned s.poison key m.w then s.raise cPoison g 0
  else
    let old := bytesNat (memBytes s.mem key m.w)
    let lim := 2 ^ (8 * m.w)
    let s1 := match m.f old ((src.readA m.b).toNat % lim) ((src.readA m.d).toNat % lim) with
      | some v => s.put key (whole (natBytes v m.w)) .clear
      | none => s
    fin (s1.modH (fun h => h.writeA m.d (amoResult m.w old)))

/-- An AMO at the address in a (R154 to R157): the hart's stores to the same bytes are performed first, and for a
release all of them and its engine commands (R164, log 75). -/
def State.amo (s : State) (i : Instr) (a : Reg) (acq rel : Bool) : Out :=
  s.gate i (fun s =>
    match i.amo? with
    | none => s.complete
    | some m =>
      let g := s.h.readA a
      match checkElem s s.own.cur g m.w needRW 0 with
      | .error t => if winClass s s.own.cur g = 6 then s.raise cWindow g 6 else s.trap t
      | .ok p =>
        if p.cls = 6 then s.raise cWindow g 6
        else if s.mustWait [(p, m.w)] rel || s.h.mem.pend.any (fun o => o.hits p.key m.w) then .next (s.waitOn i none none)
        else if s.own.defer then
          .next (s.modMem (fun x => { x with pendLoad := some ⟨i, g, p.key, m.w, acq || p.sc || p.rd.isSome, x.pendNo, none⟩ }))
        else s.performAmo m g p.key s.h State.complete)

/-- AMOADD (R155). -/
def execAmoadd (d a b : Reg) (acq rel : Bool) (sc : Scope) (w64 : Bool) (s : State) : Out :=
  s.amo (.amoadd d a b acq rel sc w64) a acq rel

/-- AMOAND (R155). -/
def execAmoand (d a b : Reg) (acq rel : Bool) (sc : Scope) (w64 : Bool) (s : State) : Out :=
  s.amo (.amoand d a b acq rel sc w64) a acq rel

/-- AMOOR (R155). -/
def execAmoor (d a b : Reg) (acq rel : Bool) (sc : Scope) (w64 : Bool) (s : State) : Out :=
  s.amo (.amoor d a b acq rel sc w64) a acq rel

/-- AMOXOR (R155). -/
def execAmoxor (d a b : Reg) (acq rel : Bool) (sc : Scope) (w64 : Bool) (s : State) : Out :=
  s.amo (.amoxor d a b acq rel sc w64) a acq rel

/-- AMOMIN (R155). -/
def execAmomin (d a b : Reg) (acq rel : Bool) (sc : Scope) (w64 : Bool) (s : State) : Out :=
  s.amo (.amomin d a b acq rel sc w64) a acq rel

/-- AMOMAX (R155). -/
def execAmomax (d a b : Reg) (acq rel : Bool) (sc : Scope) (w64 : Bool) (s : State) : Out :=
  s.amo (.amomax d a b acq rel sc w64) a acq rel

/-- AMOMINN (R155). -/
def execAmominn (d a b : Reg) (acq rel : Bool) (sc : Scope) (w64 : Bool) (s : State) : Out :=
  s.amo (.amominn d a b acq rel sc w64) a acq rel

/-- AMOMAXN (R155). -/
def execAmomaxn (d a b : Reg) (acq rel : Bool) (sc : Scope) (w64 : Bool) (s : State) : Out :=
  s.amo (.amomaxn d a b acq rel sc w64) a acq rel

/-- AMOSWAP (R155). -/
def execAmoswap (d a b : Reg) (acq rel : Bool) (sc : Scope) (w64 : Bool) (s : State) : Out :=
  s.amo (.amoswap d a b acq rel sc w64) a acq rel

/-- AMOCAS (R155). -/
def execAmocas (d a b : Reg) (acq rel : Bool) (sc : Scope) (w64 : Bool) (s : State) : Out :=
  s.amo (.amocas d a b acq rel sc w64) a acq rel

/-- AMOFADD (R155). -/
def execAmofadd (d a b : Reg) (acq rel : Bool) (sc : Scope) (w64 : Bool) (s : State) : Out :=
  s.amo (.amofadd d a b acq rel sc w64) a acq rel

/-- The hart with its A-side registers as they stood at the load or AMO that has not been performed. -/
def Hart.atLoad (h : Hart) : Hart :=
  match h.mem.pendLoad.bind (·.ahead) with
  | some o => { h with regs := o.regs }
  | none => h

/-- A deferred load or AMO has been performed; it completes now, unless later instructions have run past it. -/
def State.loadDone (s : State) (ahead : Bool) : Out :=
  let s1 := s.modMem (fun m => { m with pendLoad := none })
  if ahead then .next s1 else s1.complete

/-- LOAD_PERFORMED (R147): a hart's deferred scalar load or AMO is performed at its memory. Poison found there traps on
it, and what later instructions have done is undone (R114, R155). Nothing is performed in a warm reset (R378). -/
def execLoadPerformed (k : HartKey) (s : State) : Out :=
  let s0 := s.actAs k .A
  match (if s.dev.warm.isNone then s0.h.mem.pendLoad else none) with
  | none => .next s
  | some p =>
    match p.instr.amo?, p.instr.load? with
    | some m, _ =>
      if keyHoldsPoison p.key && poisoned s.poison p.key m.w then (s0.modH Hart.dropLoad).raise cPoison p.addr 0
      else s0.performAmo m p.addr p.key s0.h.atLoad (fun t => t.loadDone p.ahead.isSome)
    | none, some (d, sg) =>
      let r := s0.readAs k p.key p.bytes
      if r.2 then (s0.modH Hart.dropLoad).raise cPoison p.addr 0
      else s0.finishLoad d p.addr sg r (fun t => t.loadDone p.ahead.isSome)
    | none, none => .next (s0.modMem (fun m => { m with pendLoad := none }))

end Sys2Proof.Machine
end

