-- ==== Sys2Proof/Machine/Booking.lean ====
section
/-! DEFINITION. Copy control blocks, paths and bookings (09_copy R256 to R263, R277). -/

namespace Sys2Proof.Machine

/-! ### Fields of blocks in memory -/

/-- Bits [hi:lo] of a little-endian number. -/
def bitsOf (n hi lo : Nat) : Nat := n / 2 ^ lo % 2 ^ (hi - lo + 1)

/-- Byte offset of the lowest 8-byte word that holds a nonzero reserved bit. -/
def reservedAt (n words : Nat) (fs : List (Nat × Nat)) : Option Nat :=
  ((List.range words).find? (fun w => fs.any (fun f =>
    let lo := max f.2 (64 * w)
    let hi := min f.1 (64 * w + 63)
    decide (lo ≤ hi) && bitsOf n hi lo != 0))).map (8 * ·)

/-- The reserved fields of a copy control block (R261). -/
def copyReserved : List (Nat × Nat) :=
  [(511, 488), (351, 340), (313, 308), (301, 296), (291, 289), (287, 272), (270, 269), (260, 256)]

/-- The fields of a copy control block (R261). -/
def CopyBlock.ofNat (n : Nat) : CopyBlock :=
  { src := word (bitsOf n 63 0), dst := word (bitsOf n 127 64), len := bitsOf n 159 128, rows := bitsOf n 191 160,
    spitch := BitVec.ofNat 32 (bitsOf n 223 192), dpitch := BitVec.ofNat 32 (bitsOf n 255 224),
    scope := bitsOf n 263 261, acq := bitsOf n 264 264 = 1, rel := bitsOf n 265 265 = 1, csum := bitsOf n 267 266,
    cmp := bitsOf n 268 268 = 1, nobook := bitsOf n 271 271 = 1, abv := bitsOf n 288 288 = 1,
    mcast := BitVec.ofNat 4 (bitsOf n 295 292), rdir := bitsOf n 303 302, rwin := bitsOf n 307 304,
    chainbk := bitsOf n 319 314, aboff := bitsOf n 339 320, abtag := BitVec.ofNat 32 (bitsOf n 383 352),
    seed := BitVec.ofNat 32 (bitsOf n 415 384), want := BitVec.ofNat 32 (bitsOf n 447 416) }

/-- A remote window (R277). -/
def RWin.ofWords (v : Vector Word 4) : RWin :=
  let n := v[0].toNat + v[1].toNat * 2 ^ 64 + v[2].toNat * 2 ^ 128 + v[3].toNat * 2 ^ 192
  { blmask := BitVec.ofNat 36 (bitsOf n 227 192), rkey := BitVec.ofNat 32 (bitsOf n 191 160), eport := bitsOf n 147 144,
    w := bitsOf n 139 139 = 1, r := bitsOf n 138 138 = 1, via := bitsOf n 137 137 = 1, peer := bitsOf n 136 128,
    len := bitsOf n 103 64, base := bitsOf n 55 0 }

/-- Remote window `k` of a context; one never written is unused. -/
def State.rwin (s : State) (ctx k : Nat) : RWin :=
  RWin.ofWords (kvGetD (s.ctxNo ctx).rwins k (Vector.replicate 4 0))

/-- Source address of row `r` (R261). -/
def CopyBlock.srcRow (b : CopyBlock) (r : Nat) : Word := b.src + word r * b.spitch.signExtend 64

/-- Destination address of row `r` (R261). -/
def CopyBlock.dstRow (b : CopyBlock) (r : Nat) : Word := b.dst + word r * b.dpitch.signExtend 64

/-- Bytes of a copy. -/
def CopyBlock.total (b : CopyBlock) : Nat := b.len * b.rows

/-- The harts that a multicast names. -/
def CopyBlock.receivers (b : CopyBlock) : List Nat := (List.range 4).filter (fun i => b.mcast.getLsbD i)

/-- The cluster address of an offset in a hart's scratchpad (R24). -/
def clusterAddr (k : HartKey) (i off : Nat) : Word := word (0xF2 * 2 ^ 56 + k.slot * 2 ^ 48 + i * 2 ^ 20 + off)

/-! ### Where a command runs -/

/-- The context a command runs in. -/
def State.ctxOf (s : State) (i : CmdId) : Nat :=
  match i with
  | .hart k _ => (s.sliceOf k).ctx
  | .graph g _ => (kvGetD s.graphs g default).ctx
  | .topo _ n => (kvGetD s.legs n default).ctx

/-- Every command of the device. -/
def State.allCmds (s : State) : List CmdId :=
  s.harts.flatMap (fun p => p.2.eng.recs.map (fun r => CmdId.hart p.1 r.2.seq)) ++
    s.graphs.flatMap (fun p => p.2.copies.map (fun r => CmdId.graph p.1 r.1)) ++
      s.legs.map (fun p => CmdId.topo p.2.die p.1)

/-- The I/O die whose links a copy takes (R256): the one adjacent to the issuer's die (R11). -/
def ioOf (die : Nat) : Nat := die % 2

/-- The home die of a byte in HBM: of its 2 MiB region, or of the hart's private area (R138, R139). -/
def State.homeAt (s : State) (i : CmdId) (g : Word) : Nat :=
  let global := Config.homeDie (s.ctxOf i) (gVa g / 0x200000) % 4
  match i with
  | .hart k _ => if winClass s k g = 1 then (s.caravan k).homeDie else global
  | _ => global

/-- The physical address of a byte of a private space: the walk from the context's second root (R138), or where
that finds none a page of its own (log 13). -/
def State.privAt (s : State) (ctx va : Nat) : Nat :=
  match walkFrom s.mem needR va walkLevels (s.ctxNo ctx).proot with
  | some (a, false, _) => a
  | _ => Config.privPage ctx (va / 0x10000) * 0x10000 + va % 0x10000

/-- The physical address of a byte in HBM, for its channel (R258). -/
def State.physAt (s : State) (i : CmdId) (g : Word) (need : Need) : Nat :=
  match i with
  | .hart k _ =>
    if winClass s k g = 1 then s.privAt (s.sliceOf k).ctx ((s.hart k).mem.pbase + gPriv g)
    else (s.keyFor i g need).getD 0
  | _ => (s.keyFor i g need).getD 0

/-! ### Paths (R258, R259) -/

/-- One end of a copy: its die (4 and 5 for the I/O dies), its latency, the resources it books, and for HBM its
direction and the address. -/
structure End where
  node : Nat
  lat  : Nat
  res  : List Res
  hbm  : Option (Bool × Word)
deriving DecidableEq, Repr, Inhabited

/-- A unit's bit of READY (R393). -/
def unitBit (u : RUnit) : Nat :=
  match u with
  | .ep n => 56 + n
  | .bl n => 20 + n
  | .hbm n => 8 + n
  | .cd n => 4 + n
  | .cps n => 2 + n
  | .hostLink n => n

/-- Whether a unit reports ready (R393). -/
def State.unitUp (s : State) (u : RUnit) : Bool := s.dev.ready.getLsbD (unitBit u)

/-- The I/O die of a Brynica Link port (R11). -/
def blDie (n : Nat) : Nat := if n < 18 then 4 else 5

/-- The I/O die of an Ethernet port (R11). -/
def epDie (n : Nat) : Nat := if n < 4 then 4 else 5

/-- The Brynica Link ports of a mask that are ready. -/
def State.blPorts (s : State) (m : BitVec 36) : List Nat :=
  (List.range 36).filter (fun n => m.getLsbD n && s.unitUp (.bl n))

/-- The ports at which a copy may leave for a peer, one end for each (R277). -/
def State.peerEnds (s : State) (w : RWin) (d : Bool) : List End :=
  if w.via then [⟨epDie w.eport, 4000, [.ep w.eport d], none⟩]
  else (s.blPorts w.blmask).map (fun n => ⟨blDie n, 1200, [.bl n d], none⟩)

/-- The end of a copy at a generic address; `d` marks a destination. -/
def State.endAt (s : State) (i : CmdId) (io : Nat) (g : Word) (d : Bool) : End :=
  let global :=
    match s.keyFor i g (if d then needW else needR) with
    | some key =>
      if keyIsHost key then (⟨4 + io, 800, [.host io d], none⟩ : End) else ⟨s.homeAt i g, 100, [], some (d, g)⟩
    | none => ⟨0, 0, [], none⟩
  match i with
  | .hart k _ =>
    match winClass s k g with
    | 0 => global
    | 1 => ⟨s.homeAt i g, 100, [], some (d, g)⟩
    | c => ⟨k.die, 30, [.port (s.coreOf (spadHart k c g)) d], none⟩
  | _ => global

/-- The dies from one to another (R11, R259): of two routes of two edges, the one through CD0 or CD1. -/
def route (a b : Nat) : List Nat :=
  if a = b then [a]
  else if a < 4 ∧ b < 4 then
    if a + b = 3 then (if a = 0 ∨ a = 3 then [a, 1, b] else [a, 0, b]) else [a, b]
  else if a < 4 then (if a % 2 = b - 4 then [a, b] else [a, if a % 2 = 0 then a + 1 else a - 1, b])
  else if b < 4 then (if b % 2 = a - 4 then [a, b] else [a, if b % 2 = 0 then b + 1 else b - 1, b])
  else [a, a - 4, b - 4, b]

/-- The edges between dies that follow one another. -/
def edgesOf (hops : List Nat) : List Res := (hops.zip hops.tail).map (fun e => Res.edge e.1 e.2)

/-- The path of one row: the resources that all its bytes cross; the ways that share the bytes, each a port with the
edges to it (R277), when one end is on a peer; its ends in HBM; its latency, the longest way's; its dies. -/
structure Path where
  res  : List Res
  ways : Option (List (List Res))
  hbm  : List (Bool × Word)
  lat  : Nat
  dies : List Nat
deriving DecidableEq, Repr, Inhabited

/-- The destinations of row `r`: one, or each receiver of a multicast. -/
def CopyBlock.dsts (b : CopyBlock) (i : CmdId) (r : Nat) : List Word :=
  match i with
  | .hart k _ => if b.mcast = 0 then [b.dstRow r] else b.receivers.map (fun n => clusterAddr k n (gOff (b.dstRow r)))
  | _ => [b.dstRow r]

/-- The accepting engine: of the issuer's compute die, or of the I/O die for a graph's copy (R256, R353). -/
def acceptEngine (i : CmdId) (io cluster : Nat) : Nat :=
  match i with
  | .hart k _ => 16 * k.die + cluster % 16
  | .graph _ _ => 64 + 16 * io + cluster % 16
  | .topo d _ => 16 * d + cluster % 16

/-- The engine that continues a path which leaves the compute dies (R256). -/
def contEngine (i : CmdId) (j : CopyJob) (outside : Bool) : List Res :=
  match i with
  | .graph _ _ => []
  | _ => if outside then [Res.eng (64 + 16 * j.io + j.cluster % 16)] else []

/-- A way whose dies are ready, with its latency and its dies. -/
def State.wayOf (s : State) (near : Nat) (src : Bool) (e : End) : Option (List Res × Nat × List Nat) :=
  let hops := if src then route e.node near else route near e.node
  if hops.all (fun d => d ≥ 4 || s.unitUp (.cd d)) then some (e.res ++ edgesOf hops, e.lat + 40 * (edgesOf hops).length, hops)
  else none

/-- The path of row `r` (R259), by the home die of its first byte (log 87). -/
def State.pathOf (s : State) (i : CmdId) (j : CopyJob) (r : Nat) : Path :=
  let b := j.blk
  let acc := Res.eng (acceptEngine i j.io j.cluster)
  match j.win with
  | some w =>
    let out := b.rdir = 1
    let e := s.endAt i j.io (if out then b.srcRow r else b.dstRow r) (!out)
    let ways := (s.peerEnds w out).filterMap (s.wayOf e.node (!out))
    let cont := contEngine i j true
    { res := e.res ++ acc :: cont, ways := some (ways.map (·.1)), hbm := e.hbm.toList,
      lat := e.lat + 100 + 100 * cont.length + ways.foldl (fun n x => max n x.2.1) 0,
      dies := (e.node :: ways.flatMap (·.2.2)).eraseDups }
  | none =>
    let src := s.endAt i j.io (b.srcRow r) false
    let dsts := (b.dsts i r).map (fun g => s.endAt i j.io g true)
    let dst := dsts.headD default
    let hops := route src.node dst.node
    let cont := contEngine i j (decide (src.node ≥ 4) || decide (dst.node ≥ 4))
    { res := src.res ++ acc :: edgesOf hops ++ cont ++ dsts.flatMap (·.res), ways := none,
      hbm := src.hbm.toList ++ dsts.filterMap (·.hbm),
      lat := src.lat + 100 + 40 * (edgesOf hops).length + 100 * cont.length + dst.lat,
      dies := hops }

/-! ### Booking (R258, R260) -/

/-- Bookable bytes of a resource in a slot (R258); a core whose record has once reached 85 % keeps the DERATED
rate (R382). -/
def State.capOf (s : State) (r : Res) : Nat :=
  match r with
  | .eng _ => 16384
  | .chan _ _ _ => 4096
  | .edge a b => if a < 4 ∧ b < 4 then 288000 else 144000
  | .port c _ => if (s.coreNo c).capped then 6656 else 8192
  | .host _ _ => 11264
  | .bl _ _ => 4800
  | .ep _ _ => 4800

/-- Bytes of a slot that bookings leave free. -/
def State.freeIn (s : State) (bk : List Booking) (r : Res) (slot : Nat) : Nat :=
  s.capOf r - (bk.filter (fun b => b.res = r && b.slot = slot)).foldl (fun n b => n + b.bytes) 0

/-- The most that every resource of a list can take of `c` bytes in a slot. -/
def State.freeAll (s : State) (bk : List Booking) (slot c : Nat) (rs : List Res) : Nat :=
  rs.foldl (fun n r => min n (s.freeIn bk r slot)) c

/-- Book `c` bytes on every resource of a list. -/
def bookAll (who : CmdId) (slot c : Nat) (rs : List Res) (bk : List Booking) : List Booking :=
  if c = 0 then bk else bk ++ rs.map (fun r => ⟨r, slot, c, who⟩)

/-- Insert a way among ways by the falling free capacity of its port. -/
def insWay (p : List Res × Nat) : List (List Res × Nat) → List (List Res × Nat)
  | [] => [p]
  | q :: t => if p.2 > q.2 then p :: q :: t else q :: insWay p t

/-- The ways of a path, the port with the most free capacity in the slot first (R277). -/
def State.waysBy (s : State) (bk : List Booking) (slot : Nat) (ways : List (List Res)) : List (List Res) :=
  ((ways.map (fun w => (w, s.freeAll bk slot (2 ^ 40) (w.take 1)))).foldl (fun l p => insWay p l) []).map (·.1)

/-- Spread at most `c` bytes over ways in order, each taking what its port and edges leave: the count, and the
bookings. -/
def State.takeWays (s : State) (who : CmdId) (slot : Nat) : List (List Res) → Nat → List Booking → Nat × List Booking
  | [], _, bk => (0, bk)
  | w :: t, c, bk =>
    let m := s.freeAll bk slot c w
    let rest := s.takeWays who slot t (c - m) (bookAll who slot m w bk)
    (m + rest.1, rest.2)

/-- Book on HBM channels the next bytes of a row, from offset `off`, at most `lim` of them, granule by
granule of 256 bytes, each on its own home die: the count booked, and the bookings (R258; log 87). -/
def State.takeHbm (s : State) (who : CmdId) (slot : Nat) (hs : List (Bool × Word)) :
    Nat → Nat → Nat → Nat → List Booking → Nat × List Booking
  | 0, _, _, got, bk => (got, bk)
  | fuel + 1, off, lim, got, bk =>
    if lim = 0 then (got, bk)
    else
      let spots := hs.map (fun h => (h.1, h.2 + word off, s.physAt who (h.2 + word off) (if h.1 then needW else needR)))
      let piece := spots.foldl (fun n p => min n (256 - p.2.2 % 256)) lim
      let chans := spots.map (fun p => Res.chan (s.homeAt who p.2.1) (p.2.2 / 256 % 96) p.1)
      let c := s.freeAll bk slot piece chans
      if c = 0 then (got, bk)
      else if c < piece then (got + c, bookAll who slot c chans bk)
      else s.takeHbm who slot hs fuel (off + c) (lim - c) (got + c) (bookAll who slot c chans bk)

/-- The state of the booking loop: the slot, the row and offset of the next byte, the bytes left, the first
and last slots booked, and all bookings. -/
structure Book where
  slot  : Nat
  row   : Nat
  off   : Nat
  need  : Nat
  first : Option Nat
  last  : Nat
  bk    : List Booking
deriving DecidableEq, Repr, Inhabited

/-- What a slot can take of the bytes of a row from `off`, at most `lim`, with its bookings. -/
def State.takeRow (s : State) (i : CmdId) (p : Path) (slot off lim : Nat) (bk : List Booking) : Nat × List Booking :=
  let c0 := s.freeAll bk slot lim p.res
  let ways := (p.ways.getD []) |> s.waysBy bk slot
  let c1 := if p.ways.isSome then (s.takeWays i slot ways c0 bk).1 else c0
  let h := if p.hbm.isEmpty then (c1, bk) else s.takeHbm i slot p.hbm 0x20000 off c1 0 bk
  (h.1, bookAll i slot h.1 p.res (s.takeWays i slot ways h.1 h.2).2)

/-- One round of R260: book what the slot can take of the row, or go on to the next slot. -/
def State.bookRound (s : State) (i : CmdId) (j : CopyJob) (b : Book) : Book :=
  let r := s.takeRow i (s.pathOf i j b.row) b.slot b.off (min b.need (j.blk.len - b.off)) b.bk
  if r.1 = 0 then { b with slot := b.slot + 1 }
  else
    let done := decide (b.off + r.1 = j.blk.len)
    { b with row := if done then b.row + 1 else b.row, off := if done then 0 else b.off + r.1, need := b.need - r.1,
             first := some (b.first.getD b.slot), last := b.slot, bk := r.2 }

/-- The loop of R260, up to the last slot of the horizon. -/
def State.bookLoop (s : State) (i : CmdId) (j : CopyJob) (last : Nat) : Nat → Book → Book
  | 0, b => b
  | n + 1, b => if b.need = 0 ∨ b.slot > last then b else s.bookLoop i j last n (s.bookRound i j b)

/-- The due date of an unbooked copy and of a command (R260, R289). -/
def dueNever : Nat := 2 ^ 64 - 1

/-- What booking a copy gives: its due date, its first booked slot and all bookings; no due date when it
runs unbooked (R260). -/
def State.book (s : State) (i : CmdId) (j : CopyJob) (pred : Option HRec) : Option (Nat × Nat) × List Booking :=
  let t := s.now / 64
  let first := match pred with
    | some p => max (t + 2) (p.due / 64 + 1)
    | none => t + 2
  let forced := j.blk.nobook || (match pred with | some p => p.unbooked | none => false)
  if forced then (none, s.books)
  else
    let b := s.bookLoop i j (t + 65535) (j.blk.rows + 0x20000) ⟨first, 0, 0, j.blk.total, none, 0, s.books⟩
    if b.need > 0 then (none, s.books)
    else if j.blk.total = 0 then (some (s.now, first), s.books)
    else
      let lat := (List.range j.blk.rows).foldl (fun n r => max n (s.pathOf i j r).lat) 0
      (some (64 * (b.last + 1) + lat, b.first.getD first), b.bk)

/-! ### What a path needs (R394, R395) -/

/-- Whether the ports a copy crosses may be used: FEAT offers them and one is ready. -/
def State.portsUp (s : State) (j : CopyJob) : Bool :=
  match j.win with
  | none => true
  | some w =>
    if w.via then s.dev.feat.getLsbD 2 && s.unitUp (.ep w.eport)
    else s.dev.feat.getLsbD 1 && !(s.blPorts w.blmask).isEmpty

/-- Whether a row's path crosses ready dies and host links only, and has a way to its peer. -/
def State.rowUp (s : State) (i : CmdId) (j : CopyJob) (r : Nat) : Bool :=
  let p := s.pathOf i j r
  p.dies.all (fun d => d ≥ 4 || s.unitUp (.cd d)) && p.ways != some [] &&
    p.res.all (fun x => match x with | .host io _ => s.unitUp (.hostLink io) | _ => true)

/-- Whether everything that a copy crosses is ready. -/
def State.pathUp (s : State) (i : CmdId) (j : CopyJob) : Bool :=
  s.portsUp j && (List.range j.blk.rows).all (fun r => s.rowUp i j r)

/-! ### What a due date promises (R274) -/

/-- Whether a copy's path has a host link or a peer, whose side of a transfer may be late (R274). -/
def State.mayStall (s : State) (i : CmdId) (j : CopyJob) : Bool :=
  j.win.isSome || (List.range j.blk.rows).any (fun r =>
    (s.pathOf i j r).res.any (fun x => match x with | .host _ _ => true | _ => false))

/-- Whether the clock of a core is stretched in a slot booked for a copy on its scratchpad port (R274). -/
def State.slowSlot (s : State) (i : CmdId) : Bool :=
  s.books.any (fun b => b.who = i && (match b.res with
    | .port c _ => (match (s.coreNo c).slowAt with
      | some t => decide (t / 64 ≤ b.slot ∧ b.slot ≤ s.now / 64)
      | none => false)
    | _ => false))

/-- The due date that a copy in motion keeps: it is booked, and none of the six cases of R274 has met a slot booked
for it. -/
def State.promise (s : State) (i : CmdId) : Option Nat :=
  match s.cmd i with
  | some r =>
    match r.job with
    | .copy j => if r.st = .moving ∧ !r.unbooked ∧ j.cause = 0 ∧ !s.slowSlot i ∧ j.blk.total ≠ 0 ∧ !s.mayStall i j then some r.due else none
    | _ => none
  | none => none

/-- Ticks of an accrual interval (R380). -/
def accrualTk : Nat := 1000000

/-- The almanac time that can pass before a copy that keeps its due date has ended (R274), and before the next accrual
of wear, which is due at every multiple of 1 000 000 tk (R380); an engine that a warm reset has stopped promises
nothing. -/
def State.slack (s : State) (n : Nat) : Nat :=
  let m := min n (s.dev.accrued + accrualTk - s.now)
  if s.dev.warm.isSome then m
  else s.allCmds.foldl (fun m i => match s.promise i with | some d => min m (d - 1 - s.now) | none => m) m

end Sys2Proof.Machine
end

