-- ==== Sys2Proof/Machine/Regions.lean ====
section
/-! DEFINITION. Leases on 2 MiB regions and the demands on them (04_access R146, 11_tasks R335). -/

namespace Sys2Proof.Machine

/-- The 2 MiB regions that a slice's leases touch. -/
def Desc.regions (d : Desc) : List Nat :=
  ((d.leases.filter (fun l => l.len != 0)).flatMap (fun l =>
    List.range' (l.base / 0x200000) ((l.base + l.len - 1) / 0x200000 + 1 - l.base / 0x200000))).eraseDups

/-- The regions of a slice's leases that move: Slorraroth pins host-type ranges in place (R146, log 47). -/
def Desc.movable (ctx : Nat) (d : Desc) : List Nat := d.regions.filter (fun r => !Config.pinned ctx r)

/-- The region of a context. -/
def State.region (s : State) (ctx n : Nat) : Region := kvGetD s.regions (ctx, n) Region.reset

/-- Replace a region. -/
def State.setRegion (s : State) (ctx n : Nat) (r : Region) : State := { s with regions := kvSet s.regions (ctx, n) r }

/-- A demand meets a region (R146). The demand that a move serves stays first in the queue until the move
is complete. -/
def Region.demand (r : Region) (d : Demand) : Region :=
  match r.st, d with
  | .host, .slice _ => { r with st := .toDevice, queue := r.queue ++ [d] }
  | .host, .host => r
  | .toDevice, _ => { r with queue := r.queue ++ [d] }
  | .toHost, _ => { r with queue := r.queue ++ [d] }
  | .device, .slice _ => { r with st := .leased, leases := 1 }
  | .device, .host => { r with st := .toHost }
  | .leased, .slice _ => { r with leases := r.leases + 1 }
  | .leased, .host => { r with queue := r.queue ++ [d] }

/-- Serve queued demands one after another, in arrival order. -/
def Region.serve (r : Region) (ds : List Demand) : Region := ds.foldl Region.demand r

/-- A move completes (R146). -/
def Region.moved (r : Region) : Region :=
  match r.st with
  | .toDevice => Region.serve { r with st := .device, queue := [] } r.queue
  | .toHost => Region.serve { r with st := .host, queue := [] } r.queue
  | _ => r

/-- A lease is released (R146). -/
def Region.release (r : Region) : Region :=
  match r.st with
  | .leased =>
    if r.leases ≤ 1 then Region.serve { st := .device, leases := 0, queue := [] } r.queue
    else { r with leases := r.leases - 1 }
  | _ => r

/-- A slice demands its regions that move. -/
def State.demandAll (s : State) (n ctx : Nat) (d : Desc) : State :=
  (d.movable ctx).foldl (fun t r => t.setRegion ctx r ((t.region ctx r).demand (.slice n))) s

/-- A child slice takes its lease counts on regions that its issuer holds (R335). -/
def State.leaseAll (s : State) (ctx : Nat) (d : Desc) : State :=
  (d.movable ctx).foldl (fun t r =>
    t.setRegion ctx r { t.region ctx r with st := .leased, leases := (t.region ctx r).leases + 1 }) s

/-- A slice that has ended releases its counts (R335). -/
def State.releaseAll (s : State) (ctx : Nat) (d : Desc) : State :=
  (d.movable ctx).foldl (fun t r => t.setRegion ctx r (t.region ctx r).release) s

/-- Whether every region of a slice has counted its lease. -/
def State.resident (s : State) (n ctx : Nat) (d : Desc) : Bool :=
  (d.movable ctx).all (fun r => !(s.region ctx r).queue.contains (.slice n))

/-! ### Moves (R146) -/

/-- The table entry of the leaf that maps an address: its key, the shift of its page, the page's address, and whether it
is a host page. -/
def leafFrom (m : List Host.Cell) (va : Nat) : List (Nat × Nat × Bool × Nat) → Nat → Option (Nat × Nat × Nat × Bool)
  | [], _ => none
  | (sh, bits, leafOk, _) :: rest, table =>
    let at_ := keyHbm (table + 8 * (va / 2 ^ sh % 2 ^ bits))
    let e := bytesNat (memBytes m at_ 8)
    let addr := e / 256 % 2 ^ 48 * 256
    if e % 2 = 0 then none
    else if e / 16 % 2 = 1 then (if leafOk then some (at_, sh, addr, e / 32 % 2 = 1) else none)
    else leafFrom m va rest addr

/-- Bytes of memory without those of a range. -/
def memDrop (m : List Host.Cell) (lo n : Nat) : List Host.Cell := m.filter (fun c => !(decide (lo ≤ c.1) && decide (c.1 < lo + n)))

/-- Copy `n` bytes from a key to another; a poisoned byte becomes 0 where the destination holds no poison (R268). -/
def State.copyRange (s : State) (src dst n : Nat) : State :=
  let cells := s.mem.filter (fun c => decide (src ≤ c.1) && decide (c.1 < src + n) &&
    (keyHoldsPoison dst || !(keyHoldsPoison src && poisoned s.poison c.1 1)))
  let psn := if keyHoldsPoison src && keyHoldsPoison dst then
      (s.poison.filter (fun g => decide (src ≤ 4 * g) && decide (4 * g < src + n))).map (fun g => g - src / 4 + dst / 4)
    else []
  { s with mem := cells.foldl (fun m c => memSet m (c.1 - src + dst) c.2) (memDrop s.mem dst n),
           poison := psn.foldl insNat (if keyHoldsPoison dst then poisonClear s.poison dst n else s.poison) }

/-- Move the page that a leaf maps to a frame on the other side, and let the leaf map it there (R146): its HOST bit and
its address change, its rights stay, and reserved bits are written as zero (R8, R141). The frame is a free value (log 47). -/
def State.movePage (s : State) (x : Nat × Nat × Nat × Bool) : State :=
  let n := 2 ^ x.2.1
  let e := bytesNat (memBytes s.mem x.1 8)
  let frame := Config.frame s.own.free x.1 % 2 ^ (56 - x.2.1) * n
  let key := fun (host : Bool) (a : Nat) => if host then keyHost a else keyHbm a
  let s1 := s.copyRange (key x.2.2.2 x.2.2.1) (key (!x.2.2.2) frame) n
  let e1 := frame + (if x.2.2.2 then 0 else 32) + e % 32
  { s1 with mem := memPut s1.mem x.1 (whole (natBytes e1 8)) }

/-- Let a table of 2 MiB leaves take the place of a 1 GiB leaf: the same bytes mapped with the same rights, so that one
region of them can move. The table's address is a free value (log 47). -/
def State.splitPage (s : State) (x : Nat × Nat × Nat × Bool) : State :=
  let e := bytesNat (memBytes s.mem x.1 8)
  let table := Config.frame s.own.free (x.1 + 1) % 2 ^ 44 * 4096
  let leaf := fun (n : Nat) => natBytes (x.2.2.1 + n * 0x200000 + e % 64) 8
  { s with mem := memPut (memPut s.mem (keyHbm table) (whole ((List.range 512).flatMap leaf))) x.1 (whole (natBytes (table + 1) 8)) }

/-- Split the 1 GiB leaf that maps a region which is to move. -/
def State.splitRegion (s : State) (ctx region : Nat) (toHost : Bool) : State :=
  match leafFrom s.mem (region * 0x200000) walkLevels (s.ctxNo ctx).root with
  | some x => if x.2.2.2 != toHost && x.2.1 = 30 then s.splitPage x else s
  | none => s

/-- Move the pages of a region of a context that lie on one side. -/
def State.moveRegion (s : State) (ctx region : Nat) (toHost : Bool) : State :=
  (List.range 32).foldl (fun t p =>
    match leafFrom t.mem (region * 0x200000 + p * 0x10000) walkLevels (t.ctxNo ctx).root with
    | some x => if x.2.2.2 != toHost && (x.2.1 = 16 || (x.2.1 = 21 && p = 0)) then t.movePage x else t
    | none => t) (s.splitRegion ctx region toHost)

end Sys2Proof.Machine
end

