-- ==== Sys2Proof/Machine/Launch.lean ====
section
/-! DEFINITION. Launch descriptors and LAUNCH (11_tasks R332 to R336). -/

namespace Sys2Proof.Machine

/-! ### Descriptors (R143, R332) -/

/-- A lease entry (R143). -/
def Lease.ofNat (n : Nat) : Lease :=
  { base := bitsOf n 119 64, len := bitsOf n 47 8, rd := bitsOf n 5 5 = 1, sc := bitsOf n 4 4 = 1, ns := bitsOf n 3 3 = 1,
    w := bitsOf n 1 1 = 1, r := bitsOf n 0 0 = 1 }

/-- Leases that follow the header. -/
def nleaseOf (n : Nat) : Nat := bitsOf n 247 243

/-- The fields of a header and its leases (R332). -/
def Desc.ofNat (n : Nat) (leases : List Lease) : Desc :=
  { codebase := bitsOf n 63 0, codelen := bitsOf n 95 64, aent := bitsOf n 159 128, xent := bitsOf n 191 160,
    count := bitsOf n 215 192, spbytes := bitsOf n 239 220, shape := bitsOf n 242 240, acq := bitsOf n 251 251 = 1,
    rel := bitsOf n 252 252 = 1, scope := bitsOf n 250 248, dieV := bitsOf n 255 255 = 1, die := bitsOf n 254 253,
    deadline := bitsOf n 319 256, budget := if bitsOf n 367 320 = 2 ^ 48 - 1 then none else some (bitsOf n 367 320),
    arg := word (bitsOf n 447 384), privsz := bitsOf n 471 448, signal := word (bitsOf n 575 512),
    sigval := word (bitsOf n 639 576), leases := leases }

/-- The reserved fields of a header. -/
def descReserved : List (Nat × Nat) := [(1023, 640), (511, 472), (383, 368), (219, 216), (127, 96)]

/-- Whether each 8-byte word of a header keeps its limits (R332). -/
def descWordOk (n w : Nat) : Bool :=
  let base := bitsOf n 63 0
  let len := bitsOf n 95 64
  match w with
  | 0 => base != 0 && base % 64 == 0 && decide (base < 2 ^ 56)
  | 1 => len != 0 && decide (base + len ≤ 2 ^ 56)
  | 2 => bitsOf n 159 128 % 4 == 0 && decide (bitsOf n 159 128 < len) && bitsOf n 191 160 % 4 == 0 && decide (bitsOf n 191 160 < len)
  | 3 => bitsOf n 215 192 != 0 && bitsOf n 239 220 % 64 == 0 && decide (bitsOf n 239 220 ≤ Config.spadBytes) &&
      (bitsOf n 242 240 == 1 || bitsOf n 242 240 == 2 || bitsOf n 242 240 == 4) && decide (nleaseOf n ≤ 16) && decide (bitsOf n 250 248 ≤ 4)
  | 5 => bitsOf n 367 320 != 0
  | 7 => bitsOf n 471 448 != 0
  | 8 => bitsOf n 575 512 % 8 == 0 && decide (bitsOf n 575 512 < 2 ^ 56)
  | 9 => bitsOf n 639 639 == 0
  | _ => true

/-- The byte offset of the first word of a header with an invalid field. -/
def descBad (n : Nat) : Option Nat :=
  ((List.range 16).find? (fun w => !descWordOk n w || (reservedAt (n / 2 ^ (64 * w) % 2 ^ 64 * 2 ^ (64 * w)) 16 descReserved).isSome)).map (8 * ·)

/-- The reserved fields of a lease entry (R143). -/
def leaseReserved : List (Nat × Nat) := [(127, 120), (63, 48), (7, 6), (2, 2)]

/-- The detail of the first lease word with a nonzero reserved field (R334). -/
def leaseBad (es : List Nat) : Option Nat :=
  es.zipIdx.findSome? (fun e => (reservedAt e.1 2 leaseReserved).map (fun o => 0x80 + 2 * e.2 + o / 8))

/-- A descriptor as it is read: its header, its lease entries. -/
structure RawDesc where
  head   : Nat
  leases : List Nat
deriving DecidableEq, Repr, Inhabited

/-- Cut the bytes of a descriptor. -/
def RawDesc.ofBytes (bs : List Byte) : RawDesc :=
  let n := bytesNat (bs.take 128)
  { head := n, leases := (List.range (nleaseOf n)).map (fun k => bytesNat ((bs.drop (128 + 16 * k)).take 16)) }

/-- The descriptor. -/
def RawDesc.desc (r : RawDesc) : Desc := Desc.ofNat r.head (r.leases.map Lease.ofNat)

/-- The detail of its first invalid field (R332, R334). -/
def RawDesc.bad (r : RawDesc) : Option Nat := (descBad r.head).or (leaseBad r.leases)

/-! ### Slices (R333, R350) -/

/-- The identifier of a slice (R333). -/
def sliceWord (die num : Nat) : Word := word (die * 2 ^ 46 + num)

/-- Whether a slice is in its die's ready table (R338). -/
def Slice.inTable (sl : Slice) : Bool := sl.st == SliceState.ready || sl.st == SliceState.ending

/-- Slices in the ready table of a die. -/
def State.tableCount (s : State) (die : Nat) : Nat := s.slices.countP (fun p => p.2.die == die && p.2.num != 0 && p.2.inTable)

/-- Whether a die takes a slice now: it is ready, and its table has room (R20, R334, R394). -/
def State.dieTakes (s : State) (die : Nat) : Bool :=
  s.unitUp (.cd die) && !(s.disp die).quiesced && decide (s.tableCount die < Config.readySlices)

/-- A number for a new slice. -/
def State.newSlice (s : State) : Nat := s.slices.foldl (fun n p => max n p.1) 0 + 1

/-- A slice before it is enqueued. -/
def Slice.fresh (die ctx : Nat) (d : Desc) (who : Submitter) (io : Nat) (sysRel : Bool) : Slice :=
  { die := die, num := 0, ctx := ctx, desc := d, st := .pending, arrival := 0, nextCar := 0, retired := 0, who := who, io := io,
    sysRel := sysRel, endAt := 0, reported := false, owed := false, dogged := false }

/-- Enqueue slice `n`: the dispatcher counts it and it becomes READY (R333, R350). -/
def State.enqueue (s : State) (n : Nat) (sl : Slice) : State :=
  let d := s.disp sl.die
  let s1 := s.setDisp sl.die { d with launches := d.launches + 1 }
  { s1.setSlice n { sl with num := d.launches + 1, st := .ready, arrival := s.own.order } with
    own := { s.own with order := s.own.order + 1 } }

/-! ### LAUNCH (R334, R335) -/

/-- Whether one of a hart's leases contains a child's, with its rights and attributes. -/
def leaseCovers (ls : List Lease) (c : Lease) : Bool :=
  c.len == 0 || ls.any (fun l => decide (l.base ≤ c.base) && decide (c.base + c.len ≤ l.base + l.len) &&
    (!c.r || l.r) && (!c.w || l.w) && l.ns == c.ns && l.sc == c.sc && l.rd == c.rd)

/-- The detail of what the issuer does not cover (R334). -/
def uncovered (h : Hart) (parent d : Desc) : Option Nat :=
  ((d.leases.zipIdx.find? (fun l => !leaseCovers h.mem.leases l.1)).map (·.2)).or
    (if parent.codebase ≤ d.codebase ∧ d.codebase + d.codelen ≤ parent.codebase + parent.codelen then none else some 0x10)

/-- Read the descriptor at an address: its header is checked as 128 bytes, its leases as the rest (R334). -/
def State.readDesc (s : State) (k : HartKey) (g : Word) : Except Trap RawDesc :=
  match checkRange s k g 128 needR with
  | .error t => .error t
  | .ok l =>
    if g.toNat % 128 ≠ 0 then .error (engineTrap g 2 0)
    else
      match resolve s k g needR l with
      | .error t => .error t
      | .ok _ =>
        let i := CmdId.hart k 0
        let head := (s.getFor i g 128).map (·.1)
        let n := 16 * min 16 (nleaseOf (bytesNat head))
        match (if n = 0 then none else checkOnly s k (g + 128) n needR) with
        | some t => .error t
        | none => .ok (RawDesc.ofBytes (head ++ (s.getFor i (g + 128) n).map (·.1)))

/-- LAUNCH (R334). -/
def execLaunch (d a : Reg) (s : State) : Out :=
  let i := Instr.launch d a
  s.gate i (fun s =>
    let k := s.own.cur
    let g := s.h.readA a
    if winClass s k g = 6 then s.raise cWindow g 6
    else if !s.h.mem.pend.isEmpty then .next (s.waitOn i none none)
    else
      match s.readDesc k g with
      | .error t => s.trap t
      | .ok raw =>
        match raw.bad with
        | some o => s.trap (engineTrap g 3 o)
        | none =>
          let ds := raw.desc
          match uncovered s.h (s.sliceOf k).desc ds with
          | some o => s.trap (engineTrap g 10 o)
          | none =>
            let die := if ds.dieV then ds.die else k.die
            if !s.dieTakes die then s.waitOr i s.h.qwaitOf 0
            else
              let ctx := (s.sliceOf k).ctx
              let s1 := (s.leaseAll ctx ds).enqueue s.newSlice (Slice.fresh die ctx ds .hart 0 false)
              (s1.modH (fun h => h.writeA d (sliceWord die (s1.disp die).launches))).complete)

end Sys2Proof.Machine
end

