-- ==== Sys2Proof/Machine/Forest.lean ====
section
/-! DEFINITION. Forests of quadtrees and octrees: neighbours, ghosts, records, adaptation and cuts
(10_mesh R286 to R288, R295, R299 to R302, R306, R307, R309). -/

namespace Sys2Proof.Machine

/-- Side of a root cell at level-20 resolution. -/
def rootSide : Nat := 0x100000

/-- Side of a leaf. -/
def Leaf.side (l : Leaf) : Nat := 2 ^ (20 - l.level)

/-- A coordinate of the lower corner. -/
def Leaf.co (l : Leaf) (axis : Nat) : Nat := if axis = 0 then l.x else if axis = 1 then l.y else l.z

/-- Child number of a leaf in its parent (R287); 0 at level 0. -/
def Leaf.childNo (l : Leaf) : Nat :=
  if l.level = 0 then 0 else l.x / l.side % 2 + 2 * (l.y / l.side % 2) + 4 * (l.z / l.side % 2)

/-- Children of a cell. -/
def kids (dim3 : Bool) : Nat := if dim3 then 8 else 4

/-- Faces of a cell (R287). -/
def faceCount (dim3 : Bool) : Nat := if dim3 then 6 else 4

/-- Child `k` of a leaf (R287). -/
def Leaf.child (l : Leaf) (k : Nat) : Leaf :=
  let half := 2 ^ (19 - l.level)
  { l with x := l.x + half * (k % 2), y := l.y + half * (k / 2 % 2), z := l.z + half * (k / 4 % 2), level := l.level + 1 }

/-- The parent of a child 0. -/
def Leaf.parent (l : Leaf) : Leaf := { l with level := l.level - 1 }

/-! ### Faces (R295) -/

/-- The tangent axes of a face, in the order x, y, z. -/
def tangents (dim3 : Bool) (axis : Nat) : List Nat := (List.range (if dim3 then 3 else 2)).filter (· ≠ axis)

/-- The lower corner, in the neighbour's face coordinates, of a square of side `n` at (u, v). -/
def orientTo (dim3 : Bool) (o n : Nat) (uv : List Nat) : List Nat :=
  let N := rootSide
  if dim3 then
    let u := uv.getD 0 0
    let v := uv.getD 1 0
    match o with
    | 0 => [u, v]
    | 1 => [N - v - n, u]
    | 2 => [N - u - n, N - v - n]
    | 3 => [v, N - u - n]
    | 4 => [v, u]
    | 5 => [N - u - n, v]
    | 6 => [N - v - n, N - u - n]
    | _ => [u, N - v - n]
  else if o = 0 then [uv.getD 0 0] else [N - uv.getD 0 0 - n]

/-- The inverse of an orientation. -/
def orientInv (dim3 : Bool) (o : Nat) : Nat := if dim3 then (if o = 1 then 3 else if o = 3 then 1 else o) else o

/-- Where a leaf's face lies as its neighbours see it: the root, their face, the plane, the lower corner and
side of the square, and the orientation. -/
structure Patch where
  root   : Nat
  face   : Nat
  plane  : Nat
  lo     : List Nat
  side   : Nat
  orient : Nat
deriving DecidableEq, Repr, Inhabited

/-- The other face of the same axis. -/
def faceBack (f : Nat) : Nat := if f % 2 = 0 then f + 1 else f - 1

/-- The patch of face `f` of a leaf, or the boundary tag of a domain boundary (R295). -/
def Forest.patch (fo : Forest) (l : Leaf) (f : Nat) : Except Nat Patch :=
  let ax := f / 2
  let up := f % 2 = 1
  let uv := (tangents fo.dim3 ax).map l.co
  if up ∧ l.co ax + l.side < rootSide then .ok ⟨l.root, faceBack f, l.co ax + l.side, uv, l.side, 0⟩
  else if ¬up ∧ l.co ax > 0 then .ok ⟨l.root, faceBack f, l.co ax, uv, l.side, 0⟩
  else
    let rf := (fo.roots.getD l.root []).getD f default
    if rf.bnd then .error rf.btag
    else .ok ⟨rf.nroot, rf.nface, if rf.nface % 2 = 1 then rootSide else 0, orientTo fo.dim3 rf.orient l.side uv, l.side, rf.orient⟩

/-- Whether a leaf touches a patch. -/
def Patch.touches (p : Patch) (dim3 : Bool) (l : Leaf) : Bool :=
  let ax := p.face / 2
  l.root == p.root && (if p.face % 2 = 1 then l.co ax + l.side == p.plane else l.co ax == p.plane) &&
    ((tangents dim3 ax).zip p.lo).all (fun t => decide (l.co t.1 < t.2 + p.side) && decide (t.2 < l.co t.1 + l.side))

/-- Global indices of the leaves of a list that touch a patch, rising. -/
def touching (dim3 : Bool) (ls : List Leaf) (p : Patch) : List Nat :=
  (ls.zipIdx.filter (fun l => p.touches dim3 l.1)).map (·.2)

/-- Face neighbours of a leaf across one face; none on a boundary. -/
def Forest.across (fo : Forest) (l : Leaf) (f : Nat) : List Nat :=
  match fo.patch l f with
  | .error _ => []
  | .ok p => touching fo.dim3 fo.leaves p

/-- Face neighbours of a leaf. -/
def Forest.nbrs (fo : Forest) (l : Leaf) : List Nat := (List.range (faceCount fo.dim3)).flatMap (fo.across l)

/-! ### Partitions and ghosts (R288) -/

/-- The leaf of a global index. -/
def Forest.leaf (fo : Forest) (n : Nat) : Leaf := fo.leaves.getD n default

/-- First owned global index of a partition. -/
def firstOf (owners : List Nat) (p : Nat) : Nat := owners.countP (fun o => decide (o < p))

/-- Leaves that a partition owns. -/
def countOf (owners : List Nat) (p : Nat) : Nat := owners.countP (· == p)

/-- Who owns each leaf. -/
def Forest.owners (fo : Forest) : List Nat := fo.leaves.map (·.owner)

/-- Ghosts of a partition under given owners: global indices, rising. -/
def Forest.ghostsBy (fo : Forest) (owners : List Nat) (p : Nat) : List Nat :=
  (List.range fo.leaves.length).filter (fun n =>
    owners.getD n 0 != p && (fo.nbrs (fo.leaf n)).any (fun c => owners.getD c 0 == p))

/-- Ghosts of a partition. -/
def Forest.ghosts (fo : Forest) (p : Nat) : List Nat := fo.ghostsBy fo.owners p

/-- Slot of a leaf in a partition's arrays (R288). -/
def Forest.slot (fo : Forest) (p n : Nat) : Nat :=
  if (fo.leaf n).owner = p then n - firstOf fo.owners p
  else countOf fo.owners p + ((fo.ghosts p).findIdx? (· == n)).getD 0

/-! ### Records (R299, R300, R302) -/

/-- The record of cell `c` and one neighbour across face `f` (R299). -/
def Forest.nbrRecord (fo : Forest) (p c f : Nat) (pt : Patch) (n s : Nat) : Nat :=
  let me := fo.leaf c
  let it := fo.leaf n
  let ldiff := if it.level = me.level then 0 else if it.level < me.level then 1 else 2
  let sub := if ldiff = 2 then s else if ldiff = 1 then ((fo.across it pt.face).findIdx? (· == c)).getD 0 else 0
  fo.slot p n * 2 ^ 96 + (if c < n then 2 ^ 83 else 0) + (if it.owner = p then 0 else 2 ^ 82) + 2 ^ 80 +
    pt.face * 2 ^ 75 + pt.orient * 2 ^ 72 + ldiff * 2 ^ 70 + sub * 2 ^ 68 + f * 2 ^ 64 + n * 2 ^ 32 + c

/-- The boundary record of a face (R299). -/
def boundaryRecord (c f btag : Nat) : Nat :=
  0xFFFFFFFF * 2 ^ 96 + btag * 2 ^ 88 + 2 ^ 81 + 2 ^ 80 + 3 * 2 ^ 70 + f * 2 ^ 64 + 0xFFFFFFFF * 2 ^ 32 + c

/-- Record slots of a face (R300). -/
def perFace (dim3 : Bool) : Nat := if dim3 then 4 else 2

/-- The record slots of a face: each record with the neighbour it names (R300). -/
def Forest.faceRecords (fo : Forest) (p c f : Nat) : List (Nat × Option Nat) :=
  let rs := match fo.patch (fo.leaf c) f with
    | .error btag => [(boundaryRecord c f btag, none)]
    | .ok pt => (touching fo.dim3 fo.leaves pt).zipIdx.map (fun n => (fo.nbrRecord p c f pt n.1 n.2, some n.1))
  (rs ++ List.replicate (perFace fo.dim3) (0, none)).take (perFace fo.dim3)

/-- The record slots of a cell (R300). -/
def Forest.cellNbrs (fo : Forest) (p c : Nat) : List (Nat × Option Nat) :=
  (List.range (faceCount fo.dim3)).flatMap (fo.faceRecords p c)

/-- Interleaved coordinates (R302). -/
def morton (dim3 : Bool) (l : Leaf) : Nat :=
  (List.range 20).foldl (fun acc j =>
    if dim3 then acc + (l.x / 2 ^ j % 2 + 2 * (l.y / 2 ^ j % 2) + 4 * (l.z / 2 ^ j % 2)) * 2 ^ (3 * j)
    else acc + (l.x / 2 ^ j % 2 + 2 * (l.y / 2 ^ j % 2)) * 2 ^ (2 * j)) 0

/-- The cell record of a leaf (R302). -/
def Forest.cellRecord (fo : Forest) (p c : Nat) : Nat :=
  let l := fo.leaf c
  let ns := fo.nbrs l
  let edge := (List.range (faceCount fo.dim3)).any (fun f => match fo.patch l f with | .error _ => true | .ok _ => false)
  morton fo.dim3 l * 2 ^ 64 + (if ns.any (fun n => (fo.leaf n).owner != p) then 2 ^ 62 else 0) +
    (if ns.any (fun n => decide ((fo.leaf n).level > l.level)) then 2 ^ 61 else 0) + (if edge then 2 ^ 60 else 0) +
    l.childNo * 2 ^ 57 + l.level * 2 ^ 52 + l.root * 2 ^ 32 + c

/-! ### The root table (R295, R297) -/

/-- A face entry. -/
def RootFace.ofNat (n : Nat) : RootFace :=
  { btag := n / 2 ^ 28 % 256, bnd := n / 2 ^ 27 % 2 = 1, orient := n / 2 ^ 24 % 8, nface := n / 2 ^ 20 % 16, nroot := n % 2 ^ 20 }

/-- Whether face `f` of root `i` agrees with its neighbour (R295). -/
def faceConsistent (dim3 : Bool) (roots : List (List RootFace)) (i f : Nat) : Bool :=
  let e := (roots.getD i []).getD f default
  if !dim3 && decide (e.orient ≥ 2) then false
  else if e.bnd then true
  else
    let o := (roots.getD e.nroot []).getD e.nface default
    decide (e.nroot < roots.length) && decide (e.nface < faceCount dim3) &&
      !o.bnd && o.nroot == i && o.nface == f && o.orient == orientInv dim3 e.orient

/-- The first face entry that makes the table inconsistent: its root and face. -/
def badFace (dim3 : Bool) (roots : List (List RootFace)) : Option (Nat × Nat) :=
  ((List.range roots.length).flatMap (fun i => (List.range (faceCount dim3)).map (fun f => (i, f)))).find? (fun p => !faceConsistent dim3 roots p.1 p.2)

/-- One leaf per root (R297). -/
def rootLeaves (npart nroots : Nat) : List Leaf :=
  (List.range nroots).map (fun i => { root := i, x := 0, y := 0, z := 0, level := 0, owner := npart * i / nroots })

/-! ### Adaptation (R306) -/

/-- A leaf of the mesh being formed: its mark, and how it comes from an old leaf (R307). -/
structure Work where
  leaf : Leaf
  mark : Nat
  kind : Nat
  old  : Nat
  k    : Nat
deriving DecidableEq, Repr, Inhabited

/-- Refine one leaf. -/
def Work.split (dim3 : Bool) (w : Work) : List Work :=
  (List.range (kids dim3)).map (fun k => { leaf := w.leaf.child k, mark := 0, kind := 1, old := w.old, k := if w.kind = 1 then w.k else k })

/-- Step 2: old indices of the first leaves of the families that keep their coarsen marks. -/
def keptFamilies (dim3 : Bool) (ws : List Work) : List Nat :=
  (List.range ws.length).filter (fun n =>
    let fam := (ws.drop n).take (kids dim3)
    let w := ws.getD n default
    decide (fam.length = kids dim3) && decide (w.leaf.level > 0) &&
      fam.zipIdx.all (fun m => m.1.mark == 2 && m.1.leaf.level == w.leaf.level && m.1.leaf.root == w.leaf.root &&
        m.1.leaf.childNo == m.2 && m.1.leaf.owner == w.leaf.owner))

/-- Step 3: refine the marked leaves below level 20. -/
def refineMarked (dim3 : Bool) (ws : List Work) : List Work :=
  ws.flatMap (fun w => if w.mark = 1 ∧ w.leaf.level < 20 then w.split dim3 else [w])

/-- Levels of a leaf's face neighbours among the leaves being formed. -/
def workLevels (fo : Forest) (ws : List Work) (l : Leaf) : List Nat :=
  let g := { fo with leaves := ws.map Work.leaf }
  (g.nbrs l).map (fun n => (g.leaf n).level)

/-- Step 4: refine while a leaf has a neighbour two levels finer; also the owners of the cells refined. -/
def balance (fo : Forest) : Nat → List Work × List Nat → List Work × List Nat
  | 0, r => r
  | fuel + 1, (ws, own) =>
    let late : List Work := ws.filter (fun w => (workLevels fo ws w.leaf).any (fun n => decide (n ≥ w.leaf.level + 2)))
    if late.isEmpty then (ws, own)
    else balance fo fuel (ws.flatMap (fun w => if late.contains w then w.split fo.dim3 else [w]), own ++ late.map (·.leaf.owner))

/-- Step 5: whether the leaves at the head are a kept family that may be coarsened in the mesh of step 4. -/
def mayCoarsen (fo : Forest) (all : List Work) (kept : List Nat) (ws : List Work) : Bool :=
  let fam := ws.take (kids fo.dim3)
  match ws with
  | [] => false
  | w :: _ => w.kind == 0 && kept.contains w.old && decide (fam.length = kids fo.dim3) &&
      fam.zipIdx.all (fun m => m.1.kind == 0 && m.1.old == w.old + m.2) &&
      fam.all (fun m => (workLevels fo all m.leaf).all (fun n => decide (n ≤ w.leaf.level)))

/-- Step 5: coarsen the families that may be; also their owners. -/
def coarsen (fo : Forest) (all : List Work) (kept : List Nat) : Nat → List Work → List Work × List Nat
  | 0, ws => (ws, [])
  | _, [] => ([], [])
  | fuel + 1, w :: t =>
    if mayCoarsen fo all kept (w :: t) then
      let r := coarsen fo all kept fuel ((w :: t).drop (kids fo.dim3))
      ({ leaf := w.leaf.parent, mark := 0, kind := 2, old := w.old, k := 0 } :: r.1, w.leaf.owner :: r.2)
    else
      let r := coarsen fo all kept fuel t
      (w :: r.1, r.2)

/-- The new generation: its leaves with their origins, and the owners of the cells refined by marks,
refined for balance, and of the families coarsened. -/
structure Adapted where
  ws        : List Work
  refined   : List Nat
  balanced  : List Nat
  coarsened : List Nat
deriving DecidableEq, Repr, Inhabited

/-- Steps 2 to 6 of R306. -/
def Forest.adapt (fo : Forest) (marks : List Nat) : Adapted :=
  let ws := fo.leaves.zipIdx.map (fun l => ({ leaf := l.1, mark := marks.getD l.2 0, kind := 0, old := l.2, k := 0 } : Work))
  let b := balance fo 64 (refineMarked fo.dim3 ws, [])
  let c := coarsen fo b.1 (keptFamilies fo.dim3 ws) (b.1.length + 1) b.1
  { ws := c.1, refined := (ws.filter (fun w => w.mark = 1 ∧ w.leaf.level < 20)).map (fun (w : Work) => w.leaf.owner), balanced := b.2, coarsened := c.2 }

/-- The remap record of new leaf `n` (R307). -/
def Work.remap (w : Work) (n : Nat) : Nat := w.k * 2 ^ 67 + w.kind * 2 ^ 64 + w.old * 2 ^ 32 + n

/-! ### Cutting (R309) -/

/-- Sum of naturals. -/
def sumNat (l : List Nat) : Nat := l.foldl (· + ·) 0

/-- Owners by weight: partition min(NPART − 1, ⌊NPART · S / W⌋). -/
def cutBy (npart total : Nat) : Nat → List Nat → List Nat
  | _, [] => []
  | s, w :: t => min (npart - 1) (npart * s / total) :: cutBy npart total (s + w) t

/-- The cut for a list of weights; without weight each leaf counts as 1. -/
def cutOwners (npart : Nat) (ws : List Nat) : List Nat :=
  if sumNat ws = 0 then cutBy npart ws.length 0 (List.replicate ws.length 1) else cutBy npart (sumNat ws) 0 ws

end Sys2Proof.Machine
end

