-- ==== Sys2Proof/Machine/Control.lean ====
section
/-! DEFINITION. Branches, jumps and hardware loops (03_scalar R84 to R91, 11_tasks R322), ECALL, ERET,
BRK, WFE (R100 to R102, 12_system R365), FENCE and FENCEI (05_order R159 to R162). -/

namespace Sys2Proof.Machine

/-! ### Branches and jumps (R84, R85, R43) -/

/-- The address `off` words away from the running instruction. -/
def relTarget (pc off : Word) : Word := pc + (off <<< 2)

/-- A conditional branch. -/
def State.branch (s : State) (i : Instr) (a b : Reg) (off : BitVec 12) (f : Word → Word → Bool) : Out :=
  s.gate i (fun s =>
    let fs : List Fld := [.s a, .s b]
    s.withQueues i fs none none (fun s =>
      let s1 := s.popAll fs
      if f (s.fld fs 0) (s.fld fs 1) then s1.jump (relTarget s.seq.pc (off.signExtend 64)) true
      else s1.complete))

/-- BEQ (R84). -/
def execBeq (a b : Reg) (off : BitVec 12) (s : State) : Out := s.branch (.beq a b off) a b off (fun x y => x == y)

/-- BNE (R84). -/
def execBne (a b : Reg) (off : BitVec 12) (s : State) : Out := s.branch (.bne a b off) a b off (fun x y => x != y)

/-- BLT (R84). -/
def execBlt (a b : Reg) (off : BitVec 12) (s : State) : Out := s.branch (.blt a b off) a b off (fun x y => x.slt y)

/-- BGE (R84). -/
def execBge (a b : Reg) (off : BitVec 12) (s : State) : Out := s.branch (.bge a b off) a b off (fun x y => !x.slt y)

/-- BLTN (R84). -/
def execBltn (a b : Reg) (off : BitVec 12) (s : State) : Out := s.branch (.bltn a b off) a b off (fun x y => x.ult y)

/-- BGEN (R84). -/
def execBgen (a b : Reg) (off : BitVec 12) (s : State) : Out := s.branch (.bgen a b off) a b off (fun x y => !x.ult y)

/-- Whether a field names XLINK: 29 on the X side (R43). -/
def namesXlink (sd : Side) (r : Reg) : Bool := sd == .X && r == 29

/-- JAL (R85): a D of 29 names XLINK on the X side. -/
def execJal (d : Reg) (off : BitVec 20) (s : State) : Out :=
  s.gate (.jal d off) (fun s =>
    let link := s.seq.pc + 4
    let t := relTarget s.seq.pc (off.signExtend 64)
    if namesXlink s.own.side d then
      (s.modH (fun h => { h with csr := { h.csr with xlink := link } })).jump t true
    else s.withQueues (.jal d off) [] (some d) none (fun s => (s.writeR d link).jump t true))

/-- JALR (R85): an A field of 29 names XLINK on the X side; the read of a comes before the write of d. -/
def execJalr (d a : Reg) (imm : BitVec 15) (s : State) : Out :=
  s.gate (.jalr d a imm) (fun s =>
    let fs : List Fld := if namesXlink s.own.side a then [] else [.s a]
    s.withQueues (.jalr d a imm) fs (some d) none (fun s =>
      let base := if namesXlink s.own.side a then s.h.csr.xlink else s.fld fs 0
      ((s.popAll fs).writeR d (s.seq.pc + 4)).jump (align4 (base + imm.signExtend 64)) true))

/-! ### Hardware loops (R87 to R91) -/

/-- The loop instruction of R87 with its count; `s` is the state with the count's field popped. -/
def State.startLoop (s : State) (count : Word) (e : BitVec 12) : Out :=
  let q := s.seq
  let stop := q.pc + (e.zeroExtend 64 <<< 2)
  if count = 0 then s.jump (stop + 4) false
  else (s.setSeq { q with loops := ⟨q.pc + 4, stop, count, 0⟩ :: q.loops }).complete

/-- Whether a loop instruction may not run here: at the end address of the top entry (R89), or with a
nonzero count on a full stack (R87). -/
def Seq.loopBad (q : Seq) (count : Word) : Bool := atEnd q || (count != 0 && decide (q.loops.length ≥ Config.loopDepth))

/-- LOOP (R87). -/
def execLoop (a : Reg) (e : BitVec 12) (s : State) : Out :=
  s.gate (.loop a e) (fun s =>
    if atEnd s.seq then s.illegal 0
    else s.withQueues (.loop a e) [.s a] none none (fun s =>
      if s.seq.loopBad (s.fld [.s a] 0) then s.illegal 0
      else (s.popAll [.s a]).startLoop (s.fld [.s a] 0) e))

/-- LOOPI (R87). -/
def execLoopi (count : BitVec 13) (e : BitVec 12) (s : State) : Out :=
  s.gate (.loopi count e) (fun s =>
    if s.seq.loopBad (count.zeroExtend 64) then s.illegal 0
    else s.startLoop (count.zeroExtend 64) e)

/-- LIDX (R91). -/
def execLidx (d : Reg) (l : BitVec 5) (s : State) : Out :=
  s.alu0 (.lidx d l) d (match s.seq.loops[l.toNat]? with | some e => e.index | none => 0)

/-- LBRK (R91). -/
def execLbrk (l : BitVec 5) (s : State) : Out :=
  s.gate (.lbrk l) (fun s =>
    match s.seq.loops[l.toNat]? with
    | some e => (s.setSeq { s.seq with loops := s.seq.loops.drop (l.toNat + 1) }).jump (e.stop + 4) false
    | none => s.illegal 0)

/-! ### System words (R100 to R102, R365) -/

/-- Complete, then raise a cause; the resume address is that of the next instruction (R101). The trap is taken before the
side could stop at the yield point of a back-edge, and the side runs on after ERET (log 76). -/
def State.completeAndRaise (s : State) (cause : Nat) : Out :=
  let s1 := s.setSeq s.seq.advance
  .next (s1.takeTrap ⟨cause, 0, 0⟩ s1.seq.npc)

/-- ECALL (R100, R101). -/
def execEcall (s : State) : Out := s.gate .ecall (fun s => s.completeAndRaise cEcall)

/-- BRK (R100, R101). -/
def execBrk (s : State) : Out := s.gate .brk (fun s => s.completeAndRaise cBreak)

/-- ERET (R365). -/
def execEret (s : State) : Out := s.gate .eret (fun s => .next (s.modH Hart.eret))

/-- WFE (R102). -/
def execWfe (s : State) : Out :=
  s.gate .wfe (fun s =>
    if s.h.event then (s.modH (fun h => { h with event := false })).complete
    else s.waitOr .wfe s.h.qwaitOf 0)

/-! ### Fences (R159 to R162) -/

/-- The handle of a command (R264). -/
def handleOf (k : HartKey) (seq : Nat) : Word := word (k.slot * 2 ^ 40 + k.idx * 2 ^ 38 + seq)

/-- The oldest of a hart's commands that has not ended; records stand in order of issue. -/
def Hart.oldest (h : Hart) : Option HRec := (h.eng.recs.find? (fun p => !p.2.over)).map (·.2)

/-- Whether PRED holds an access of the hart that has not been performed: a store under W, the reads of a VSTXADD
under R (R159). A deferred load or AMO is never passed by a FENCE (log 11). -/
def HartMem.fenced (m : HartMem) (pred : BitVec 3) : Bool :=
  m.pend.any (fun p => pred.getLsbD 1 || (pred.getLsbD 0 && (match p.kind with | .add _ => true | _ => false)))

/-- FENCE (R159, R160): PRED's accesses, then PRED's engine commands, with the limit of R160. -/
def execFence (pred succ : BitVec 3) (scope : Scope) (s : State) : Out :=
  let i := Instr.fence pred succ scope
  s.gate i (fun s =>
    if s.h.mem.fenced pred then .next (s.waitOn i none none)
    else
      match (if pred.getLsbD 2 then s.h.oldest else none) with
      | some r => s.waitOr i s.h.qwaitOf (handleOf s.own.cur r.seq)
      | none => s.complete)

/-- FENCEI (R162): both instruction caches of the hart are invalidated. -/
def execFencei (s : State) : Out :=
  s.gate .fencei (fun s =>
    if !s.h.mem.pend.isEmpty then .next (s.waitOn .fencei none none)
    else (s.modH (fun h => { h with icache := [] })).complete)

end Sys2Proof.Machine
end

