-- ==== Sys2Proof/Machine/Copy.lean ====
section
/-! DEFINITION. The copy-engine instructions (09_copy R261 to R285): CPY, DUE, WAITD, WAITH, CPYST, ABINIT
and WAITAB. -/

namespace Sys2Proof.Machine

/-! ### Handles (R264, R265) -/

/-- The SEQ after one (R264). -/
def nextSeq (n : Nat) : Nat := if n = 0xFFFFFFFF then 0x40 else n + 1

/-- Whether the hart has given a SEQ to a command (R265). -/
def Hart.given (h : Hart) (n : Nat) : Bool := n != 0 && (h.eng.wrapped || decide (n ≤ h.eng.lastSeq))

/-- Whether a handle is valid for a hart (R265). -/
def validHandle (k : HartKey) (h : Hart) (v : Word) : Bool :=
  v.extractLsb' 48 16 == 0 && v.extractLsb' 32 6 == 0 && (v.extractLsb' 40 8).toNat == k.slot &&
    (v.extractLsb' 38 2).toNat == k.idx && h.given (v.extractLsb' 0 32).toNat

/-- The record of a handle, none when it has expired, or ENGINE subcode 1 (R265). -/
def State.lookup (s : State) (v : Word) : Except Trap (Option HRec) :=
  if validHandle s.own.cur s.h v then .ok (s.cmd (.hart s.own.cur (v.extractLsb' 0 32).toNat))
  else .error (engineTrap v 1 0)

/-- The record that the next command would reuse while its command runs (R266, R267, R291). -/
def State.recordBusy (s : State) : Option HRec :=
  match kvGet s.h.eng.recs (nextSeq s.h.eng.lastSeq % Config.records) with
  | some r => if r.over then none else some r
  | none => none

/-- Give the running hart's next SEQ to a record (R264); records stand in order of issue. -/
def State.bindRec (s : State) (r : HRec) (cpys : Nat) : State :=
  s.modH (fun h => { h with eng := { h.eng with
    lastSeq := r.seq, wrapped := h.eng.wrapped || decide (r.seq < h.eng.lastSeq), cpys := cpys,
    recs := kvDel h.eng.recs (r.seq % Config.records) ++ [(r.seq % Config.records, r)] } })

/-- A wait limit: b tk, or QWAIT when B names a0 (R271). -/
def State.limitOf (s : State) (b : Reg) : Nat := if b = 0 then s.h.qwaitOf else (s.h.readA b).toNat

/-! ### The checks of a block (R262, R263, R277, R428) -/

/-- The format checks that need no hart: the byte offset of the word that holds the first bad field, in the model's order:
reserved bits by rising offset, then ROWS and LEN, then the fields of the word at 32 (log 33). -/
def copyFormat (n : Nat) (b : CopyBlock) : Option Nat :=
  match reservedAt n 8 copyReserved with
  | some o => some o
  | none =>
    if b.rows = 0 ∨ b.rows > 2 ^ 24 ∨ b.total ≥ 2 ^ 40 then some 16
    else if b.scope > 4 ∨ b.csum = 3 ∨ b.rdir = 3 then some 32
    else if b.cmp ∧ b.csum = 0 then some 32
    else none

/-- The record of the k-th earlier CPY of a hart, while it is live (R262). -/
def Hart.cpyBack (h : Hart) (k : Nat) : Option HRec :=
  (h.eng.recs.find? (fun p => p.2.isCopy && p.2.cpyNo + k == h.eng.cpys + 1)).map (·.2)

/-- The format checks that need the hart (R262). A condition on DST together with MCAST or ABV names the word at 32, which
holds these (log 33). -/
def State.copyFields (s : State) (k : HartKey) (b : CopyBlock) : Option Nat :=
  let dc := winClass s k b.dst
  if b.chainbk ≠ 0 ∧ ((s.hart k).eng.cpys < b.chainbk ∨ ((s.hart k).cpyBack b.chainbk).isNone) then some 32
  else if b.receivers.any (fun i => decide (i ≥ (s.caravan k).size)) then some 32
  else if b.mcast ≠ 0 ∧ ((dc ≠ 2 ∧ dc ≠ 4) ∨ b.rdir = 1) then some 32
  else if b.abv ∧ ((dc ≠ 2 ∧ dc ≠ 4) ∨ b.rdir = 1) then some 32
  else if b.abv ∧ b.aboff % 16 ≠ 0 then some 40
  else if b.rdir ≠ 0 ∧ (s.rwin (s.sliceOf k).ctx b.rwin).len = 0 then some 32
  else none

/-- Whether a remote range lies in its window with the right needed (R277). -/
def RWin.admits (w : RWin) (g : Word) (n : Nat) (need : Need) : Bool :=
  (!need.r || w.r) && (!need.w || w.w) && decide (w.base ≤ g.toNat) && decide (g.toNat + n ≤ w.base + w.len)

/-- Whether a test holds for every 64 KiB page of a global range; an empty range has none. -/
def pagesAll (g : Word) (n : Nat) (ok : Word → Bool) : Bool :=
  n == 0 || (List.range ((g.toNat % 0x10000 + n + 0xFFFF) / 0x10000)).all (fun p =>
    ok (if p = 0 then g else g - word (g.toNat % 0x10000) + word (p * 0x10000)))

/-- Whether every 64 KiB page of a global range has a translation. -/
def State.pagesOk (s : State) (i : CmdId) (g : Word) (n : Nat) (need : Need) : Bool :=
  pagesAll g n (fun a => (s.keyFor i a need).isSome)

/-- The check of one local range as one element of R110 without alignment (R263). -/
def State.checkLocal (s : State) (k : HartKey) (g : Word) (n : Nat) (need : Need) : Option Trap :=
  let c := winClass s k g
  if c ≠ 0 ∧ c ≠ 1 ∧ c ≠ 2 ∧ c ≠ 4 then some ⟨cWindow, g, word c⟩
  else
    match checkOnly s k g n need with
    | some t => some t
    | none => if c = 0 ∧ !s.pagesOk (.hart k 0) g n need then some ⟨cLease, g, 2⟩ else none

/-- The check of one range, which lies on a peer when there is a window (R277). -/
def State.checkRow (s : State) (k : HartKey) (w : Option RWin) (g : Word) (n : Nat) (need : Need) : Option Trap :=
  match w with
  | some w => if w.admits g n need then none else some ⟨cLease, g, 4⟩
  | none => s.checkLocal k g n need

/-- The check of a destination row; under MCAST its offset in each receiver's scratchpad. -/
def State.checkDst (s : State) (k : HartKey) (b : CopyBlock) (w : Option RWin) (r : Nat) : Option Trap :=
  let g := b.dstRow r
  if b.mcast = 0 then s.checkRow k w g b.len needW
  else if winClass s k g ≠ 2 ∧ winClass s k g ≠ 4 then some ⟨cWindow, g, word (winClass s k g)⟩
  else b.receivers.findSome? (fun i => s.checkLocal k (clusterAddr k i (gOff g)) b.len needW)

/-- The harts at which a copy's arrivals count (R263, R279). -/
def arrivalHarts (s : State) (k : HartKey) (b : CopyBlock) : List Nat :=
  if b.mcast = 0 then [(spadHart k (winClass s k b.dst) b.dst).idx] else b.receivers

/-- The range checks of R263: source rows, destination rows, arrived-byte objects. -/
def State.copyRanges (s : State) (k : HartKey) (b : CopyBlock) : Option Trap :=
  let w := s.rwin (s.sliceOf k).ctx b.rwin
  let ws := if b.rdir = 2 then some w else none
  let wd := if b.rdir = 1 then some w else none
  ((List.range b.rows).findSome? (fun r => s.checkRow k ws (b.srcRow r) b.len needR)).or
    (((List.range b.rows).findSome? (fun r => s.checkDst k b wd r)).or
      (if b.abv then (arrivalHarts s k b).findSome? (fun i => s.checkLocal k (clusterAddr k i b.aboff) 16 needW) else none))

/-- All checks of a hart's block; its predecessor when it is chained. -/
def State.copyCheck (s : State) (k : HartKey) (g : Word) (n : Nat) (b : CopyBlock) : Except Trap (Option HRec) :=
  match (copyFormat n b).or (s.copyFields k b) with
  | some o => .error (engineTrap g 3 o)
  | none =>
    match s.copyRanges k b with
    | some t => .error t
    | none => .ok (if b.chainbk = 0 then none else (s.hart k).cpyBack b.chainbk)

/-! ### Acceptance (R260, R266, R284) -/

/-- The scratchpad windows. -/
def inSpad (g : Word) : Bool := gTop g == 0xF1 || gTop g == 0xF2

/-- The record of an accepted copy and all bookings. While a chained copy is QUEUED its initial value is not known, and its
result shows 0 (log 94). -/
def State.copyRec (s : State) (i : CmdId) (n cpyNo : Nat) (j : CopyJob) (pred : Option HRec) : HRec × List Booking :=
  let bk := s.book i j pred
  let wait := match pred with | some p => !p.over | none => false
  let start := match pred with | some p => if p.over then p.result else 0 | none => j.blk.seed
  let due := match bk.1 with | some d => d.1 | none => dueNever
  ({ seq := n, cpyNo := cpyNo, st := if wait then .queued else .moving, status := 0, result := 0, due := due,
     unbooked := bk.1.isNone, late := false, poisoned := false, intoSp := j.blk.rdir != 1 && inSpad j.blk.dst,
     job := .copy { j with sum := start, pred := pred.map (·.seq),
                           first := match bk.1 with | some d => d.2 | none => 0,
                           cause := if bk.1.isSome then 0 else 6 } },
   bk.2)

/-- What an accepted copy comes to at once: CHAINFAIL after a failed predecessor, LINK where its path is not
ready (R394), DONE without bytes (R284). -/
def State.settleCopy (s : State) (i : CmdId) (pred : Option HRec) : State :=
  match s.cmd i with
  | some r =>
    match r.job with
    | .copy j =>
      if (match pred with | some p => p.st == HState.failed | none => false) then s.endCmd i 0x05 0
      else if !s.pathUp i j then s.endCmd i 0x04 r.sumNow
      else if r.st = HState.moving ∧ j.blk.total = 0 then
        s.endCmd i (if j.blk.cmp && r.sumNow != j.blk.want then 0x01 else 0) r.sumNow
      else s
    | _ => s
  | none => s

/-- Mark STICKY bits (R109). -/
def State.stick (s : State) (k : HartKey) (m : BitVec 4) : State :=
  s.modHart k (fun h => { h with csr := { h.csr with sticky := h.csr.sticky ||| m } })

/-- A job for a block, before it is booked. -/
def newCopy (block : Word) (io cluster : Nat) (b : CopyBlock) (w : Option RWin) : CopyJob :=
  { block := block, io := io, cluster := cluster, blk := b, win := w, pred := none, first := 0, rowNo := 0,
    rowOff := 0, sum := 0, part := [], cause := 0, psnOut := false }

/-- Accept the running hart's block: its handle and the state (R266). -/
def State.acceptCopy (s : State) (g : Word) (b : CopyBlock) (pred : Option HRec) : Word × State :=
  let k := s.own.cur
  let n := nextSeq s.h.eng.lastSeq
  let i := CmdId.hart k n
  let w := if b.rdir = 0 then none else some (s.rwin (s.sliceOf k).ctx b.rwin)
  let r := s.copyRec i n (s.h.eng.cpys + 1) (newCopy g (ioOf k.die) (s.coreOf k / 4 % 32) b w) pred
  let s1 := ({ s with books := r.2 }).bindRec r.1 (s.h.eng.cpys + 1)
  let s2 := if r.1.unbooked then s1.stick k 8 else s1
  (handleOf k n, s2.settleCopy i pred)

/-- CPY (R266). A poisoned granule of the block is read as its bytes stand (log 94). -/
def execCpy (d a : Reg) (s : State) : Out :=
  let i := Instr.cpy d a
  s.gate i (fun s =>
    let k := s.own.cur
    let g := s.h.readA a
    let c := winClass s k g
    if c > 2 then s.raise cWindow g (word c)
    else
      match checkRange s k g 64 needRW with
      | .error t => s.trap t
      | .ok l =>
        if g.toNat % 64 ≠ 0 then s.trap (engineTrap g 2 0)
        else
          match resolve s k g needRW l with
          | .error t => s.trap t
          | .ok p =>
            match s.recordBusy with
            | some r => s.waitOr i s.h.qwaitOf (handleOf k r.seq)
            | none =>
              let n := bytesNat (memBytes s.mem p.key 64)
              let b := CopyBlock.ofNat n
              if b.acq && !s.h.mem.pend.isEmpty then .next (s.waitOn i none none)
              else
                match s.copyCheck k g n b with
                | .error t => s.trap t
                | .ok pred =>
                  let r := s.acceptCopy g b pred
                  (r.2.modH (fun h => h.writeA d r.1)).complete)

/-! ### DUE and CPYST (R270, R289) -/

/-- Run on the record of the handle in a. -/
def State.withHandle (s : State) (i : Instr) (a : Reg) (f : State → Option HRec → Out) : Out :=
  s.gate i (fun s =>
    match s.lookup (s.h.readA a) with
    | .error t => s.trap t
    | .ok r => f s r)

/-- DUE (R270). -/
def execDue (d a : Reg) (s : State) : Out :=
  s.withHandle (.due d a) a (fun s r =>
    (s.modH (fun h => h.writeA d (word (match r with | some c => c.due | none => 0)))).complete)

/-- STATE of CPYST (R270). -/
def HState.code : HState → Nat
  | .queued => 0
  | .moving => 1
  | .done => 2
  | .failed => 3

/-- The word of CPYST (R270). -/
def HRec.word (r : HRec) : Word :=
  Machine.word ((if r.over then r.status else 0) * 2 ^ 40 + r.st.code * 2 ^ 37 + (if r.unbooked then 2 ^ 36 else 0) +
    (if r.poisoned then 2 ^ 35 else 0) + (if r.late then 2 ^ 34 else 0) + r.sumNow.toNat)

/-- CPYST (R270). -/
def execCpyst (d a : Reg) (s : State) : Out :=
  s.withHandle (.cpyst d a) a (fun s r =>
    (s.modH (fun h => h.writeA d (match r with | some c => c.word | none => Machine.word (7 * 2 ^ 37)))).complete)

/-! ### WAITH and WAITD (R271, R272) -/

/-- What a wait raises for a command that has failed: INTEGRITY for MISMATCH, else ENGINE subcode 4. -/
def endedTrap (v : Word) (r : HRec) : Trap :=
  match r.job with
  | .copy j =>
    if r.status = 1 then ⟨cIntegrity, v, word (j.blk.want.toNat * 2 ^ 32 + r.result.toNat)⟩
    else engineTrap v 4 r.status
  | _ => engineTrap v 4 r.status

/-- A wait finds its command ended. -/
def State.onEnded (s : State) (v : Word) (r : HRec) : Out :=
  if r.st = .done then s.complete else s.trap (endedTrap v r)

/-- WAITH (R271). -/
def execWaith (a b : Reg) (s : State) : Out :=
  s.withHandle (.waith a b) a (fun s r =>
    match r with
    | none => s.complete
    | some c => if c.over then s.onEnded (s.h.readA a) c else s.waitOr (.waith a b) (s.limitOf b) (s.h.readA a))

/-- Bytes that have landed. -/
def CopyJob.landed (j : CopyJob) : Nat := j.rowNo * j.blk.len + j.rowOff

/-- LATECAUSE of a copy (R272, R274): where no other cause is known, the peer or the host link on its path. -/
def State.copyCause (s : State) (i : CmdId) (r : HRec) (j : CopyJob) : Nat :=
  if r.unbooked then 6
  else if j.cause ≠ 0 then j.cause
  else if s.slowSlot i then 1
  else if r.st = .queued then 4
  else if j.win.isSome then 5
  else if s.mayStall i j then 3
  else 0

/-- The copies of the convoys that a partition sends or receives, not yet ended (R289, R310). -/
def State.convoysOf (s : State) (j : MeshJob) : List (CmdId × HRec × CopyJob) :=
  match kvGet s.meshes j.num with
  | none => []
  | some m => s.legs.filterMap (fun p =>
      match p.2.hrec with
      | some r =>
        match r.job with
        | .copy c =>
          if p.2.forest == m.forest && p.2.round == j.round && p.2.convoy.any (fun x => x.1 == m.desc.part || x.2 == m.desc.part) &&
              !r.over then some (.topo p.2.die p.1, r, c) else none
        | _ => none
      | none => none)

/-- LATECAUSE (R272, R289): an MMIG's is that of its first convoy copy that has one. -/
def State.lateCause (s : State) (i : CmdId) (r : HRec) : Nat :=
  match r.job with
  | .copy j => s.copyCause i r j
  | .mesh j => if r.unbooked then 6 else (((s.convoysOf j).map (fun c => s.copyCause c.1 c.2.1 c.2.2)).find? (· != 0)).getD 0
  | .baz _ => 6

/-- Bytes of a command's copies that have not landed (R272). -/
def State.remain (s : State) (r : HRec) : Nat :=
  match r.job with
  | .copy j => j.blk.total - j.landed
  | .mesh j => (s.convoysOf j).foldl (fun n c => n + (c.2.2.blk.total - c.2.2.landed)) 0
  | .baz _ => 0

/-- The report of OVERDUE (R272). -/
def State.overdueTrap (s : State) (v : Word) (r : HRec) : Trap :=
  ⟨cOverdue, v, word (s.lateCause (.hart s.own.cur r.seq) r * 2 ^ 32 + min (s.remain r) 0xFFFFFFFF)⟩

/-- WAITD (R272). -/
def execWaitd (a : Reg) (s : State) : Out :=
  s.withHandle (.waitd a) a (fun s r =>
    let v := s.h.readA a
    match r with
    | none => s.complete
    | some c =>
      if c.due = dueNever then s.trap (s.overdueTrap v c)
      else if c.over then s.onEnded v c
      else if s.now ≥ c.due then s.trap (s.overdueTrap v c)
      else .next (s.waitOn (.waitd a) none none))

/-! ### Arrived-byte objects (R278 to R281) -/

/-- The checks of ABINIT and WAITAB on the object's address (R280): its offset in the hart's scratchpad. -/
def State.objAt (s : State) (g : Word) : Except Trap Nat :=
  let k := s.own.cur
  let c := winClass s k g
  if !windowOk s k g 16 then .error ⟨cWindow, g, word c⟩
  else if c ≠ 2 then .error (engineTrap g 5 c)
  else if g.toNat % 16 ≠ 0 then .error (engineTrap g 2 0)
  else .ok (gOff g)

/-- ABINIT (R280). -/
def execAbinit (d a b : Reg) (s : State) : Out :=
  s.gate (.abinit d a b) (fun s =>
    let g := s.h.readA a
    let tag := s.h.readA d
    let want := s.h.readA b
    match s.objAt g with
    | .error t => s.trap t
    | .ok off =>
      if tag = 0 ∨ tag.toNat ≥ 2 ^ 32 ∨ want = 0 ∨ want.toNat ≥ 2 ^ 32 then s.trap (engineTrap g 6 0)
      else
        let p : Place := { key := keySpad s.own.cur off, cls := 2, rd := none, sc := false, ns := false, dev := 0 }
        let bytes := whole (natBytes (tag.toNat + want.toNat * 2 ^ 32) 16)
        if s.mustWait [(p, 16)] false then .next (s.waitOn (.abinit d a b) none none)
        else (s.storePlace p bytes .clear .abinit false s.own.defer).complete)

/-- WAITAB (R281). A poisoned granule of the object is read as its bytes stand (log 94). -/
def execWaitab (a b : Reg) (s : State) : Out :=
  let i := Instr.waitab a b
  s.gate i (fun s =>
    let g := s.h.readA a
    match s.objAt g with
    | .error t => s.trap t
    | .ok off =>
      let key := keySpad s.own.cur off
      if s.h.csr.sticky.getLsbD 1 then s.raise cOrphan g 0
      else if s.h.mem.pend.any (fun o => o.hits key 16) then .next (s.waitOn i none none)
      else
        let x := memGet s.mem (key + 12)
        if x.getLsbD 0 = x.getLsbD 1 then (s.put (key + 12) [(x ^^^ 2, 0xFF)] .keep).complete
        else s.waitOr i (s.limitOf b) g)

end Sys2Proof.Machine
end

