-- ==== Sys2Proof/Machine/Landing.lean ====
section
/-! DEFINITION. Copies in motion (09_copy R268, R274 to R279, R284) and accesses of peers (13_device
R401). -/

namespace Sys2Proof.Machine

/-! ### Checksums (R276) -/

/-- One byte of CRC-32C, bit-reflected. -/
def crcByte (crc : BitVec 32) (x : Byte) : BitVec 32 :=
  (List.range 8).foldl (fun c _ => if c.getLsbD 0 then (c >>> 1) ^^^ 0x82F63B78 else c >>> 1) (crc ^^^ x.zeroExtend 32)

/-- CRC-32C of a stream continued from a result. -/
def crc32c (start : BitVec 32) (bs : List Byte) : BitVec 32 := ~~~(bs.foldl crcByte (~~~start))

/-- WSUM32: the sum with the whole words of a stream, and the bytes of the word not yet whole. -/
def wsum32 (sum : BitVec 32) (part : List Byte) : List Byte → BitVec 32 × List Byte
  | [] => (sum, part)
  | b :: t =>
    if part.length = 3 then wsum32 (sum + BitVec.ofNat 32 (bytesNat (part ++ [b]))) [] t
    else wsum32 sum (part ++ [b]) t

/-- The checksum after more bytes. -/
def CopyJob.addSum (j : CopyJob) (bs : List Byte) : CopyJob :=
  match j.blk.csum with
  | 1 => let r := wsum32 j.sum j.part bs; { j with sum := r.1, part := r.2 }
  | 2 => { j with sum := crc32c j.sum bs }
  | _ => j

/-! ### Arrivals (R279) -/

/-- Count `n` landed bytes at a hart's arrived-byte object, or drop the arrival and set ORPHAN. A poisoned granule of the
object is read as its bytes stand, and the bytes written are clean (log 94). -/
def State.arrive (s : State) (k : HartKey) (off : Nat) (tag : BitVec 32) (n : Nat) : State :=
  let key := keySpad k off
  let at4 := fun (o : Nat) => bytesNat (memBytes s.mem (key + o) 4)
  if tag = 0 ∨ at4 0 ≠ tag.toNat then s.stick k 2
  else
    let x := at4 8 + n
    let ph := memGet s.mem (key + 12) &&& 3
    let hit := decide (x ≥ at4 4)
    let v := natBytes (if hit then x - at4 4 else x) 4 ++ [if hit then ph ^^^ 1 else ph, 0, 0, 0]
    (s.put (key + 8) (whole v) .clear).setEvent k

/-! ### A chunk (R275) -/

/-- The bytes of the chunk at the source; those of a topology engine's copy were read when its round began (log 17). -/
def State.chunkIn (s : State) (i : CmdId) (j : CopyJob) (n : Nat) : List (Byte × Bool) :=
  let g := j.blk.srcRow j.rowNo + word j.rowOff
  match i with
  | .topo _ m => ((kvGetD s.legs m default).data.drop j.landed).take n
  | _ =>
    if j.blk.rdir = 2 then
      (List.range n).map (fun o => (memGet s.mem (keyPeer (j.win.getD default).peer (g.toNat + o)), false))
    else s.getFor i g n

/-- The bytes of a chunk at each destination of a row, from an offset. -/
def State.chunkAt (s : State) (i : CmdId) (j : CopyJob) (off : Nat) (bs : List (Byte × Bool)) : List (Nat × Byte × Bool) :=
  if j.blk.rdir = 1 then
    let a := (j.blk.dstRow j.rowNo).toNat + off
    bs.zipIdx.map (fun b => (keyPeer (j.win.getD default).peer (a + b.2), b.1))
  else (j.blk.dsts i j.rowNo).flatMap (fun g => s.keyed i (g + word off) bs)

/-- What the chunk writes at its destinations. A copy of MHALO writes all its bytes with its last chunk, so that one
that fails leaves the old bytes (R312). -/
def State.chunkOut (s : State) (i : CmdId) (j : CopyJob) (bs : List (Byte × Bool)) : List (Nat × Byte × Bool) :=
  match i with
  | .topo _ m =>
    let l := kvGetD s.legs m default
    if !l.whole then s.chunkAt i j j.rowOff bs
    else if j.landed + bs.length < j.blk.total then []
    else s.chunkAt i j 0 l.data
  | _ => s.chunkAt i j j.rowOff bs

/-- Bytes of the next chunk: 256, or what remains of the row (log 14). -/
def CopyJob.chunkLen (j : CopyJob) : Nat := min 256 (j.blk.len - j.rowOff)

/-- The bytes of a chunk as they are written: on a peer's write path bits may flip (R406, log 71). -/
def State.flipped (s : State) (j : CopyJob) (bs : List (Byte × Bool)) : List (Byte × Bool) :=
  match s.own.upset with
  | .flip o x => if j.blk.rdir = 1 then bs.zipIdx.map (fun b => if b.2 = o then (b.1.1 ^^^ x, b.1.2) else b.1) else bs
  | _ => bs

/-- The job after a chunk. -/
def CopyJob.stepped (j : CopyJob) (n : Nat) : CopyJob :=
  if j.rowOff + n ≥ j.blk.len then { j with rowNo := j.rowNo + 1, rowOff := 0 } else { j with rowOff := j.rowOff + n }

/-- Replace bytes of a list from a position. -/
def overwrite (old : List Byte) (at_ : Nat) (new : List Byte) : List Byte :=
  old.take at_ ++ new.take (old.length - at_) ++ old.drop (at_ + new.length)

/-- The engine's check values follow what it lands in a mesh object itself (R297). -/
def State.keepSnap (s : State) (i : CmdId) (j : CopyJob) (bs : List (Byte × Bool)) : State :=
  match i with
  | .topo _ n =>
    match (kvGetD s.legs n default).obj.bind (fun key => (kvGet s.meshes key).map (fun m => (key, m))) with
    | some (key, m) =>
      let at_ := (j.blk.dst - m.desc.obj).toNat + j.landed
      { s with meshes := kvSet s.meshes key { m with snap := overwrite m.snap at_ (bs.map (·.1)) } }
    | none => s
  | _ => s

/-- The key of an image's first byte: the save area of the hart's die, then (4 (T - 1) + h) MiB (R369). -/
def imageKey (k : HartKey) : Nat := keyHbm (Config.saveBase k.die % 2 ^ 20 * 0x100000 + (4 * (k.slot - 1) + k.idx) * 0x100000)

/-- Bytes that have changed in the scratchpad of a saved caravan change in its image too (R282). -/
def State.mirror (s : State) (k : HartKey) (off n : Nat) : State :=
  if (s.caravan k).st = .saved then
    s.copyRange (keySpad k (off / 4 * 4)) (imageKey k + 0x40000 + off / 4 * 4) ((off % 4 + n + 3) / 4 * 4)
  else s

/-- The scratchpads at which bytes of a row land, with their offset there. -/
def spadDsts (s : State) (k : HartKey) (b : CopyBlock) (row : Nat) : List (HartKey × Nat) :=
  if b.rdir = 1 then []
  else (b.dsts (.hart k 0) row).filterMap (fun g =>
    let c := winClass s k g
    if c = 2 ∨ c = 4 then some (spadHart k c g, gOff g) else none)

/-- Land the next chunk: it is read in full, then written, a poisoned byte as 0 where poison cannot be held (R268);
then its arrivals are counted. -/
def State.landChunk (s : State) (i : CmdId) (r : HRec) (j : CopyJob) : State :=
  let n := j.chunkLen
  let bs := s.flipped j (s.chunkIn i j n)
  let out := s.chunkOut i j bs
  let held := out.any (fun b => b.2.2 && keyHoldsPoison b.1)
  let lost := out.any (fun b => b.2.2 && !keyHoldsPoison b.1)
  let clean := out.map (fun b => if b.2.2 && !keyHoldsPoison b.1 then (b.1, 0, false) else b)
  let j1 := ((j.addSum (bs.map (fun b => if b.2 then 0 else b.1))).stepped n)
  let s1 := ((s.putBytes clean).keepSnap i j bs).setCmd i
    { r with poisoned := r.poisoned || held, job := .copy { j1 with psnOut := j.psnOut || lost } }
  match i with
  | .hart k _ =>
    let s2 := (spadDsts s k j.blk j.rowNo).foldl (fun t d => t.mirror d.1 (d.2 + j.rowOff) n) s1
    if j.blk.abv then
      (arrivalHarts s k j.blk).foldl (fun t h =>
        (t.arrive { k with idx := h } j.blk.aboff j.blk.abtag n).mirror { k with idx := h } j.blk.aboff 16) s2
    else s2
  | _ => s1

/-- COPY_CHUNK_LANDING (R275, R279): an engine that a warm reset has stopped moves nothing. -/
def execCopyChunkLanding (i : CmdId) (s : State) : Out :=
  match s.cmd i with
  | none => .next s
  | some r =>
    match r.job with
    | .copy j =>
      if r.st = HState.moving ∧ j.landed < j.blk.total ∧ s.dev.warm.isNone then
        if s.portsUp j && s.rowUp i j j.rowNo then .next (s.landChunk i r j) else .next (s.endCmd i 0x04 r.sumNow)
      else .next s
    | _ => .next s

/-- The status of a copy whose last byte has landed (R268, R276). -/
def CopyJob.status (j : CopyJob) (sum : BitVec 32) : Nat :=
  if j.psnOut then 0x02 else if j.blk.cmp && sum != j.blk.want then 0x01 else 0

/-- COPY_COMPLETION (R284). -/
def execCopyCompletion (i : CmdId) (s : State) : Out :=
  match s.cmd i with
  | none => .next s
  | some r =>
    match r.job with
    | .copy j =>
      if r.st = HState.moving ∧ j.landed ≥ j.blk.total ∧ s.dev.warm.isNone then .next (s.endCmd i (j.status r.sumNow) r.sumNow)
      else .next s
    | _ => .next s

/-! ### Places of engines (R257) -/

/-- Places of an engine for copies of command processors and topology engines (R257). -/
def enginePlaces : Nat := 256

/-- The engine that a resource is, if it is one. -/
def Res.engine (r : Res) : Option Nat := match r with | .eng n => some n | _ => none

/-- The engines of a copy: the one that accepts it, and on the I/O dies those that continue its paths (R256). -/
def State.enginesOf (s : State) (i : CmdId) (j : CopyJob) : List Nat :=
  (acceptEngine i j.io j.cluster :: (List.range j.blk.rows).flatMap (fun r => (s.pathOf i j r).res.filterMap Res.engine)).eraseDups

/-- Whether a record holds a copy that has a place of an engine. -/
def State.onEngine (s : State) (r : HRec) (i : CmdId) (e : Nat) : Bool :=
  !r.over && (match r.job with | .copy j => (s.enginesOf i j).contains e | _ => false)

/-- The engine of the I/O dies that moves a region (R146, log 16). -/
def moveEngine (ctx region : Nat) : Nat := 64 + Config.topoEngine (2 ^ 60 + ctx * 2 ^ 40 + region) % 32

/-- Copies of graphs and of topology engines on an engine. -/
def State.placed (s : State) (e : Nat) : Nat :=
  s.graphs.foldl (fun n p => n + p.2.copies.countP (fun r => s.onEngine r.2 (.graph p.1 r.1) e)) 0 +
    s.legs.countP (fun p => p.2.hrec.any (fun r => s.onEngine r (.topo p.2.die p.1) e))

/-- The regions that an engine moves, or that wait for a place of it (R146). -/
def State.movesOn (s : State) (e : Nat) : List (Nat × Nat) :=
  (s.regions.filter (fun p => (p.2.st == .toDevice || p.2.st == .toHost) && moveEngine p.1.1 p.1.2 == e)).map (·.1)

/-- Moves of regions on an engine. -/
def State.moving (s : State) (e : Nat) : Nat := (s.movesOn e).length

/-- Whether the move of a region has a place of its engine: moves take the places that copies leave, one after another. -/
def State.movePlace (s : State) (ctx region : Nat) : Bool :=
  let e := moveEngine ctx region
  ((s.movesOn e).take (enginePlaces - s.placed e)).contains (ctx, region)

/-- Whether an engine has a place for another copy of a graph or a topology engine (R257). -/
def State.placeFree (s : State) (e : Nat) : Bool := decide (s.placed e + s.moving e < enginePlaces)

/-! ### Links and peers (R268, R274, R401) -/

/-- Whether a copy crosses a port. -/
def State.crosses (s : State) (i : CmdId) (j : CopyJob) (p : Port) : Bool :=
  match p with
  | .bl n => match j.win with | some w => !w.via && w.blmask.getLsbD n | none => false
  | .ep n => match j.win with | some w => w.via && w.eport == n | none => false
  | .host io => (List.range j.blk.rows).any (fun r => (s.pathOf i j r).res.any (fun x =>
      match x with | .host n _ => n == io | _ => false))

/-- The MOVING copies that cross a port. -/
def State.crossing (s : State) (p : Port) : List CmdId :=
  s.allCmds.filter (fun i => match s.cmd i with
    | some r => (match r.job with | .copy j => r.st == HState.moving && s.crosses i j p | _ => false)
    | none => false)

/-- The QUEUED copies whose path is no longer ready (R394). -/
def State.stranded (s : State) : List CmdId :=
  s.allCmds.filter (fun i => match s.cmd i with
    | some r => (match r.job with | .copy j => r.st == HState.queued && !s.pathUp i j | _ => false)
    | none => false)

/-- End copies FAILED with LINK (R268, R394); those that a warm reset has stopped end ABORTED with it (R378). -/
def State.linkDown (s : State) (is : List CmdId) : State :=
  if s.dev.warm.isSome then s
  else is.foldl (fun t i => match t.cmd i with
    | some r => t.endCmd i 0x04 r.sumNow
    | none => t) s

/-- Fail every copy that crosses a port (R268). -/
def State.failPort (s : State) (p : Port) : State := s.linkDown (s.crossing p ++ s.stranded)

/-- LINK_FAILURE (R268). -/
def execLinkFailure (p : Port) (s : State) : Out := .next (s.failPort p)

/-- Record why a booked copy's slots go unserved; the first cause stands (R274). -/
def HRec.slowed (r : HRec) (cause : Nat) : HRec :=
  match r.job with
  | .copy j => if r.unbooked || j.cause != 0 then r else { r with job := .copy { j with cause := cause } }
  | _ => r

/-- Record a cause for the copies that hold the bookings which a test selects (R274). -/
def State.slowBooked (s : State) (cause : Nat) (sel : Booking → Bool) : State :=
  (s.books.filter sel).foldl (fun t b => match t.cmd b.who with
    | some r => t.setCmd b.who (r.slowed cause)
    | none => t) s

/-- Whether a resource is a port. -/
def portHas (p : Port) (r : Res) : Bool :=
  match p, r with
  | .bl n, .bl m _ => n == m
  | .ep n, .ep m _ => n == m
  | .host n, .host m _ => n == m
  | _, _ => false

/-- LINK_RETRANSMISSION: what is booked on the port in the present slot is not served in full (R274). -/
def execLinkRetransmission (p : Port) (s : State) : Out :=
  .next (s.slowBooked 2 (fun b => portHas p b.res && b.slot == s.now / 64))

/-- REMOTE_REFUSAL (R268). -/
def execRemoteRefusal (i : CmdId) (s : State) : Out :=
  match s.cmd i with
  | none => .next s
  | some r =>
    match r.job with
    | .copy j => if r.st = HState.moving ∧ j.win.isSome ∧ s.dev.warm.isNone then .next (s.endCmd i 0x03 r.sumNow) else .next s
    | _ => .next s

/-- An export (R401). -/
def Expt.ofWords (v : Vector Word 4) : Expt :=
  { base := (v[0].extractLsb' 0 56).toNat, len := (v[1].extractLsb' 0 40).toNat, r := v[2].getLsbD 10, w := v[2].getLsbD 11,
    peer := (v[2].extractLsb' 14 9).toNat, rkey := v[2].extractLsb' 32 32 }

/-- Whether an export admits a request (R401). -/
def Expt.admits (e : Expt) (r : PeerReq) : Bool :=
  e.rkey != 0 && e.rkey == r.rkey && (e.peer == 0x1FF || e.peer == r.peer) && decide (e.base ≤ r.addr) &&
    decide (r.addr + r.len ≤ e.base + e.len) && (if r.wr.isSome then e.w else e.r)

/-- Whether leases together cover a range. -/
def leasesCover (ls : List Lease) : Nat → Nat → Nat → Bool
  | 0, a, stop => decide (a ≥ stop)
  | fuel + 1, a, stop =>
    decide (a ≥ stop) || (match leaseAt ls a with
      | some (_, l) => leasesCover ls fuel (l.base + l.len) stop
      | none => false)

/-- The context whose export admits a request, with the range leased by a slice of it. -/
def State.exporter (s : State) (r : PeerReq) : Option Nat :=
  (s.ctxs.find? (fun c => c.2.expts.any (fun e => (Expt.ofWords e.2).admits r) &&
    s.slices.any (fun p => p.2.ctx == c.1 && (p.2.st == SliceState.ready || p.2.st == SliceState.ending) &&
      leasesCover p.2.desc.leases (p.2.desc.leases.length + 1) r.addr (r.addr + r.len)))).map (·.1)

/-- The bytes that a peer reads: a poisoned one as 0, since a peer holds no poison (R268). -/
def State.peerBytes (s : State) (ctx : Nat) (r : PeerReq) : List Byte :=
  (List.range r.len).map (fun o =>
    match translate s ctx (r.addr + o) needR with
    | some key => if keyHoldsPoison key && poisoned s.poison key 1 then 0 else memGet s.mem key
    | none => Config.freeByte (s.own.free * 2 ^ 40 + o))

/-- REMOTE_ACCESS_REQUEST (R401): a served write lands in the exporting context, a served read returns its bytes, and a
refused access has no effect; nothing is served in a warm reset (R378). -/
def execRemoteAccessRequest (r : PeerReq) (s : State) : Out :=
  if s.dev.warm.isSome then .next s
  else
    match s.exporter r, r.wr with
    | some ctx, some bs =>
      .next (s.putBytes ((bs.take r.len).zipIdx.filterMap (fun b =>
        (translate s ctx (r.addr + b.2) needW).map (fun key => (key, b.1, false)))))
    | some ctx, none => .next { s with dev := { s.dev with peerRead := s.peerBytes ctx r } }
    | none, _ => .next s

end Sys2Proof.Machine
end

