-- ==== Sys2Proof/Machine/Mesh.lean ====
section
/-! DEFINITION. The topology instructions and what their commands come to (10_mesh R289 to R312). -/

namespace Sys2Proof.Machine

/-! ### Memory of a context as an engine reaches it -/

/-- Bytes at a global address of a context, with their poison; without a translation, free values (log 31). -/
def State.ctxBytes (s : State) (ctx : Nat) (g : Word) (n : Nat) : List (Byte × Bool) :=
  (List.range n).map (fun o =>
    match translate s ctx (gVa g + o) needR with
    | some key => (memGet s.mem key, keyHoldsPoison key && poisoned s.poison key 1)
    | none => (Config.freeByte (s.own.free * 2 ^ 40 + o), false))

/-- Little-endian number at a global address of a context. -/
def State.ctxNat (s : State) (ctx : Nat) (g : Word) (n : Nat) : Nat := bytesNat ((s.ctxBytes ctx g n).map (·.1))

/-- Write bytes at a global address of a context; a host page holds no poison. -/
def State.ctxPut (s : State) (ctx : Nat) (g : Word) (bs : List (Byte × Bool)) : State :=
  s.putBytes (bs.zipIdx.filterMap (fun b => (translate s ctx (gVa g + b.2) needW).map (fun key => (key, b.1))))

/-- Bytes that the spec leaves to the engine (R310). -/
def State.ownBytes (s : State) (n : Nat) : List Byte := (List.range n).map (fun o => Config.freeByte (s.own.free * 2 ^ 40 + o))

/-! ### Blocks of commands with handles (R290, R291) -/

/-- The reserved fields of the common word. -/
def commonReserved : List (Nat × Nat) := [(31, 24), (15, 5)]

/-- Check a block address, wait for a record and for a queue place, and read the block (R291). -/
def State.withBlock (s : State) (i : Instr) (g : Word) (full : State → Bool) (f : State → Nat → Out) : Out :=
  let k := s.own.cur
  let c := winClass s k g
  if g.toNat % 64 ≠ 0 then s.trap (engineTrap g 2 0)
  else if c > 2 then s.raise cWindow g (word c)
  else
    match checkElem s k g 64 needRW 0 with
    | .error t => s.trap t
    | .ok p =>
      match s.recordBusy with
      | some r => s.waitOr i s.h.qwaitOf (handleOf k r.seq)
      | none =>
        if full s then s.waitOr i s.h.qwaitOf 0
        else
          let n := bytesNat (memBytes s.mem p.key 64)
          if n % 2 = 1 && !s.h.mem.pend.isEmpty then .next (s.waitOn i none none)
          else f s n

/-- Give the running hart a record for a command, and write its handle to d (R289). -/
def State.issueCmd (s : State) (d : Reg) (job : Job) (due : Nat) (intoSp : Bool) : State :=
  let n := nextSeq s.h.eng.lastSeq
  let r : HRec := { seq := n, cpyNo := 0, job := job, st := .moving, status := 0, result := 0, due := due,
                    unbooked := due == dueNever, late := false, poisoned := false, intoSp := intoSp }
  (s.bindRec r s.h.eng.cpys).modH (fun h => h.writeA d (handleOf s.own.cur n))

/-! ### Mesh handles and objects (R297, R298) -/

/-- The key of a mesh number of a die. -/
def meshKey (die num : Nat) : Nat := die * Config.meshNumbers + num

/-- The mesh of a handle, or ENGINE subcode 7 (R298). -/
def State.meshAt (s : State) (v : Word) : Except Trap (Nat × Mesh) :=
  let key := meshKey s.own.cur.die (v.toNat % 64)
  let ok := v.extractLsb' 16 48 == 0 && v.extractLsb' 6 8 == 0 && (v.extractLsb' 14 2).toNat == s.own.cur.die
  match kvGet s.meshes key with
  | some m => if ok && m.ctx == (s.sliceOf s.own.cur).ctx then .ok (key, m) else .error (engineTrap v 7 0)
  | none => .error (engineTrap v 7 0)

/-- The forest of a number. -/
def State.forest (s : State) (n : Nat) : Forest := kvGetD s.forests n default

/-- Bytes of an object with the records of `n` owned leaves (R310). -/
def MeshDesc.used (d : MeshDesc) (n : Nat) : Nat := 4096 + 32 * d.nroots + 32 * n

/-- Bytes of the 4 KiB pages of an object that hold those records (R297). -/
def MeshDesc.paged (d : MeshDesc) (n : Nat) : Nat := min d.objlen ((d.used n + 4095) / 4096 * 4096)

/-- Bytes of a context at an address, without poison. -/
def State.plainBytes (s : State) (ctx : Nat) (g : Word) (n : Nat) : List Byte := (s.ctxBytes ctx g n).map (·.1)

/-- Whether a 4 KiB page at an address still has the CRC-32C of what the engine left there; a page that has not changed
has (R297). -/
def State.pageOk (s : State) (ctx : Nat) (obj : Word) (snap : List Byte) (p : Nat) : Bool :=
  let old := (snap.drop (4096 * p)).take 4096
  let now := s.plainBytes ctx (obj + word (4096 * p)) old.length
  now == old || crc32c 0 now == crc32c 0 old

/-- The pages that hold a number of bytes. -/
def pagesFor (n : Nat) : List Nat := List.range ((n + 4095) / 4096)

/-- Whether pages of a mesh's object are as the engine left them. -/
def State.pagesKept (s : State) (m : Mesh) (ps : List Nat) : Bool := ps.all (s.pageOk m.ctx m.desc.obj m.snap)

/-- Whether all pages of the object are: a collective command reads every record (R297, log 90). -/
def State.objOk (s : State) (m : Mesh) : Bool := s.pagesKept m (pagesFor m.snap.length)

/-- The pages of a mesh's object that hold the records from which those of some leaves are built, and its header's (R301,
R310, log 90). -/
def recordPages (m : Mesh) (fo : Forest) (ls : List Nat) : List Nat :=
  (0 :: ls.flatMap (fun n =>
    let l := fo.leaf n
    (4096 + 32 * l.root) / 4096 ::
      (if l.owner == m.desc.part then [m.desc.used (n - firstOf fo.owners m.desc.part) / 4096] else []))).eraseDups

/-- The pages that MNBR or MCELL reads for the cells from `v` to COUNT: each cell's, and with MNBR its neighbours'. -/
def streamPages (m : Mesh) (fo : Forest) (nbr : Bool) (first v count : Nat) : List Nat :=
  let own := countOf fo.owners m.desc.part
  recordPages m fo ((List.range' v (count - v)).flatMap (fun c =>
    if first + c < own then
      let n := firstOf fo.owners m.desc.part + first + c
      n :: (if nbr then (fo.cellNbrs m.desc.part n).flatMap (fun r => r.2.toList) else [])
    else []))

/-- Write the object of a mesh anew, for `n` owned leaves; the records of the slots in `kept` (first slot, slots) stand
there already (R310). -/
def State.writeObj (s : State) (key : Nat) (m : Mesh) (n : Nat) (kept : List (Nat × Nat)) : State :=
  let stays := fun (o : Nat) => kept.any (fun k => decide (m.desc.used k.1 ≤ o) && decide (o < m.desc.used (k.1 + k.2)))
  let bs := (s.ownBytes (m.desc.used n)).zipIdx.filter (fun b => !stays b.2)
  let s1 := s.putBytes (bs.filterMap (fun b => (translate s m.ctx (gVa m.desc.obj + b.2) needW).map (fun key => (key, b.1, false))))
  { s1 with meshes := kvSet s1.meshes key { m with snap := s1.plainBytes m.ctx m.desc.obj (m.desc.paged n) } }

/-! ### MOPEN (R294 to R297) -/

/-- The reserved fields of a mesh descriptor (R294). -/
def meshReserved : List (Nat × Nat) := [(511, 480), (383, 361), (335, 325), (223, 223), (215, 213), (127, 104)]

/-- The fields of a mesh descriptor (R294). -/
def MeshDesc.ofNat (n : Nat) : MeshDesc :=
  { collect := bitsOf n 479 448, ptab := word (bitsOf n 447 384), npart := bitsOf n 360 348, part := bitsOf n 347 336,
    nfield := bitsOf n 324 320, ftab := word (bitsOf n 319 256), maxleaf := bitsOf n 255 224, scope := bitsOf n 222 220,
    rel := bitsOf n 219 219 = 1, acq := bitsOf n 218 218 = 1, dim3 := bitsOf n 216 216 = 1, nroots := bitsOf n 212 192,
    roots := word (bitsOf n 191 128), objlen := bitsOf n 103 64, obj := word (bitsOf n 63 0) }

/-- The byte offset of the word that holds the first field outside its limits (R294). -/
def MeshDesc.bad (d : MeshDesc) (n : Nat) : Option Nat :=
  match reservedAt n 8 meshReserved with
  | some o => some o
  | none =>
    if d.obj.toNat % 4096 ≠ 0 then some 0
    else if d.objlen < 4096 + 32 * (d.maxleaf + d.nroots) then some 8
    else if d.roots.toNat % 64 ≠ 0 then some 16
    else if d.nroots = 0 ∨ d.nroots > 2 ^ 20 ∨ d.scope > 4 then some 24
    else if d.ftab.toNat % 16 ≠ 0 then some 32
    else if d.npart = 0 ∨ d.npart > 4096 ∨ d.part ≥ d.npart ∨ d.nfield > 16 then some 40
    else if d.ptab.toNat % 16 ≠ 0 then some 48
    else none

/-- A check of a global range (R297). -/
def State.checkGlobal (s : State) (k : HartKey) (g : Word) (n : Nat) (need : Need) : Option Trap :=
  if winClass s k g ≠ 0 then some ⟨cWindow, g, word (winClass s k g)⟩ else s.checkLocal k g n need

/-- The range checks of MOPEN. -/
def State.meshRanges (s : State) (k : HartKey) (d : MeshDesc) : Option Trap :=
  (s.checkGlobal k d.obj d.objlen needRW).or ((s.checkGlobal k d.roots (64 * d.nroots) needR).or
    ((s.checkGlobal k d.ptab (16 * d.npart) needR).or
      (if d.nfield = 0 then none else s.checkGlobal k d.ftab (16 * d.nfield) needR)))

/-- The root table at its address (R295). -/
def State.readRoots (s : State) (ctx : Nat) (d : MeshDesc) : List (List RootFace) :=
  (List.range d.nroots).map (fun i => (List.range (faceCount d.dim3)).map (fun f =>
    RootFace.ofNat (s.ctxNat ctx (d.roots + word (64 * i + 8 * f)) 8)))

/-- The bytes of the partition table (R296). -/
def State.readPtab (s : State) (ctx : Nat) (d : MeshDesc) : List Byte := s.plainBytes ctx d.ptab (16 * d.npart)

/-- An entry of the partition table (R296). -/
structure PartEntry where
  ftabr : Word
  rwin  : Nat
  die   : Nat
  peer  : Nat
deriving DecidableEq, Repr, Inhabited

/-- The fields of a partition's entry (R296). -/
def PartEntry.ofNat (n : Nat) : PartEntry :=
  { ftabr := word (bitsOf n 127 64), rwin := bitsOf n 15 12, die := bitsOf n 10 9, peer := bitsOf n 8 0 }

/-- The entry of a partition. -/
def Forest.entry (fo : Forest) (p : Nat) : PartEntry := PartEntry.ofNat (bytesNat ((fo.ptab.drop (16 * p)).take 16))

/-- Whether a partition lies on another device, by its entry (R296). -/
def State.farPart (s : State) (fo : Forest) (p : Nat) : Bool :=
  (fo.entry p).peer != 0x1FF && (fo.entry p).peer != s.dev.number

/-- The remote window that reaches a partition (R277, R296). -/
def State.partWin (s : State) (fo : Forest) (p : Nat) : RWin := s.rwin fo.ctx (fo.entry p).rwin

/-- The entries of a partition table. -/
def ptabEntries (bs : List Byte) (n : Nat) : List PartEntry :=
  (List.range n).map (fun p => PartEntry.ofNat (bytesNat ((bs.drop (16 * p)).take 16)))

/-- The open mesh of the context whose partitions this descriptor joins: the one whose partition table has equal fields,
and with equal roots (log 70); reserved bits decide nothing (R8, R296). -/
def State.joinable (s : State) (ctx : Nat) (d : MeshDesc) (roots : List (List RootFace)) : Option Nat :=
  (s.forests.find? (fun f => f.2.ctx == ctx && f.2.dim3 == d.dim3 && f.2.npart == d.npart &&
    ptabEntries f.2.ptab d.npart == ptabEntries (s.readPtab ctx d) d.npart &&
    f.2.roots == roots && f.2.gen == 0 && s.meshes.any (fun m => m.2.forest == f.1) &&
    !s.meshes.any (fun m => m.2.forest == f.1 && m.2.desc.part == d.part))).map (·.1)

/-- A built object, closed or open elsewhere, that the bytes at OBJ are, with the fields the descriptor gives (R297). -/
def State.builtObj (s : State) (ctx : Nat) (d : MeshDesc) : Option Mesh :=
  (s.objs ++ s.meshes.map (·.2)).find? (fun m => m.desc.part == d.part && (s.forest m.forest).npart == d.npart &&
    (s.forest m.forest).dim3 == d.dim3 && (s.forest m.forest).nroots == d.nroots && (pagesFor m.snap.length).all (s.pageOk ctx d.obj m.snap))

/-- The forest that a reopened object joins: the one it was built in or an equal one, where no open mesh holds the
partition, else a copy of it (log 70). -/
def State.forestFor (s : State) (ctx : Nat) (m : Mesh) (d : MeshDesc) : Nat × List (Nat × Forest) :=
  let fo := { s.forest m.forest with ctx := ctx, ptab := s.readPtab ctx d }
  let free := fun (n : Nat) => !s.meshes.any (fun x => x.2.forest == n && x.2.desc.part == d.part)
  let same := fun (f : Forest) => decide ({ f with ptab := fo.ptab } = fo)
  let n := if free m.forest && same (s.forest m.forest) then m.forest
    else ((s.forests.find? (fun f => free f.1 && same f.2)).map (·.1)).getD s.forests.length
  (n, kvSet s.forests n fo)

/-- Build the mesh of a descriptor, or join the partitions that have opened it. -/
def State.buildMesh (s : State) (ctx key : Nat) (g : Word) (d : MeshDesc) (roots : List (List RootFace)) : State :=
  let n := match s.joinable ctx d roots with
    | some n => n
    | none => s.forests.length
  let fo : Forest := { ctx := ctx, ptab := s.readPtab ctx d, dim3 := d.dim3, nroots := d.nroots, npart := d.npart, roots := roots,
                       leaves := rootLeaves d.npart d.nroots, gen := 0, cut := none }
  let fs := if (s.joinable ctx d roots).isSome then s.forests else s.forests ++ [(n, fo)]
  let m : Mesh := { ctx := ctx, desc := d, at_ := g, forest := n, marks := none, rounds := 0, snap := [] }
  { s with forests := fs }.writeObj key m (countOf fo.owners d.part) []

/-- The mesh numbers free on a die. -/
def State.freeNumbers (s : State) (die : Nat) : List Nat :=
  (List.range Config.meshNumbers).filter (fun n => (kvGet s.meshes (meshKey die n)).isNone)

/-- Open the mesh of a checked descriptor: the handle and the state, or a trap (R297). -/
def State.openMesh (s : State) (g : Word) (d : MeshDesc) (fresh : Bool) : Except Trap (Nat × State) :=
  let k := s.own.cur
  let ctx := (s.sliceOf k).ctx
  match s.meshes.find? (fun m => m.1 / Config.meshNumbers == k.die && m.2.ctx == ctx && m.2.desc.obj == d.obj) with
  | some m => .ok (m.1 % Config.meshNumbers, s)
  | none =>
    let free := s.freeNumbers k.die
    if free.isEmpty then .error (engineTrap g 8 3)
    else
      let num := free.getD (Config.meshNumber s.own.free % free.length) 0
      if fresh then
        let roots := s.readRoots ctx d
        match badFace d.dim3 roots with
        | some p => .error (engineTrap (d.roots + word (64 * p.1 + 8 * p.2)) 8 1)
        | none => .ok (num, s.buildMesh ctx (meshKey k.die num) g d roots)
      else
        match s.builtObj ctx d with
        | none => .error (engineTrap g 8 2)
        | some m =>
          let f := s.forestFor ctx m d
          let m1 := { m with ctx := ctx, desc := d, at_ := g, forest := f.1 }
          .ok (num, { s with objs := s.objs.erase m, forests := f.2, meshes := kvSet s.meshes (meshKey k.die num) m1 })

/-- MOPEN (R297). -/
def execMopen (d a : Reg) (s : State) : Out :=
  let i := Instr.mopen d a
  s.gate i (fun s =>
    let k := s.own.cur
    let g := s.h.readA a
    let c := winClass s k g
    if c > 2 then s.raise cWindow g (word c)
    else if g.toNat % 64 ≠ 0 then s.trap (engineTrap g 2 0)
    else
      match checkElem s k g 64 needR 0 with
      | .error t => s.trap t
      | .ok p =>
        let n := bytesNat (memBytes s.mem p.key 64)
        let ds := MeshDesc.ofNat n
        if ds.acq && !s.h.mem.pend.isEmpty then .next (s.waitOn i none none)
        else
          match ds.bad n with
          | some o => s.trap (engineTrap g 3 o)
          | none =>
            match s.meshRanges k ds with
            | some t => s.trap t
            | none =>
              match s.openMesh g ds (bitsOf n 217 217 = 1) with
              | .error t => s.trap t
              | .ok r => (r.2.modH (fun h => h.writeA d (word (k.die * 2 ^ 14 + r.1)))).complete)

/-! ### MNBR, MCELL and MMARK (R299 to R304) -/

/-- Cells of a queue entry (R300, R301). -/
def cellsPer (dim3 nbr : Bool) : Nat := if nbr then (if dim3 then 2 else 8) else 64

/-- Records of a cell. -/
def recsPer (dim3 nbr : Bool) : Nat := if nbr then perFace dim3 * faceCount dim3 else 1

/-- Whether the object bytes that a record is built from are poisoned: the leaf records of owned leaves, and
the root's (R301, R310). -/
def State.recPoisoned (s : State) (m : Mesh) (fo : Forest) (ls : List Nat) : Bool :=
  ls.any (fun n =>
    let l := fo.leaf n
    (s.ctxBytes m.ctx (m.desc.obj + word (4096 + 32 * l.root)) 32).any (·.2) ||
      (l.owner == m.desc.part && (s.ctxBytes m.ctx
        (m.desc.obj + word (4096 + 32 * m.desc.nroots + 32 * (n - firstOf fo.owners m.desc.part))) 32).any (·.2)))

/-- The records of an owned slot with their poison; null records beyond the owned slots (R301). -/
def State.slotRecords (s : State) (m : Mesh) (fo : Forest) (nbr : Bool) (slot : Nat) : List (Nat × Bool) :=
  let p := m.desc.part
  if slot < countOf fo.owners p then
    let c := firstOf fo.owners p + slot
    if nbr then (fo.cellNbrs p c).map (fun r => (r.1, r.1 != 0 && s.recPoisoned m fo (c :: r.2.toList)))
    else [(fo.cellRecord p c, s.recPoisoned m fo [c])]
  else List.replicate (recsPer fo.dim3 nbr) (0, false)

/-- A queue entry from records of 16 bytes, with the poison of their four elements (R301). -/
def entryOf (rs : List (Nat × Bool)) : Entry :=
  { data := BitVec.ofNat 8192 (rs.zipIdx.foldl (fun n r => n + r.1.1 * 2 ^ (128 * r.2)) 0), pred := 0,
    psn := BitVec.ofNat 2048 (rs.zipIdx.foldl (fun n r => n + (if r.1.2 then 15 * 2 ^ (4 * r.2) else 0)) 0), visible := true }

/-- A stream is complete (R301). -/
def Hart.endStream (h : Hart) : Hart := { h.aVstart 0 with eng := { h.eng with gen := none } }

/-- Push the next entry of records (R301): the instruction completes with the last, and otherwise stands
between entries. Where VSTART has come to COUNT it pushes nothing more. -/
def State.streamEntry (s : State) (i : Instr) (q : Fin 4) (m : Mesh) (fo : Forest) (nbr : Bool) (first count : Nat) : Out :=
  if count ≠ 0 ∧ s.h.a.vstart ≥ count then (s.modH Hart.endStream).complete
  else if s.h.occ q.val ≥ Config.vqDepth then s.stall i (q.val, true)
  else
    let n := cellsPer fo.dim3 nbr
    let v := s.h.a.vstart
    let base := v / n * n
    let stop := min count (base + n)
    let skip := List.replicate ((v - base) * recsPer fo.dim3 nbr) (0, false)
    let rs := (List.range' v (stop - v)).flatMap (fun c => s.slotRecords m fo nbr (first + c))
    let s1 := s.modH (fun h => h.pushLoad q (entryOf (skip ++ rs)))
    if stop ≥ count then (s1.modH Hart.endStream).complete
    else .next ((s1.modH (fun h => h.aVstart stop)).waitOn i none none)

/-- Write the records of the cells left to memory (R301). -/
def State.streamMem (s : State) (i : Instr) (g : Word) (m : Mesh) (fo : Forest) (nbr : Bool) (first count : Nat) : Out :=
  let k := s.own.cur
  let c := winClass s k g
  let size := 16 * recsPer fo.dim3 nbr
  if c ≠ 2 ∧ c ≠ 4 then s.raise cWindow g (word c)
  else
    match checkOnly s k g (count * size) needW with
    | some t => s.trap t
    | none =>
      if !s.h.mem.pend.isEmpty then .next (s.waitOn i none none)
      else
        let v := s.h.a.vstart
        let rs := (List.range' v (count - v)).flatMap (fun c => s.slotRecords m fo nbr (first + c))
        let bs := rs.flatMap (fun r => (natBytes r.1 16).map (fun b => (b, r.2)))
        let s1 := s.putBytes (s.keyed (.hart k 0) (g + word (v * size)) bs)
        (s1.modH Hart.endStream).complete

/-- MNBR and MCELL (R301, R303). -/
def State.stream (s : State) (i : Instr) (d a b : Reg) (nbr : Bool) : Out :=
  s.gate i (fun s =>
    let w := s.h.readA b
    let first := w.toNat % 2 ^ 32
    let count := w.toNat / 2 ^ 32
    match s.meshAt (s.h.readA a) with
    | .error t => s.trap t
    | .ok (_, m) =>
      let fo := s.forest m.forest
      if count > 2048 then s.trap (engineTrap w 9 0)
      else if s.h.a.vstart ≠ 0 ∧ s.h.eng.gen ≠ some fo.gen then s.trap (engineTrap w 9 0)
      else if !s.pagesKept m (streamPages m fo nbr first s.h.a.vstart count) then s.trap (engineTrap m.at_ 8 2)
      else if m.desc.acq && s.h.a.vstart == 0 && !s.h.mem.pend.isEmpty then .next (s.waitOn i none none)
      else
        let s1 := s.modH (fun h => { h with eng := { h.eng with gen := some fo.gen } })
        if isQ d then s1.streamEntry i (qNo d) m fo nbr first count
        else s1.streamMem i (s.h.readA d) m fo nbr first count)

/-- MNBR (R301). -/
def execMnbr (d a b : Reg) (s : State) : Out := s.stream (.mnbr d a b) d a b true

/-- MCELL (R301, R302). -/
def execMcell (d a b : Reg) (s : State) : Out := s.stream (.mcell d a b) d a b false

/-- MMARK (R304). -/
def execMmark (a b : Reg) (s : State) : Out :=
  let i := Instr.mmark a b
  s.gate i (fun s =>
    let g := s.h.readA b
    match s.meshAt (s.h.readA a) with
    | .error t => s.trap t
    | .ok (key, m) =>
      if !s.pagesKept m (recordPages m (s.forest m.forest) []) then s.trap (engineTrap m.at_ 8 2)
      else if m.desc.acq && !s.h.mem.pend.isEmpty then .next (s.waitOn i none none)
      else
        match s.checkLocal s.own.cur g (countOf (s.forest m.forest).owners m.desc.part) needR with
        | some t => s.trap t
        | none => ({ s with meshes := kvSet s.meshes key { m with marks := some g } } : State).complete)

/-! ### Accepting collective commands (R291, R305, R308 to R310, R312) -/

/-- A field array (R296). -/
structure FieldArr where
  cap   : Nat
  esize : Nat
  base  : Word
deriving DecidableEq, Repr, Inhabited

/-- The fields of an entry of a field table (R296). -/
def FieldArr.ofNat (n : Nat) : FieldArr := { cap := bitsOf n 127 96, esize := bitsOf n 75 64, base := word (bitsOf n 63 0) }

/-- The field table at a global address, read anew (R296). -/
def State.fieldsAt (s : State) (ctx : Nat) (g : Word) (n : Nat) : List FieldArr :=
  (List.range n).map (fun f => FieldArr.ofNat (s.ctxNat ctx (g + word (16 * f)) 16))

/-- The field table of a mesh's own partition. -/
def State.fieldsOf (s : State) (m : Mesh) : List FieldArr := s.fieldsAt m.ctx m.desc.ftab m.desc.nfield

/-- The field table at an address of a peer. -/
def State.peerFields (s : State) (peer : Nat) (g : Word) (n : Nat) : List FieldArr :=
  (List.range n).map (fun f => FieldArr.ofNat (bytesNat (memBytes s.mem (keyPeer peer (g.toNat + 16 * f)) 16)))

/-- The field table of a partition as another one reaches it: through FTABR of the partition table, on this device or
through a remote window (R296). -/
def State.fieldsBy (s : State) (m : Mesh) (p : Nat) : List FieldArr :=
  let fo := s.forest m.forest
  if p = m.desc.part then s.fieldsOf m
  else if s.farPart fo p then s.peerFields (s.partWin fo p).peer (fo.entry p).ftabr m.desc.nfield
  else s.fieldsAt m.ctx (fo.entry p).ftabr m.desc.nfield

/-- The arrays that a mask selects and that hold bytes. -/
def maskedArrays (fs : List FieldArr) (mask : BitVec 16) : List FieldArr :=
  ((fs.zipIdx.filter (fun f => mask.getLsbD f.2)).map (·.1)).filter (fun f => f.cap * f.esize != 0)

/-- The checks of field arrays that a command reads and writes: its own, and those on other devices against their
remote windows (R277, R291). -/
def State.checkFields (s : State) (k : HartKey) (m : Mesh) (mask : BitVec 16) (far : Need) : Option Trap :=
  let fo := s.forest m.forest
  ((maskedArrays (s.fieldsOf m) mask).findSome? (fun f => s.checkGlobal k f.base (f.cap * f.esize) needRW)).or
    ((List.range fo.npart).findSome? (fun p =>
      if p = m.desc.part ∨ !s.farPart fo p ∨ m.desc.nfield = 0 then none
      else
        let w := s.partWin fo p
        let t := (fo.entry p).ftabr
        if !w.admits t (16 * m.desc.nfield) needR then some ⟨cLease, t, 4⟩
        else (maskedArrays (s.fieldsBy m p) mask).findSome? (fun f =>
          if w.admits f.base (f.cap * f.esize) far then none else some ⟨cLease, f.base, 4⟩)))

/-- The reserved fields of each command's block. -/
def opReserved : MeshOp → List (Nat × Nat)
  | .adapt => (511, 320) :: (191, 160) :: commonReserved
  | .cut => (511, 224) :: commonReserved
  | .mig => (511, 192) :: (127, 64) :: commonReserved
  | .halo => (511, 80) :: commonReserved

/-- The byte offset of the word that holds the first bad field of a block. -/
def opBad (op : MeshOp) (m : Mesh) (n : Nat) : Option Nat :=
  match reservedAt n 8 (opReserved op) with
  | some o => some o
  | none =>
    if bitsOf n 4 2 > 4 then some 0
    else
      match op with
      | .adapt => if bitsOf n 127 64 % 16 ≠ 0 then some 8 else none
      | .cut => if bitsOf n 127 64 % 4 ≠ 0 then some 8 else none
      | .mig => none
      | .halo => if bitsOf n 79 64 ≥ 2 ^ m.desc.nfield then some 8 else none

/-- The range checks of a command (R291). -/
def State.opRanges (s : State) (k : HartKey) (op : MeshOp) (m : Mesh) (n : Nat) : Option Trap :=
  let g := word (bitsOf n 127 64)
  let own := countOf (s.forest m.forest).owners m.desc.part
  match op with
  | .adapt =>
    (match m.marks with
     | some a => if own = 0 then none else s.checkLocal k a own needR
     | none => none).or (if bitsOf n 159 128 = 0 then none else s.checkLocal k g (16 * bitsOf n 159 128) needW)
  | .cut => if own = 0 then none else s.checkLocal k g (4 * own) needR
  | .mig => s.checkFields k m (BitVec.ofNat 16 (2 ^ m.desc.nfield - 1)) needRW
  | .halo => s.checkFields k m (BitVec.ofNat 16 (bitsOf n 79 64)) needR

/-- The die of the hart that issued a command. -/
def issueDie (i : CmdId) : Nat :=
  match i with
  | .hart k _ => k.die
  | .graph _ _ => 0
  | .topo d _ => d

/-- Whether a partition has joined a round: its command was accepted on the die that the partition table names, or it
lies on another device and has answered (R296, R308, log 82). -/
def State.hasJoined (s : State) (r : Round) (p : Nat) : Bool :=
  let fo := s.forest r.forest
  if s.farPart fo p && fo.npart != 1 then (Config.remoteJoin s.own.free p).isSome
  else r.joined.any (fun j => j.1 == p && (fo.npart == 1 || issueDie j.2.1 == (fo.entry p).die))

/-- Whether COLLECT tk have passed since a round's first command (R308). -/
def Round.past (r : Round) (now : Nat) : Bool := r.limit != 0 && decide (now > r.since + r.limit)

/-- Whether every partition has joined a round within COLLECT (R308). -/
def State.allJoined (s : State) (r : Round) : Bool :=
  r.full || (!r.past s.now && (List.range (s.forest r.forest).npart).all (s.hasJoined r))

/-- Replace a round. -/
def State.setRound (s : State) (r : Round) (f : Round → Round) : State :=
  { s with joins := s.joins.map (fun x => if x.forest == r.forest && x.no == r.no then f x else x) }

/-- Take note that every partition has joined a round. -/
def State.noteFull (s : State) (r : Round) : State := s.setRound r (fun x => { x with full := s.allJoined x })

/-- A round that a partition has not joined within COLLECT ends PARTNER on those that have (R308). -/
def State.expireRound (s : State) (r : Round) : State :=
  (r.joined.foldl (fun t j => t.endCmd j.2.1 0x15 (Config.openResult t.own.free)) s).setRound r
    (fun x => { x with dead := true, joined := [] })

/-- Join the round of a partition's next ordinal; one whose COLLECT has passed before every partition joined has ended
PARTNER, and so does the command that comes late (R308). -/
def State.joinRound (s : State) (m : Mesh) (i : CmdId) (op : MeshOp) (no : Nat) : State :=
  match s.joins.find? (fun r => r.forest == m.forest && r.no == no) with
  | some r =>
    if r.dead then s.endCmd i 0x15 (Config.openResult s.own.free)
    else if r.past s.now && !r.full then (s.expireRound r).endCmd i 0x15 (Config.openResult s.own.free)
    else (s.setRound r (fun x => { x with joined := x.joined ++ [(m.desc.part, i, op)] })).noteFull r
  | none =>
    let r : Round := { forest := m.forest, no := no, since := s.now, limit := m.desc.collect, dead := false, begun := false,
                       full := false, joined := [(m.desc.part, i, op)] }
    { s with joins := s.joins ++ [r] }.noteFull r

/-- MADAPT, MCUT, MMIG and MHALO (R291, R308). -/
def State.meshCmd (s : State) (i : Instr) (d a b : Reg) (op : MeshOp) : Out :=
  s.gate i (fun s =>
    let k := s.own.cur
    let g := s.h.readA b
    match s.meshAt (s.h.readA a) with
    | .error t => s.trap t
    | .ok (key, m) =>
      s.withBlock i g (fun _ => false) (fun s n =>
        match opBad op m n with
        | some o => s.trap (engineTrap g 3 o)
        | none =>
          match s.opRanges k op m n with
          | some t => s.trap t
          | none =>
            let no := m.rounds + 1
            let job : MeshJob :=
              { block := g, op := op, num := key, round := no, acq := n % 2 = 1, rel := n / 2 % 2 = 1, scope := bitsOf n 4 2,
                addr := word (bitsOf n 127 64), cap := bitsOf n 159 128, fmask := BitVec.ofNat 16 (bitsOf n 79 64),
                marks := if op = MeshOp.adapt then m.marks else none }
            let m1 := { m with rounds := no, marks := if op = MeshOp.adapt then none else m.marks }
            let due := if op = MeshOp.mig then Config.openDue s.own.free else dueNever
            let s1 := { s with meshes := kvSet s.meshes key m1 }.issueCmd d (.mesh job) due (op == MeshOp.adapt && job.cap != 0 && inSpad job.addr)
            (s1.joinRound m1 (.hart k (nextSeq s.h.eng.lastSeq)) op no).complete))

/-- MADAPT (R305). -/
def execMadapt (d a b : Reg) (s : State) : Out := s.meshCmd (.madapt d a b) d a b .adapt

/-- MCUT (R309). -/
def execMcut (d a b : Reg) (s : State) : Out := s.meshCmd (.mcut d a b) d a b .cut

/-- MMIG (R310). -/
def execMmig (d a b : Reg) (s : State) : Out := s.meshCmd (.mmig d a b) d a b .mig

/-- MHALO (R312). -/
def execMhalo (d a b : Reg) (s : State) : Out := s.meshCmd (.mhalo d a b) d a b .halo

end Sys2Proof.Machine
end

