-- ==== Sys2Proof/Machine/MeshRun.lean ====
section
/-! DEFINITION. What collective topology commands come to, and the commit of a generation (10_mesh R292,
R293, R303 to R312). A round ends on all its partitions in one step (log 17). -/

namespace Sys2Proof.Machine

/-- A partition in a round: its command, its job and its mesh. -/
structure Party where
  part : Nat
  id   : CmdId
  job  : MeshJob
  mesh : Mesh
deriving DecidableEq, Repr, Inhabited

/-- The partitions that joined a round. -/
def State.parties (s : State) (r : Round) : List Party :=
  r.joined.filterMap (fun j =>
    match s.cmd j.2.1 with
    | some c =>
      match c.job with
      | .mesh job => (kvGet s.meshes job.num).map (fun m => { part := j.1, id := j.2.1, job := job, mesh := m })
      | _ => none
    | none => none)

/-- Whether a round can run: every partition has joined, and no earlier round is open (R293, R308). -/
def State.roundReady (s : State) (r : Round) : Bool :=
  !r.dead && (r.begun || s.allJoined r) &&
    !s.joins.any (fun x => x.forest == r.forest && !x.dead && decide (x.no < r.no))

/-- The codes with which a partition's own checks and inputs end a command (R292). -/
def opFails : MeshOp → List Nat
  | .adapt => [0x02, 0x10, 0x12, 0x13, 0x17]
  | .cut => [0x02, 0x17]
  | .mig => [0x10, 0x13, 0x17]
  | .halo => [0x17]

/-- The status that a partition on another device ends a round with, if it does (R292, R308). -/
def Remote.status (x : Remote) : Option Nat := x.fail.filter (fun n => (opFails x.op).contains n)

/-- What the partitions on other devices bring to a round (R308). -/
def State.remotes (s : State) (fo : Forest) : List Remote :=
  if fo.npart = 1 then [] else ((List.range fo.npart).filter (s.farPart fo)).filterMap (Config.remoteJoin s.own.free)

/-- The partition of a global index under owners, among the parties of a round. -/
def partyOf (ps : List Party) (n : Nat) : Party := (ps.find? (fun p => p.part == n)).getD default

/-- Whether a partition is among the parties of a round. -/
def isParty (ps : List Party) (n : Nat) : Bool := ps.any (fun p => p.part == n)

/-- Whether an MNBR or MCELL that has begun on the forest has not stopped (R303). -/
def State.streaming (s : State) (forest : Nat) : Bool :=
  s.harts.any (fun p =>
    match p.2.a.wait with
    | some w =>
      let on := fun (a : Reg) => (kvGetD s.meshes (meshKey p.1.die ((p.2.readA a).toNat % 64)) default).forest == forest
      (match w.instr with
       | .mnbr _ a _ => on a
       | .mcell _ a _ => on a
       | _ => false)
    | none => false)

/-- What a command writes to its block: byte offset, bytes, and whether they are poisoned. -/
abbrev BlockOut := List (Nat × List Byte × Bool)

/-- End one partition's command with its block fields. -/
def State.endParty (s : State) (p : Party) (status : Nat) (result : BitVec 32) (out : BlockOut) : State :=
  (out.foldl (fun t o => t.putBytes (t.keyed p.id (p.job.block + word o.1) (o.2.1.map (fun b => (b, o.2.2))))) s).endCmd p.id status result

/-- Close a round; its copies have all ended. -/
def State.closeRound (s : State) (r : Round) : State :=
  { s with joins := s.joins.filter (fun x => !(x.forest == r.forest && x.no == r.no)),
           legs := s.legs.filter (fun l => !(l.2.forest == r.forest && l.2.round == r.no)) }

/-- End every command of a round with a status to which no rule gives a RESULT (log 15). -/
def State.failRound (s : State) (r : Round) (ps : List Party) (status : Nat) : State :=
  (ps.foldl (fun t p => t.endParty p status (Config.openResult t.own.free) []) s).closeRound r

/-- A 32-bit number as block bytes. -/
def b32 (n : Nat) : List Byte := natBytes n 4

/-! ### MADAPT (R305 to R307) -/

/-- Bytes that a partition on another device holds (log 82). -/
def State.farBytes (s : State) (at_ n : Nat) : List (Byte × Bool) :=
  (List.range n).map (fun o => (Config.freeByte (s.own.free * 2 ^ 40 + 2 ^ 39 + at_ + o), false))

/-- The marks of all leaves in global order, with their poison. -/
def State.readMarks (s : State) (fo : Forest) (ps : List Party) : List (Byte × Bool) :=
  (List.range fo.leaves.length).map (fun n =>
    let p := partyOf ps (fo.leaf n).owner
    if !isParty ps (fo.leaf n).owner then (s.farBytes n 1).headD (0, false)
    else
      match p.job.marks with
      | none => (0, false)
      | some g => (s.getFor p.id (g + word (n - firstOf fo.owners p.part)) 1).headD (0, false))

/-- The remap records of a partition (R307). -/
def remapBytes (ad : Adapted) (part : Nat) : List Byte :=
  (ad.ws.zipIdx.filter (fun w => w.1.leaf.owner == part)).flatMap (fun w => natBytes (w.1.remap w.2) 16)

/-- Commit an adaptation: the forest, the objects, the remap records and the block fields. -/
def State.commitAdapt (s : State) (r : Round) (fo : Forest) (ps : List Party) (ad : Adapted) : State :=
  let leaves := ad.ws.map Work.leaf
  let owners := leaves.map Leaf.owner
  let s1 := { s with forests := kvSet s.forests r.forest { fo with leaves := leaves, gen := fo.gen + 1, cut := none } }
  (ps.foldl (fun t p =>
    let n := countOf owners p.part
    let t1 := (t.writeObj p.job.num p.mesh n []).putFor p.id p.job.addr (remapBytes ad p.part)
    t1.endParty p 0 (BitVec.ofNat 32 n)
      [(24, b32 (firstOf owners p.part), false), (28, b32 (ad.refined.count p.part), false),
       (32, b32 (ad.coarsened.count p.part), false), (36, b32 (ad.balanced.count p.part), false)]) s1).closeRound r

/-- Leaves on the device over all open meshes, with `n` in one forest (R286). -/
def State.allLeaves (s : State) (forest n : Nat) : Nat :=
  (s.forests.filter (fun f => f.1 != forest && s.meshes.any (fun m => m.2.forest == f.1))).foldl
    (fun k f => k + f.2.leaves.length) n

/-- Poison a partition's remap buffer, whose records depend on marks that were poisoned (R292, log 83). -/
def State.spoilRemap (s : State) (p : Party) : State :=
  s.putBytes (s.keyed p.id p.job.addr (List.replicate (16 * p.job.cap) (0, true)))

/-- A MADAPT round that reads a poisoned mark ends POISON (R292, log 83). -/
def State.poisonAdapt (s : State) (r : Round) (ps : List Party) : State :=
  (ps.foldl (fun t p => (t.spoilRemap p).endParty p 0x02 0 [(24, List.replicate 16 0, true)]) s).closeRound r

/-- Run a MADAPT round (R306). -/
def State.runAdapt (s : State) (r : Round) (fo : Forest) (ps : List Party) : State :=
  let marks := s.readMarks fo ps
  if marks.any (·.2) then s.poisonAdapt r ps
  else if marks.any (fun m => m.1.toNat > 2) then s.failRound r ps 0x12
  else
    let ad := fo.adapt (marks.map (fun m => m.1.toNat))
    let owners := ad.ws.map (fun w => w.leaf.owner)
    if ps.any (fun p => decide (countOf owners p.part > p.job.cap)) then
      (ps.foldl (fun t p => t.endParty p 0x10 (BitVec.ofNat 32 (countOf owners p.part)) []) s).closeRound r
    else if ps.any (fun p => decide (countOf owners p.part > p.mesh.desc.maxleaf)) || decide (ad.ws.length ≥ 2 ^ 32) ||
        decide (s.allLeaves r.forest ad.ws.length > 2 ^ 32) then
      s.failRound r ps 0x13
    else s.commitAdapt r fo ps ad

/-! ### MCUT (R309) -/

/-- The weights of all leaves in global order, with their poison. -/
def State.readWeights (s : State) (fo : Forest) (ps : List Party) : List (Nat × Bool) :=
  (List.range fo.leaves.length).map (fun n =>
    let p := partyOf ps (fo.leaf n).owner
    let bs := if isParty ps (fo.leaf n).owner then s.getFor p.id (p.job.addr + word (4 * (n - firstOf fo.owners p.part))) 4
      else s.farBytes (4 * n) 4
    (bytesNat (bs.map (·.1)), bs.any (·.2)))

/-- An MCUT round that reads a poisoned weight ends POISON and records no cut (R309). -/
def State.poisonCut (s : State) (r : Round) (ps : List Party) : State :=
  (ps.foldl (fun t p => t.endParty p 0x02 0 [(16, List.replicate 12 0, true)]) s).closeRound r

/-- Run an MCUT round (R309). -/
def State.runCut (s : State) (r : Round) (fo : Forest) (ps : List Party) : State :=
  let ws := s.readWeights fo ps
  if ws.any (·.2) then s.poisonCut r ps
  else
    let owners := cutOwners fo.npart (ws.map (·.1))
    let s1 := { s with forests := kvSet s.forests r.forest { fo with cut := some owners } }
    (ps.foldl (fun t p => t.endParty p 0 (BitVec.ofNat 32 (countOf owners p.part))
      [(16, natBytes (sumNat (ws.map (·.1))) 8, false), (24, b32 (firstOf owners p.part), false)]) s1).closeRound r

/-! ### MMIG (R310, R311) -/

/-- A convoy: from, to, first leaf, leaves. -/
structure Convoy where
  src : Nat
  dst : Nat
  lo  : Nat
  n   : Nat
deriving DecidableEq, Repr, Inhabited

/-- The convoys between two cuts: maximal runs (R310). -/
def convoys : Nat → List Nat → List Nat → List Convoy
  | n, a :: as, b :: bs =>
    if a = b then convoys (n + 1) as bs
    else
      match convoys (n + 1) as bs with
      | c :: t => if c.src = a ∧ c.dst = b ∧ c.lo = n + 1 then { c with lo := n, n := c.n + 1 } :: t else ⟨a, b, n, 1⟩ :: c :: t
      | [] => [⟨a, b, n, 1⟩]
  | _, _, _ => []

/-- A one-row block. -/
def legBlock (src dst : Word) (n rdir : Nat) : CopyBlock :=
  { src := src, dst := dst, len := n, rows := 1, spitch := 0, dpitch := 0, scope := 0, acq := false, rel := false,
    csum := 0, cmp := false, nobook := false, abv := false, mcast := 0, rdir := rdir, rwin := 0, chainbk := 0, aboff := 0,
    abtag := 0, seed := 0, want := 0 }

/-- A stretch of memory of a partition: an address, and the remote window that reaches it if it lies on another
device. -/
structure Stretch where
  addr : Word
  win  : Option RWin
deriving DecidableEq, Repr, Inhabited

/-- The bytes of a stretch, with their poison. -/
def State.stretchBytes (s : State) (ctx : Nat) (x : Stretch) (n : Nat) : List (Byte × Bool) :=
  match x.win with
  | none => s.ctxBytes ctx x.addr n
  | some w => (memBytes s.mem (keyPeer w.peer x.addr.toNat) n).map (fun b => (b, false))

/-- A copy of a round between two stretches, its bytes read now (log 17). -/
def State.legFor (s : State) (r : Round) (p : Party) (src dst : Stretch) (n : Nat) : Leg :=
  { die := p.job.num / Config.meshNumbers, ctx := p.mesh.ctx, forest := r.forest, round := r.no, part := p.part, convoy := none,
    obj := none, whole := false, data := s.stretchBytes p.mesh.ctx src n,
    blk := legBlock src.addr dst.addr n (if dst.win.isSome then 1 else if src.win.isSome then 2 else 0),
    win := dst.win.or src.win, pred := none, hrec := none }

/-- Where a partition's object lies as another reaches it: OBJ of its descriptor, or on another device a place that the
partition table does not name (log 82). -/
def State.objOf (s : State) (fo : Forest) (ps : List Party) (p : Nat) : Stretch :=
  if isParty ps p then ⟨(partyOf ps p).mesh.desc.obj, none⟩
  else ⟨Config.remoteObj s.own.free p, some (s.partWin fo p)⟩

/-- A slot of a field array of a partition. -/
def State.slotOf (s : State) (fo : Forest) (ps : List Party) (p : Nat) (f : FieldArr) (slot : Nat) : Stretch :=
  ⟨f.base + word (slot * f.esize), if isParty ps p then none else some (s.partWin fo p)⟩

/-- The copies of a convoy, in the order of their chain: the leaf records, then each field (R310). -/
def State.convoyLegs (s : State) (r : Round) (fo : Forest) (new : List Nat) (ps : List Party) (c : Convoy) : List Leg :=
  if !isParty ps c.src && !isParty ps c.dst then []
  else
    let p := partyOf ps (if isParty ps c.src then c.src else c.dst)
    let i := c.lo - firstOf fo.owners c.src
    let j := c.lo - firstOf new c.dst
    let go := fun (x : Stretch) (o : Nat) => { x with addr := x.addr + word o }
    let leaf := s.legFor r p (go (s.objOf fo ps c.src) (p.mesh.desc.used i)) (go (s.objOf fo ps c.dst) (p.mesh.desc.used j)) (32 * c.n)
    let fields := ((s.fieldsBy p.mesh c.src).zip (s.fieldsBy p.mesh c.dst)).map (fun f =>
      s.legFor r p (s.slotOf fo ps c.src f.1 i) (s.slotOf fo ps c.dst f.2 j) (f.1.esize * c.n))
    ({ leaf with obj := if isParty ps c.dst then some (partyOf ps c.dst).job.num else none } :: fields).map
      (fun l => { l with convoy := some (c.src, c.dst) })

/-- The first leaf that stays with a partition, and how many do. -/
def stayers (old new : List Nat) (p : Nat) : Nat × Nat :=
  let lo := max (firstOf old p) (firstOf new p)
  (lo, min (firstOf old p + countOf old p) (firstOf new p + countOf new p) - lo)

/-- The copies that move the slots of the leaves that stay with a partition and change slot (R310). -/
def State.shiftLegs (s : State) (r : Round) (fo : Forest) (new : List Nat) (ps : List Party) (p : Party) : List Leg :=
  let st := stayers fo.owners new p.part
  if st.2 = 0 ∨ firstOf fo.owners p.part = firstOf new p.part then []
  else (s.fieldsOf p.mesh).map (fun f =>
    s.legFor r p (s.slotOf fo ps p.part f (st.1 - firstOf fo.owners p.part)) (s.slotOf fo ps p.part f (st.1 - firstOf new p.part))
      (f.esize * st.2))

/-- Add copies to a round, each chained to the one before it. -/
def State.addChain (s : State) (ls : List Leg) : State :=
  (ls.foldl (fun (acc : State × Option Nat) l =>
    let n := acc.1.legs.foldl (fun m x => max m x.1) 0 + 1
    ({ acc.1 with legs := acc.1.legs ++ [(n, { l with pred := acc.2 })] }, some n)) (s, none)).1

/-- Issue a copy where its engines have a place for it and the copy it is chained to has been issued (R257, R310). -/
def State.issueLeg (s : State) (n : Nat) : State :=
  match kvGet s.legs n with
  | none => s
  | some l =>
    let i := CmdId.topo l.die n
    let cluster := Config.topoEngine (s.own.free * 2 ^ 30 + n) % 16
    let pred := l.pred.bind (fun m => s.cmd (.topo l.die m))
    let j := { newCopy 0 (ioOf l.die) cluster l.blk l.win with pred := l.pred }
    if l.hrec.isSome ∨ (l.pred.isSome ∧ pred.isNone) ∨ !(s.enginesOf i j).all s.placeFree then s
    else
      let c := s.copyRec i n 0 j pred
      let job := fun (r : HRec) => match r.job with | .copy j => { r with job := .copy { j with pred := l.pred } } | _ => r
      ({ s with books := c.2, legs := kvSet s.legs n { l with hrec := some (job c.1) } }).settleCopy i pred

/-- The copies of a round, by number. -/
def State.legsOf (s : State) (r : Round) : List (Nat × Leg) :=
  s.legs.filter (fun l => l.2.forest == r.forest && l.2.round == r.no)

/-- Issue what can be issued of a round's copies. -/
def State.issueLegs (s : State) (r : Round) : State := (s.legsOf r).foldl (fun t l => t.issueLeg l.1) s

/-- A round's copies are planned. -/
def State.beginRound (s : State) (r : Round) : State := s.setRound r (fun x => { x with begun := true })

/-- Whether a copy has ended. -/
def Leg.over (l : Leg) : Bool := l.hrec.any HRec.over

/-- The status of the first copy that failed of itself, among copies in order (R311). -/
def legFailure (ls : List Leg) : Option Nat :=
  (ls.find? (fun l => l.hrec.any (fun r => r.st == .failed && r.status != 0x05))).bind (fun l => l.hrec.map (·.status))

/-- Whether a copy read poison (R292). -/
def Leg.poisoned (l : Leg) : Bool := l.data.any (·.2)

/-- The due dates of the MMIGs of a round, once all their convoys are issued: the latest of these; one without convoys
keeps its free value (R289, log 17). -/
def State.dateMig (s : State) (r : Round) (ps : List Party) : State :=
  ps.foldl (fun t p =>
    let mine := ((t.legsOf r).map (·.2)).filter (fun l => l.convoy.any (fun c => c.1 == p.part || c.2 == p.part))
    match t.cmd p.id with
    | none => t
    | some rec =>
      if mine.isEmpty || mine.any (fun l => l.hrec.isNone) then t
      else
        let due := mine.foldl (fun n l => match l.hrec with | some c => max n c.due | none => n) 0
        t.setCmd p.id { rec with due := due, unbooked := due == dueNever }) s

/-- The slots of a partition that a migration writes: arrivals, leaves that change slot, and ghosts. -/
def migSlots (fo : Forest) (new : List Nat) (p : Nat) : List Nat :=
  let own := ((List.range fo.leaves.length).filter (fun n => new.getD n 0 == p &&
    ((fo.leaf n).owner != p || firstOf fo.owners p != firstOf new p))).map (· - firstOf new p)
  own ++ List.range' (countOf new p) (fo.ghostsBy new p).length

/-- Bytes of one slot of a field of a partition. -/
def State.slotBytes (s : State) (m : Mesh) (f : FieldArr) (slot : Nat) : List (Byte × Bool) :=
  s.ctxBytes m.ctx (f.base + word (slot * f.esize)) f.esize

/-- Poison every slot that a migration of a forest would have written, in every field array of every partition on this
device (R311). -/
def State.spoilMig (s : State) (forest : Nat) (new : List Nat) : State :=
  let fo := s.forest forest
  (s.meshes.filter (fun m => m.2.forest == forest)).foldl (fun t x => (s.fieldsOf x.2).foldl (fun t f =>
    (migSlots fo new x.2.desc.part).foldl (fun t n =>
      t.ctxPut x.2.ctx (f.base + word (n * f.esize)) ((s.slotBytes x.2 f n).map (fun b => (b.1, true)))) t) t) s

/-- Write the ghost slots of a partition as zero (R310). -/
def State.zeroGhosts (t s : State) (fo : Forest) (new : List Nat) (p : Party) : State :=
  (s.fieldsOf p.mesh).foldl (fun t f =>
    t.ctxPut p.mesh.ctx (f.base + word (countOf new p.part * f.esize))
      (List.replicate ((fo.ghostsBy new p.part).length * f.esize) (0, false))) t

/-- Leaves that the convoys take from a partition, or bring to it. -/
def convoyCount (cs : List Convoy) (sel : Convoy → Bool) : Nat := sumNat ((cs.filter sel).map (·.n))

/-- The slots of a partition's object whose leaf records a convoy brought. -/
def broughtTo (cs : List Convoy) (new : List Nat) (p : Nat) : List (Nat × Nat) :=
  (cs.filter (fun c => c.dst == p)).map (fun c => (c.lo - firstOf new p, c.n))

/-- Commit a migration whose copies have all landed; with poison read, it ends POISON (R292, R303, R310). -/
def State.commitMig (s : State) (r : Round) (fo : Forest) (new : List Nat) (ps : List Party) : State :=
  let cs := convoys 0 fo.owners new
  let status := if (s.legsOf r).any (fun l => l.2.poisoned) then 0x02 else 0
  let leaves := fo.leaves.zipIdx.map (fun l => { l.1 with owner := new.getD l.2 0 })
  let s1 := { s with forests := kvSet s.forests r.forest { fo with leaves := leaves, gen := fo.gen + 1, cut := none } }
  let s2 := ps.foldl (fun t p =>
    (t.zeroGhosts s fo new p).writeObj p.job.num p.mesh (countOf new p.part) (broughtTo cs new p.part)) s1
  (ps.foldl (fun t p => t.endParty p status (BitVec.ofNat 32 (cs.countP (fun c => c.src == p.part)))
    [(16, b32 (convoyCount cs (fun c => c.src == p.part)), false), (20, b32 (convoyCount cs (fun c => c.dst == p.part)), false)]) s2).closeRound r

/-- Plan the copies of a migration: each convoy's chain, then the moves within arrays (R310). -/
def State.planMig (s : State) (r : Round) (fo : Forest) (new : List Nat) (ps : List Party) : State :=
  let s1 := (convoys 0 fo.owners new).foldl (fun t c => t.addChain (s.convoyLegs r fo new ps c)) (s.beginRound r)
  ps.foldl (fun t p => (s.shiftLegs r fo new ps p).foldl (fun t l => t.addChain [l]) t) s1

/-- The copies of a migration go on: those that have a place are issued; when all have ended, the migration fails, or
commits unless a stream holds it back (R303, R310, R311). -/
def State.goMig (s : State) (r : Round) (fo : Forest) (new : List Nat) (ps : List Party) : State :=
  let s1 := (s.issueLegs r).dateMig r ps
  let ls := (s1.legsOf r).map (·.2)
  if ls.any (fun l => !l.over) then s1
  else
    match legFailure ls with
    | some status => (s1.spoilMig r.forest new).failRound r ps status
    | none => if s1.streaming r.forest then s1 else s1.commitMig r fo new ps

/-- Run an MMIG round: its checks, its copies, then its commit (R310). -/
def State.runMig (s : State) (r : Round) (fo : Forest) (ps : List Party) : State :=
  match fo.cut with
  | none => (ps.foldl (fun t p => t.endParty p 0 0 [(16, b32 0, false), (20, b32 0, false)]) s).closeRound r
  | some new =>
    let need := fun (p : Party) => countOf new p.part + (fo.ghostsBy new p.part).length
    if r.begun then s.goMig r fo new ps
    else if ps.any (fun p => decide (countOf new p.part > p.mesh.desc.maxleaf)) then s.failRound r ps 0x13
    else if ps.any (fun p => (s.fieldsOf p.mesh).any (fun f => decide (need p > f.cap))) then
      (ps.foldl (fun t p => t.endParty p 0x10 (BitVec.ofNat 32 (need p)) []) s).closeRound r
    else (s.planMig r fo new ps).goMig r fo new ps

/-! ### MHALO (R312) -/

/-- The fields of a partition that its FMASK selects. -/
def State.haloFields (s : State) (p : Party) : List (FieldArr × Nat) :=
  (s.fieldsOf p.mesh).zipIdx.filter (fun f => p.job.fmask.getLsbD f.2)

/-- The slots that a partition needs. -/
def haloNeed (fo : Forest) (p : Party) : Nat := countOf fo.owners p.part + (fo.ghosts p.part).length

/-- Whether a selected array of a partition is too small. -/
def State.haloSmall (s : State) (fo : Forest) (p : Party) : Bool := (s.haloFields p).any (fun f => decide (haloNeed fo p > f.1.cap))

/-- The copies that refresh one partition's ghost slots from the owners' slots (R312). -/
def State.haloLegs (s : State) (r : Round) (fo : Forest) (ps : List Party) (p : Party) : List Leg :=
  (s.haloFields p).flatMap (fun f => (fo.ghosts p.part).zipIdx.map (fun g =>
    let q := (fo.leaf g.1).owner
    let src := s.slotOf fo ps q ((s.fieldsBy p.mesh q).getD f.2 default) (g.1 - firstOf fo.owners q)
    { s.legFor r p src (s.slotOf fo ps p.part f.1 (countOf fo.owners p.part + g.2)) f.1.esize with whole := true }))

/-- The copies of an MHALO go on, and when all have ended so do its commands (R292, R312). -/
def State.goHalo (s : State) (r : Round) (fo : Forest) (ps : List Party) : State :=
  let s1 := s.issueLegs r
  let ls := (s1.legsOf r).map (·.2)
  if ls.any (fun l => !l.over) then s1
  else
    (ps.foldl (fun t p =>
      let mine := ls.filter (fun l => l.part == p.part)
      let n := BitVec.ofNat 32 ((s.haloFields p).length * (fo.ghosts p.part).length)
      if s.haloSmall fo p then t.endParty p 0x10 (BitVec.ofNat 32 (haloNeed fo p)) []
      else
        match legFailure mine with
        | some status => t.endParty p status (Config.openResult t.own.free) []
        | none => t.endParty p (if mine.any Leg.poisoned then 0x02 else 0) n []) s1).closeRound r

/-- Run an MHALO round (R312). -/
def State.runHalo (s : State) (r : Round) (fo : Forest) (ps : List Party) : State :=
  if r.begun then s.goHalo r fo ps
  else (ps.foldl (fun t p => if s.haloSmall fo p then t
    else (s.haloLegs r fo ps p).foldl (fun t l => t.addChain [l]) t) (s.beginRound r)).goHalo r fo ps

/-! ### Rounds end -/

/-- Whether the round's next act commits a generation (R303). -/
def commits (ps : List Party) : Bool := ps.all (fun p => p.job.op == MeshOp.adapt || p.job.op == MeshOp.mig)

/-- Run a ready round (R308): one whose copies are planned goes on with them. -/
def State.runRound (s : State) (r : Round) : State :=
  let ps := s.parties r
  let fo := s.forest r.forest
  if !s.roundReady r || s.dev.warm.isSome then s
  else
    match ps with
    | [] => s
    | p :: _ =>
      if r.begun then (if p.job.op = MeshOp.mig then s.runMig r fo ps else s.runHalo r fo ps)
      else if ps.any (fun q => q.job.op != p.job.op) || (s.remotes fo).any (fun x => x.op != p.job.op) then s.failRound r ps 0x16
      else if p.job.op = MeshOp.adapt ∧ s.streaming r.forest then s
      else if ps.any (fun q => !s.objOk q.mesh) then s.failRound r ps 0x17
      else
        match (s.remotes fo).findSome? Remote.status with
        | some status =>
          if status = 0x02 then (if p.job.op = MeshOp.adapt then s.poisonAdapt r ps else s.poisonCut r ps)
          else s.failRound r ps status
        | none =>
          match p.job.op with
          | .adapt => s.runAdapt r fo ps
          | .cut => s.runCut r fo ps
          | .mig => s.runMig r fo ps
          | .halo => s.runHalo r fo ps

/-- TOPOLOGY_COMMAND_COMPLETION (R292, R305 to R312). -/
def execTopologyCommandCompletion (i : CmdId) (s : State) : Out :=
  match s.joins.find? (fun r => !r.dead && r.joined.any (fun j => j.2.1 == i)) with
  | some r => .next ((s.noteFull r).runRound { r with full := s.allJoined r })
  | none => .next s

/-- The forest of a mesh number of a die. -/
def State.forestAt (s : State) (die num : Nat) : Option Nat := (kvGet s.meshes (meshKey die num)).map (·.forest)

/-- GENERATION_COMMIT (R303). -/
def execGenerationCommit (die num : Nat) (s : State) : Out :=
  match s.forestAt die num with
  | none => .next s
  | some f =>
    match s.joins.find? (fun r => r.forest == f && s.roundReady r && commits (s.parties r)) with
    | some r => .next (s.runRound r)
    | none => .next s

/-- COLLECT_TIMEOUT (R308). -/
def execCollectTimeout (die num : Nat) (s : State) : Out :=
  match s.forestAt die num with
  | none => .next s
  | some f =>
    match s.joins.find? (fun r => r.forest == f && !r.dead && !r.begun && !r.full && r.limit != 0 &&
        decide (s.now ≥ r.since + r.limit)) with
    | some r => .next (s.expireRound r)
    | none => .next s

/-- End ABORTED the copies of a round that a test selects, and forget those not issued (R283). -/
def State.abortLegs (s : State) (r : Round) (sel : Leg → Bool) : State :=
  let mine := (s.legsOf r).filter (fun l => sel l.2)
  let s1 := mine.foldl (fun t l => match t.cmd (.topo l.2.die l.1) with
    | some c => t.endOne (.topo l.2.die l.1) 0x06 c.sumNow
    | none => t) s
  { s1 with legs := s1.legs.filter (fun l => !(mine.any (fun m => m.1 == l.1) && l.2.hrec.isNone)) }

/-- A command leaves a round; a round whose copies are planned, or that has no command left, is closed when the last has
left it (R293). -/
def State.leaveRound (s : State) (r : Round) (i : CmdId) : State :=
  let s1 := s.setRound r (fun x => { x with full := x.full && x.begun, joined := x.joined.filter (fun j => j.2.1 != i) })
  { s1 with joins := s1.joins.filter (fun x => !(x.forest == r.forest && x.no == r.no && x.joined.isEmpty)) }

/-- End a topology command ABORTED: an MMIG of a pending cut spoils the slots that the migration would have written, and
where its copies are planned fails on every partition; an MHALO leaves the others to go on (R283, R311, R312). -/
def State.abortMesh (s : State) (i : CmdId) : State :=
  match s.joins.find? (fun r => !r.dead && r.joined.any (fun j => j.2.1 == i)) with
  | none => s.endCmd i 0x06 (Config.openResult s.own.free)
  | some r =>
    let ps := s.parties r
    let mig := ps.any (fun p => p.id == i && p.job.op == MeshOp.mig)
    let s1 := match mig, (s.forest r.forest).cut with
      | true, some new => s.spoilMig r.forest new
      | _, _ => s
    if r.begun && mig then (s1.abortLegs r (fun _ => true)).failRound r ps 0x06
    else
      ((s1.abortLegs r (fun l => ps.any (fun p => p.id == i && p.part == l.part))).leaveRound r i).endCmd i 0x06
        (Config.openResult s.own.free)

end Sys2Proof.Machine
end

