-- ==== Sys2Proof/Machine/Slices.lean ====
section
/-! DEFINITION. How caravans and slices end (11_tasks R323, R336, R337, R349, R350), and the events of regions
(04_access R146). -/

namespace Sys2Proof.Machine

/-! ### Stores that leave with their hart (R171, R336) -/

/-- Perform every pending store of a hart, in order. -/
def State.drain (s : State) (k : HartKey) : State :=
  ((s.hart k).mem.pend.foldl (fun t p => t.performStore p) s).modHart k (fun h => { h with mem := { h.mem with pend := [] } })

/-! ### Cores, tags and private areas (R323, R340, R383) -/

/-- Clear a range: zero, without poison. -/
def State.clear (s : State) (lo n : Nat) : State :=
  { s with mem := memDrop s.mem lo n, poison := poisonClear s.poison lo n }

/-- Clear the pages of a private area (R323, R340). -/
def State.clearPriv (s : State) (ctx base n : Nat) : State :=
  (List.range (n / 0x10000)).foldl (fun t p => t.clear (privPageKey t ctx (base + p * 0x10000)) 0x10000) s

/-- What WUCHG reads is brought up to date (R383). -/
def Ctx.show (c : Ctx) : Ctx := { c with shown := c.charge / 1000 }

/-- A caravan leaves its requests: it is no victim any more (R342). -/
def Disp.off (d : Disp) (c : CarId) : Disp :=
  let rs := d.reqs.map (fun r => if r.victim = some c then { r with victim := none } else r)
  { d with reqs := rs.filter (fun r => r.victim.isSome || !r.cores.isEmpty) }

/-- The requests for a slice hold no cores any more (R342). -/
def Disp.unhold (d : Disp) (n : Nat) : Disp :=
  let rs := d.reqs.map (fun r => if r.slice = n then { r with cores := [] } else r)
  { d with reqs := rs.filter (fun r => r.victim.isSome || !r.cores.isEmpty) }

/-- The bits of DBGCTL that stay as they are written: bit 3 of the register first (R371). -/
def Traps.dbgBits (t : Traps) : BitVec 5 :=
  BitVec.ofNat 5 ((if t.stepa then 1 else 0) + (if t.stepx then 2 else 0) + (if t.brkdbg then 4 else 0) +
    (if t.stepdbg then 8 else 0) + (if t.cvhalt then 16 else 0))

/-- Set them. -/
def Traps.withDbg (t : Traps) (b : BitVec 5) : Traps :=
  { t with stepa := b.getLsbD 0, stepx := b.getLsbD 1, brkdbg := b.getLsbD 2, stepdbg := b.getLsbD 3, cvhalt := b.getLsbD 4 }

/-- A caravan leaves its cores (R346, R383); each core keeps what its DBGCTL holds (R372). -/
def State.freeCores (s : State) (c : CarId) (v : Caravan) : State :=
  let ctx := (s.sliceNo v.slice).ctx
  let s1 := v.cores.zipIdx.foldl (fun t n =>
    t.setCore n.1 { t.coreNo n.1 with occ := (ctx, v.placedAt, t.now) :: (t.coreNo n.1).occ,
                                      dbg := (t.hart ⟨c.die, c.slot, n.2⟩).tr.dbgBits }) s
  let s2 := s1.setDisp c.die ((s1.disp c.die).off c)
  { s2 with ctxs := kvSet s2.ctxs ctx (s2.ctxNo ctx).show }

/-- Whether a command was issued by a caravan. -/
def issuedBy (c : CarId) (i : CmdId) : Bool :=
  match i with
  | .hart k _ => decide (carKey k = c)
  | .graph _ _ => false
  | .topo _ _ => false

/-- A caravan ends: its stores are performed, its cores, tag and private areas are free, and the areas are
cleared (R323, R340). -/
def State.freeCar (s : State) (c : CarId) (v : Caravan) : State :=
  let ks := carHarts c v.size
  let s1 := ks.foldl (fun t k => t.drain k) s
  let ctx := (s1.sliceNo v.slice).ctx
  let s2 := ks.foldl (fun t k => t.clearPriv ctx (t.hart k).mem.pbase (t.hart k).mem.privSize) s1
  let units := ks.map (fun k => (s2.hart k).mem.pbase / 0x10000 % Config.privPool)
  let d := s2.disp v.homeDie
  let s3 := (s2.setDisp v.homeDie { d with priv := d.priv.filter (fun u => !units.contains u.1) }).freeCores c v
  { s3 with cars := kvDel s3.cars c, harts := s3.harts.filter (fun p => decide (carKey p.1 ≠ c)),
            bazs := s3.bazs.map (fun b => (b.1, b.2.filter (fun i => !issuedBy c i))) }

/-! ### Signals (R330, R337) -/

/-- The bytes of a signal word (R330). -/
def signalBytes (v : Word) (fail : Bool) : List Byte := natBytes (v.toNat % 2 ^ 63 + (if fail then 2 ^ 63 else 0)) 8

/-- Write a value to a signal word, with FAIL when it reports failure; 0 names no word. -/
def State.writeSignal (s : State) (ctx : Nat) (g v : Word) (fail : Bool) : State :=
  if g = 0 then s else s.ctxPut ctx g ((signalBytes v fail).map (fun b => (b, false)))

/-- Write a slot's signal: through its context, or for a context that is not VALID at the bus address that SIGNAL then
is (R356, R358, R392, log 84). -/
def State.slotSignal (s : State) (ctx : Nat) (g v : Word) (fail : Bool) : State :=
  if (s.ctxNo ctx).valid ∨ g = 0 then s.writeSignal ctx g v fail
  else s.putBytes ((signalBytes v fail).zipIdx.map (fun b => (keyHost (gVa g + b.2), b.1, false)))

/-! ### Slices (R335, R350) -/

/-- A slice leaves a region: a demand that no lease answers yet is withdrawn, else its lease is released. -/
def Region.leave (r : Region) (n : Nat) : Region :=
  if r.queue.contains (.slice n) then { r with queue := r.queue.filter (fun d => d ≠ .slice n) } else r.release

/-- A slice leaves its regions (R146, R335). -/
def State.leaveAll (s : State) (n ctx : Nat) (d : Desc) : State :=
  (d.movable ctx).foldl (fun t r => t.setRegion ctx r ((t.region ctx r).leave n)) s

/-- Whether the stacks that home a slice's leases are ready (R394). -/
def State.stacksUp (s : State) (sl : Slice) : Bool :=
  (sl.desc.movable sl.ctx).all (fun r =>
    let d := Config.homeDie sl.ctx r % 4
    s.unitUp (.hbm (3 * d)) && s.unitUp (.hbm (3 * d + 1)) && s.unitUp (.hbm (3 * d + 2)))

/-- The PENDING slices that can be enqueued are, in the order of their submission (R32, R350, R394). -/
def State.admitPending (s : State) : State :=
  s.slices.foldl (fun t p =>
    let sl := t.sliceNo p.1
    if sl.st == SliceState.pending && t.resident p.1 sl.ctx sl.desc && t.stacksUp sl && t.dieTakes sl.die then t.enqueue p.1 sl
    else t) s

/-- A slice ends DONE or FAILED: its signal is written, its leases and its reservations go (R335, R337, R350). -/
def State.finishSlice (s : State) (n : Nat) (fail : Bool) : State :=
  let sl := s.sliceNo n
  let s1 := s.writeSignal sl.ctx sl.desc.signal sl.desc.sigval fail
  let s2 := (s1.setSlice n { sl with st := if fail then .failed else .done }).leaveAll n sl.ctx sl.desc
  (s2.setDisp sl.die ((s2.disp sl.die).unhold n)).admitPending

/-- End every command of a caravan that has not ended, ABORTED (R283). -/
def State.abortCar (s : State) (c : CarId) (v : Caravan) : State :=
  (carHarts c v.size).foldl (fun t k =>
    let t1 := t.abortCmds k (fun r => !r.isMesh)
    (t1.running k (fun r => r.isMesh)).foldl (fun u i => u.abortMesh i) t1) s

/-- A slice that fails has ended: its caravans are off their cores, its commands are aborted, and its signal
is written with FAIL (R337, R350). -/
def State.failEnd (s : State) (n : Nat) : State :=
  let s1 := (s.carsOf n).foldl (fun t p => t.abortCar p.1 p.2) s
  ((s1.carsOf n).foldl (fun t p => t.freeCar p.1 p.2) s1).finishSlice n true

/-- The first slice of an identifier that a test selects; number 0 names a slice never enqueued. -/
def State.findSlice (s : State) (i : SliceId) (sel : Slice → Bool) : Option Nat :=
  (s.slices.find? (fun p => p.2.die == i.die && p.2.num == i.num && sel p.2)).map (·.1)

/-- SLICE_FAILED_END (R337, R350). -/
def execSliceFailedEnd (i : SliceId) (s : State) : Out :=
  match s.findSlice i (fun sl => sl.st == .ending) with
  | some n => if s.dev.warm.isSome then .next s else .next (s.failEnd n)
  | none => .next s

/-- Whether a caravan's harts have all ended and every command they issued has ended (R323). -/
def State.carDone (s : State) (c : CarId) (v : Caravan) : Bool :=
  (v.ended &&& sizeMask v.size == sizeMask v.size) && (carHarts c v.size).all (fun k => (s.running k (fun _ => true)).isEmpty)

/-- CARAVAN_RETIRE (R323, R337, R349, R350). -/
def execCaravanRetire (c : CarId) (s : State) : Out :=
  match kvGet s.cars c with
  | none => .next s
  | some v =>
    if (v.st == .running || v.st == .stopping) && s.carDone c v && s.dev.warm.isNone then
      let sl := s.sliceNo v.slice
      let s1 := (s.freeCar c v).setSlice v.slice { sl with retired := sl.retired + 1 }
      .next (if sl.retired + 1 ≥ sl.desc.count ∧ sl.st = .ready then s1.finishSlice v.slice false else s1)
    else .next s

/-! ### Regions (R146) -/

/-- HOST_DEMAND (R146). -/
def execHostDemand (ctx region : Nat) (s : State) : Out :=
  .next (s.setRegion ctx region ((s.region ctx region).demand .host))

/-- The bytes of a region's move (R146). -/
def State.moveBytes (s : State) (ctx region : Nat) : State :=
  match (s.region ctx region).st with
  | .toDevice => s.moveRegion ctx region false
  | .toHost => s.moveRegion ctx region true
  | _ => s

/-- Whether what a region's move crosses is ready: the host link of its engine's I/O die, the region's home die with its
stacks, and the dies between them; until then the move goes on (R146, R394, log 47). -/
def State.moveUp (s : State) (ctx region : Nat) : Bool :=
  let io := (moveEngine ctx region - 64) / 16
  let d := Config.homeDie ctx region % 4
  s.unitUp (.hostLink io) && (route (4 + io) d).all (fun n => n ≥ 4 || s.unitUp (.cd n)) &&
    s.unitUp (.hbm (3 * d)) && s.unitUp (.hbm (3 * d + 1)) && s.unitUp (.hbm (3 * d + 2))

/-- REGION_MOVE_COMPLETE (R146, R350): the move had a place of a copy engine of the I/O dies (R257), which a warm reset
has not stopped (R378). -/
def execRegionMoveComplete (ctx region : Nat) (s : State) : Out :=
  if s.movePlace ctx region && s.moveUp ctx region && s.dev.warm.isNone then
    .next ((s.moveBytes ctx region).setRegion ctx region (s.region ctx region).moved).admitPending
  else .next s

end Sys2Proof.Machine
end

