-- ==== Sys2Proof/Machine/Graphs.lean ====
section
/-! DEFINITION. The command processors: host queues and slots, slices they submit, graphs, end reports and
submission signals (11_tasks R352 to R358, R427, R428, 13_device R391, R394, R395). -/

namespace Sys2Proof.Machine

/-! ### Whether a command processor works (R394, R398) -/

/-- Whether the command processors of an I/O die take a step: ready, not being replaced, no warm reset. -/
def State.cpUp (s : State) (io : Nat) : Bool := s.unitUp (.cps io) && s.dev.repl.isNone && s.dev.warm.isNone

/-- Whether a context is usable (R392). -/
def State.ctxUp (s : State) (ctx : Nat) : Bool := (s.ctxNo ctx).valid

/-! ### Submitting a slice (R32, R142, R350, R427) -/

/-- Read and check a launch descriptor of a context. -/
def State.ctxDesc (s : State) (ctx : Nat) (g : Word) : Option Desc :=
  if g.toNat % 128 ≠ 0 ∨ gTop g ≠ 0 then none
  else
    let head := (s.ctxBytes ctx g 128).map (·.1)
    let raw := RawDesc.ofBytes (head ++ (s.ctxBytes ctx (g + 128) (16 * min 16 (nleaseOf (bytesNat head)))).map (·.1))
    if raw.bad.isSome then none else some raw.desc

/-- The 64 KiB pages of a slice's leases. -/
def Desc.pages (d : Desc) : List Nat :=
  ((d.leases.filter (fun l => l.len != 0)).flatMap (fun l =>
    List.range' (l.base / 0x10000) ((l.base + l.len - 1) / 0x10000 + 1 - l.base / 0x10000))).eraseDups

/-- Whether the leases map one physical page at two addresses, one of them writable (R142). -/
def State.doubleMapped (s : State) (ctx : Nat) (d : Desc) : Bool :=
  let at_ := fun (p : Nat) => walkFrom s.mem needW (p * 0x10000) walkLevels (s.ctxNo ctx).root
  d.pages.any (fun p => d.pages.any (fun q =>
    p != q && (match at_ p, at_ q with
      | some a, some b => a.1 == b.1 && a.2.1 == b.2.1 && (a.2.2 || b.2.2)
      | _, _ => false)))

/-- The die of a submitted slice: the one its submission names, or a ready one that `pick` chooses (R427). -/
def State.pickDie (s : State) (named : Option Nat) (pick : Nat) : Nat :=
  match named with
  | some d => d
  | none =>
    let up := (List.range 4).filter (fun d => s.unitUp (.cd d))
    up.getD (pick % up.length) (pick % 4)

/-- The die that a descriptor names. -/
def Desc.named (d : Desc) : Option Nat := if d.dieV then some d.die else none

/-- Submit a slice: it is PENDING, its leases are demanded, and it is enqueued when it can be; one whose leases
R142 forbids fails at once. The slice's number in the state, and the state. -/
def State.submit (s : State) (ctx : Nat) (d : Desc) (die : Nat) (who : Submitter) (io : Nat) (sysRel : Bool) : Nat × State :=
  let n := s.newSlice
  let sl := Slice.fresh die ctx (if sysRel then { d with rel := true, scope := 4 } else d) who io sysRel
  if s.doubleMapped ctx d then (n, s.setSlice n { sl with st := .ending, endAt := s.now })
  else (n, ((s.setSlice n sl).demandAll n ctx d).admitPending)

/-! ### Slots (R356 to R358, R391) -/

/-- The key of a host queue. -/
def queueKey (fn q : Nat) : Nat := fn * 32 + q

/-- A host queue. -/
def State.queue (s : State) (fn q : Nat) : HostQueue := kvGetD s.queues (queueKey fn q) HostQueue.reset

/-- Replace a host queue. -/
def State.setQueue (s : State) (fn q : Nat) (v : HostQueue) : State := { s with queues := kvSet s.queues (queueKey fn q) v }

/-- A slot as it is read; its reserved fields are ignored (R8). -/
structure Slot where
  kind   : Nat
  ctx    : Nat
  addr   : Word
  signal : Word
  sigval : Word
deriving DecidableEq, Repr, Inhabited

/-- The fields of a slot (R356). -/
def Slot.ofNat (n : Nat) : Slot :=
  { kind := bitsOf n 7 0, ctx := bitsOf n 31 16, addr := word (bitsOf n 127 64), signal := word (bitsOf n 191 128),
    sigval := word (bitsOf n 255 192) }

/-- A number for a new submission. -/
def State.newSub (s : State) : Nat := s.subs.foldl (fun n p => max n p.1) 0 + 1

/-- A number for a new graph. -/
def State.newGraph (s : State) : Nat := s.graphs.foldl (fun n p => max n p.1) 0 + 1

/-- A graph before its first node. -/
def Graph.fresh (ctx io : Nat) (base : Word) (sub : Nat) : Graph :=
  { ctx := ctx, io := io, base := base, pos := 0, st := .running, counts := [], waiting := none, slices := [], copies := [],
    issued := 0, sub := sub }

/-- Run what a slot names; none when the slot is invalid or its context or FEAT does not allow it (R392, R395). -/
def State.runSlot (s : State) (x : Slot) (fn sub pick : Nat) : Option State :=
  if !s.dev.featSet || !s.ctxUp x.ctx then none
  else if x.kind = 1 then
    (s.ctxDesc x.ctx x.addr).map (fun d => (s.submit x.ctx d (s.pickDie d.named pick) (.slot sub) fn true).2)
  else if x.kind = 2 then
    if x.addr.toNat % 64 ≠ 0 ∨ gTop x.addr ≠ 0 then none
    else some { s with graphs := kvSet s.graphs s.newGraph (Graph.fresh x.ctx fn x.addr sub) }
  else none

/-- SUBMISSION_SLOT_READ (R357, R358). -/
def execSubmissionSlotRead (fn q pick : Nat) (s : State) : Out :=
  let hq := s.queue fn q
  if hq.head = hq.tail ∨ !s.cpUp fn then .next s
  else
    let x := Slot.ofNat (bytesNat (memBytes s.mem (keyHost (hq.base + 64 * (hq.head.toNat % 2 ^ hq.lsize))) 64))
    let s1 := s.setQueue fn q { hq with head := hq.head + 1 }
    if x.signal ≠ 0 ∧ x.signal.toNat % 8 ≠ 0 then .next s1
    else
      let n := s1.newSub
      let sub : Submission := { ctx := x.ctx, signal := x.signal, sigval := x.sigval, fin := none }
      match ({ s1 with subs := kvSet s1.subs n sub }).runSlot x fn n pick with
      | some s2 => .next s2
      | none => .next { s1 with subs := kvSet s1.subs n { sub with fin := some true } }

/-- SUBMISSION_END (R358). -/
def execSubmissionEnd (n : Nat) (s : State) : Out :=
  match kvGet s.subs n with
  | some b =>
    match b.fin with
    | some f => .next ({ s with subs := kvDel s.subs n }.slotSignal b.ctx b.signal b.sigval f)
    | none => .next s
  | none => .next s

/-! ### Nodes (R352, R353, R355) -/

/-- A node record (R352). -/
structure Node where
  kind   : Nat
  sync   : Bool
  die    : Option Nat
  target : Nat
  addr   : Word
  value  : Nat
  limit  : Nat
  bad    : Bool
deriving DecidableEq, Repr, Inhabited

/-- Nodes of a graph (R355). -/
def nodeLimit : Nat := 2 ^ 24

/-- The fields of a node, and whether it is invalid: its KIND, a reserved field, or its TARGET (R352, R355). -/
def Node.ofNat (n : Nat) : Node :=
  let k := bitsOf n 7 0
  { kind := k, sync := bitsOf n 8 8 = 1, die := if bitsOf n 11 11 = 1 then some (bitsOf n 10 9) else none,
    target := bitsOf n 63 32, addr := word (bitsOf n 127 64), value := bitsOf n 191 128, limit := bitsOf n 255 192,
    bad := decide (k > 6) || bitsOf n 511 288 != 0 || bitsOf n 31 12 != 0 || decide (bitsOf n 63 32 ≥ nodeLimit) }

/-- A graph. -/
def State.graph (s : State) (g : Nat) : Graph := kvGetD s.graphs g default

/-- Replace a graph. -/
def State.setGraph (s : State) (g : Nat) (v : Graph) : State := { s with graphs := kvSet s.graphs g v }

/-- The node at which a graph stands. -/
def State.nodeAt (s : State) (gr : Graph) : Node := Node.ofNat (s.ctxNat gr.ctx (gr.base + word (64 * gr.pos)) 64)

/-- A graph fails: it issues no further node (R355). -/
def State.failGraph (s : State) (g : Nat) : State :=
  (s.setGraph g { s.graph g with st := .failing, waiting := none }).settleGraph g

/-- Go on at a node. -/
def State.goNode (s : State) (g n : Nat) : State := s.setGraph g { s.graph g with pos := n, waiting := none }

/-- Run the node of a kind at which a running graph stands; an invalid node fails the graph. -/
def State.node (s : State) (g kind : Nat) (f : Graph → Node → State) : Out :=
  match kvGet s.graphs g with
  | none => .next s
  | some gr =>
    if gr.st ≠ .running ∨ !s.cpUp gr.io then .next s
    else
      let nd := s.nodeAt gr
      if nd.bad ∨ gr.pos ≥ nodeLimit then .next (s.failGraph g)
      else if nd.kind = kind then .next (f gr nd)
      else .next s

/-- The wait of a graph at its node, begun now unless it stands already. -/
def Graph.wait (gr : Graph) (now : Nat) : Graph := { gr with waiting := some (gr.waiting.getD (gr.pos, now)) }

/-- The last slice that a node launched. -/
def Graph.lastSlice (gr : Graph) : Option (Option Bool) :=
  ((gr.slices.filter (fun x => x.2.1 == gr.pos)).getLast?).map (·.2.2)

/-- NODE_LAUNCH (R353, R354, R427). -/
def execNodeLaunch (g pick : Nat) (s : State) : Out :=
  s.node g 1 (fun gr nd =>
    match gr.waiting with
    | some _ =>
      match gr.lastSlice with
      | some (some true) => s.failGraph g
      | some (some false) => s.goNode g (gr.pos + 1)
      | _ => s
    | none =>
      match s.ctxDesc gr.ctx nd.addr with
      | none => s.failGraph g
      | some d =>
        let r := s.submit gr.ctx d (s.pickDie (nd.die.or d.named) pick) (.node g gr.pos) gr.io false
        let g1 := { gr with slices := gr.slices ++ [(r.1, gr.pos, none)] }
        r.2.setGraph g (if nd.sync then g1.wait s.now else { g1 with pos := gr.pos + 1 }))

/-- The last copy that a graph issued. -/
def State.lastCopy (s : State) (g : Nat) (gr : Graph) : Option HRec := s.cmd (.graph g (gr.issued - 1))

/-- Whether a range of a graph's copy is mapped, or lies in its remote window (R428). -/
def State.graphRange (s : State) (i : CmdId) (w : Option RWin) (g : Word) (n : Nat) (need : Need) : Bool :=
  match w with
  | some w => w.admits g n need
  | none => gTop g == 0 && decide (gVa g + n ≤ 2 ^ 56) && pagesAll g n (fun a => mapped s (s.ctxOf i) (gVa a) need)

/-- Whether a COPY node's block is valid (R428). -/
def State.graphBlockOk (s : State) (i : CmdId) (ctx n : Nat) (b : CopyBlock) : Bool :=
  let w := s.rwin ctx b.rwin
  (copyFormat n b).isNone && b.chainbk == 0 && b.mcast == 0 && !b.abv && (b.rdir == 0 || w.len != 0) &&
    (List.range b.rows).all (fun r => s.graphRange i (if b.rdir = 2 then some w else none) (b.srcRow r) b.len needR &&
      s.graphRange i (if b.rdir = 1 then some w else none) (b.dstRow r) b.len needW)

/-- Issue a graph's copy (R353, R428). -/
def State.issueCopy (s : State) (g : Nat) (gr : Graph) (nd : Node) (b : CopyBlock) (cluster : Nat) : State :=
  let i := CmdId.graph g gr.issued
  let w := if b.rdir = 0 then none else some (s.rwin gr.ctx b.rwin)
  let r := s.copyRec i gr.issued 0 (newCopy nd.addr gr.io cluster b w) none
  let g1 := { gr with copies := gr.copies ++ [(gr.issued, r.1)], issued := gr.issued + 1 }
  let g2 := if nd.sync then g1.wait s.now else { g1 with pos := gr.pos + 1 }
  (({ s with books := r.2 }).setGraph g g2).settleCopy i none

/-- NODE_COPY (R353, R428). -/
def execNodeCopy (g : Nat) (s : State) : Out :=
  s.node g 2 (fun gr nd =>
    match gr.waiting with
    | some _ =>
      match s.lastCopy g gr with
      | some r => if r.st = .failed then s.failGraph g else if r.st = .done then s.goNode g (gr.pos + 1) else s
      | none => s
    | none =>
      let n := s.ctxNat gr.ctx nd.addr 64
      let b := CopyBlock.ofNat n
      let cluster := Config.topoEngine s.own.free % 16
      if !s.graphBlockOk (.graph g gr.issued) gr.ctx n b then s.failGraph g
      else if !s.placeFree (acceptEngine (.graph g gr.issued) gr.io cluster) then s
      else s.issueCopy g gr nd b cluster)

/-- NODE_SIGNAL (R353). -/
def execNodeSignal (g : Nat) (s : State) : Out :=
  s.node g 3 (fun gr nd =>
    (s.ctxPut gr.ctx nd.addr ((natBytes nd.value 8).map (fun b => (b, false)))).goNode g (gr.pos + 1))

/-- NODE_WAIT (R353, R355). -/
def execNodeWait (g : Nat) (s : State) : Out :=
  s.node g 4 (fun gr nd =>
    let x := s.ctxNat gr.ctx nd.addr 8
    if x ≥ 2 ^ 63 then s.failGraph g
    else if x ≥ nd.value then s.goNode g (gr.pos + 1)
    else s.setGraph g (gr.wait s.now))

/-- NODE_COND (R353). -/
def execNodeCond (g : Nat) (s : State) : Out :=
  s.node g 5 (fun gr nd => s.goNode g (if s.ctxNat gr.ctx nd.addr 8 ≠ 0 then gr.pos + 1 else nd.target))

/-- NODE_LOOP (R353): COUNT is bytes 32 to 35 of the record. -/
def execNodeLoop (g : Nat) (s : State) : Out :=
  s.node g 6 (fun gr nd =>
    let n := kvGetD gr.counts gr.pos 0
    if s.ctxNat gr.ctx nd.addr 8 ≠ 0 ∧ n < nd.value then
      s.setGraph g { gr with counts := kvSet gr.counts gr.pos (n + 1), pos := nd.target, waiting := none }
    else
      (s.ctxPut gr.ctx (gr.base + word (64 * gr.pos + 32)) ((natBytes n 4).map (fun b => (b, false)))).setGraph g
        { gr with counts := kvSet gr.counts gr.pos 0, pos := gr.pos + 1, waiting := none })

/-- NODE_END (R353). -/
def execNodeEnd (g : Nat) (s : State) : Out :=
  s.node g 0 (fun gr _ => if gr.idle then s.endGraph g false else s)

/-- Whether a node's LIMIT bounds what it does: a SYNC LAUNCH or COPY, or a WAIT (R352). -/
def Node.bounded (nd : Node) : Bool := nd.limit != 0 && (nd.kind == 4 || ((nd.kind == 1 || nd.kind == 2) && nd.sync))

/-- NODE_LIMIT_EXPIRED (R355). -/
def execNodeLimitExpired (g : Nat) (s : State) : Out :=
  match kvGet s.graphs g with
  | none => .next s
  | some gr =>
    match gr.st, gr.waiting with
    | .running, some w =>
      let nd := s.nodeAt gr
      if nd.bounded ∧ s.now ≥ w.2 + nd.limit ∧ s.cpUp gr.io then .next (s.failGraph g) else .next s
    | _, _ => .next s

/-! ### End reports (R354) -/

/-- END_REPORT (R354, R358). -/
def execEndReport (i : SliceId) (s : State) : Out :=
  match s.findSlice i (fun sl => (sl.st == .done || sl.st == .failed) && !sl.reported) with
  | none => .next s
  | some n =>
    let sl := s.sliceNo n
    let fail := sl.st == SliceState.failed
    let s1 := s.setSlice n { sl with reported := true }
    match sl.who with
    | .hart => .next s1
    | .node g _ =>
      let gr := s1.graph g
      let mark := fun (x : Nat × Nat × Option Bool) => if x.1 = n then (x.1, x.2.1, some fail) else x
      .next ((s1.setGraph g { gr with slices := gr.slices.map mark }).settleGraph g)
    | .slot m =>
      match kvGet s1.subs m with
      | some b => .next { s1 with subs := kvSet s1.subs m { b with fin := some fail } }
      | none => .next s1

end Sys2Proof.Machine
end

