-- ==== Sys2Proof/Machine/Registers.lean ====
section
/-! DEFINITION. Writes of the device's registers through BAR0 (13_device R390 to R395, R401), and replacement of
Slorraroth (R397, R398). -/

namespace Sys2Proof.Machine

/-! ### Host queues (R391) -/

/-- QTAIL_WRITE (R391): the doorbell. -/
def execQtailWrite (fn q : Nat) (v : Word) (s : State) : Out :=
  let hq := s.queue fn q
  let t := v.setWidth 32
  if fn < 2 ∧ q < 32 ∧ hq.base ≠ 0 ∧ (t - hq.head).toNat ≤ 2 ^ hq.lsize then .next (s.setQueue fn q { hq with tail := t })
  else .next s

/-- QBASE_WRITE (R391). -/
def execQbaseWrite (fn q : Nat) (v : Word) (s : State) : Out :=
  let hq := s.queue fn q
  if fn < 2 ∧ q < 32 ∧ hq.head = hq.tail ∧ v.toNat % 64 = 0 then .next (s.setQueue fn q { hq with base := v.toNat })
  else .next s

/-- QSIZE_WRITE (R391). -/
def execQsizeWrite (fn q : Nat) (v : Word) (s : State) : Out :=
  let hq := s.queue fn q
  if fn < 2 ∧ q < 32 ∧ hq.head = hq.tail ∧ 4 ≤ v.toNat ∧ v.toNat ≤ 16 then .next (s.setQueue fn q { hq with lsize := v.toNat })
  else .next s

/-! ### Contexts (R392) -/

/-- Contexts of the device (R390). -/
def contexts : Nat := 4096

/-- Replace a context. -/
def State.setCtx (s : State) (n : Nat) (c : Ctx) : State := { s with ctxs := kvSet s.ctxs n c }

/-- Whether a context has a slice PENDING, READY or ENDING, or a graph that has not ended (R392). -/
def State.ctxBusy (s : State) (ctx : Nat) : Bool :=
  s.slices.any (fun p => p.2.ctx == ctx && (p.2.st == .pending || p.2.st == .ready || p.2.st == .ending)) ||
    s.graphs.any (fun p => p.2.ctx == ctx && (match p.2.st with | .ended _ => false | _ => true))

/-- Close the meshes of a context (log 18). -/
def State.closeMeshes (s : State) (ctx : Nat) : State :=
  { s with objs := s.objs ++ (s.meshes.filter (fun p => p.2.ctx == ctx)).map (·.2),
           meshes := s.meshes.filter (fun p => p.2.ctx != ctx) }

/-- CTXCTL_WRITE (R392): Slorraroth assigns a context that becomes VALID its ASID and the root of its private space
(R138, R139). -/
def execCtxctlWrite (ctx : Nat) (v : Word) (s : State) : Out :=
  if ctx ≥ contexts then .next s
  else if v.getLsbD 0 then
    .next (if (s.ctxNo ctx).valid then s else s.setCtx ctx { s.ctxNo ctx with
      valid := true, asid := Config.asid s.own.free, proot := Config.privRoot s.own.free % 2 ^ 40 * 2 ^ 16 })
  else if s.ctxBusy ctx then .next s
  else .next ((s.setCtx ctx { s.ctxNo ctx with valid := false, failed := false }).closeMeshes ctx)

/-- CTXROOT_WRITE (R390, R392). -/
def execCtxrootWrite (ctx : Nat) (v : Word) (s : State) : Out :=
  if ctx ≥ contexts ∨ (s.ctxNo ctx).valid then .next s
  else .next (s.setCtx ctx { s.ctxNo ctx with root := (v.extractLsb' 16 40).toNat * 2 ^ 16 })

/-- The bits of each word of a remote window that are not reserved (R277). -/
def rwinMask (w : Nat) : Word :=
  match w with
  | 0 => 0x00FFFFFFFFFFFFFF
  | 1 => 0x000000FFFFFFFFFF
  | 2 => 0xFFFFFFFF000F0FFF
  | _ => 0x0000000FFFFFFFFF

/-- The bits of each word of an EXPORT entry that are not reserved (R401). -/
def exptMask (w : Nat) : Word :=
  match w with
  | 0 => 0x00FFFFFFFFFFFFFF
  | 1 => 0x000000FFFFFFFFFF
  | 2 => 0xFFFFFFFF007FCC00
  | _ => 0

/-- Write one word of a four-word entry. -/
def setEntry (l : List (Nat × Vector Word 4)) (k w : Nat) (v : Word) : List (Nat × Vector Word 4) :=
  let e := kvGetD l k (Vector.replicate 4 0)
  kvSet l k (e.set (four w) v)

/-- REGISTER_WRITE (R7, R8, R390): read-only registers ignore it, and reserved bits stay 0. -/
def execRegisterWrite (t : RegTarget) (v : Word) (s : State) : Out :=
  match t with
  | .csr k c => if (kvGet s.harts k).isSome then .next (s.csrWrite k .A c v) else .next s
  | .ctxallow ctx => if ctx < contexts then .next (s.setCtx ctx { s.ctxNo ctx with allow := v.toNat }) else .next s
  | .rwin ctx k w =>
    if ctx < contexts ∧ k < 16 ∧ w < 4 then
      .next (s.setCtx ctx { s.ctxNo ctx with rwins := setEntry (s.ctxNo ctx).rwins k w (v &&& rwinMask w) })
    else .next s
  | .exprt ctx k w =>
    if ctx < contexts ∧ k < 16 ∧ w < 4 then
      .next (s.setCtx ctx { s.ctxNo ctx with expts := setEntry (s.ctxNo ctx).expts k w (v &&& exptMask w) })
    else .next s
  | .readOnly _ => .next s

/-! ### Features (R395) -/

/-- FEATREQ_WRITE (R395). -/
def execFeatreqWrite (v : Word) (s : State) : Out :=
  if s.ctxs.any (fun c => c.2.valid) then .next s
  else .next { s with dev := { s.dev with featreq := v.setWidth 4, feat := s.dev.featoff &&& v.setWidth 4, featSet := true } }

/-! ### Images of Slorraroth (R397, R398) -/

end Sys2Proof.Machine

namespace Sys2Proof

/-- `n` bytes of a header from byte `k` (R397). -/
def FwImage.bytes (i : FwImage) (k n : Nat) : List Byte := (List.range n).map (fun o => i.head.extractLsb' (8 * (k + o)) 8)

/-- The magic number. -/
def FwImage.magic (i : FwImage) : BitVec 32 := i.head.extractLsb' 0 32

/-- The security version SVN. -/
def FwImage.svn (i : FwImage) : Nat := (i.head.extractLsb' 32 16).toNat

/-- The length of the body. -/
def FwImage.len (i : FwImage) : Nat := (i.head.extractLsb' 64 64).toNat

/-- The SHA-512 of the body, byte 16 of the header first. -/
def FwImage.hash (i : FwImage) : BitVec 512 := i.head.extractLsb' 128 512

/-- A part of the signature, 66 bytes big-endian from byte `k`. -/
def FwImage.sigPart (i : FwImage) (k : Nat) : BitVec 528 := (i.bytes k 66).foldl (fun n b => n * 256 + b.setWidth 528) 0

/-- Whether the bytes that the layout gives as zero are zero. -/
def FwImage.zeros (i : FwImage) : Bool := i.head.extractLsb' 48 16 == 0 && i.head.extractLsb' 1696 352 == 0

/-- What the boot ROM accepts (R397): the signature over bytes 0 to 79 verifies with the key whose hash is fused, the
body matches its hash, and SVN is at least the fused minimum. That another magic number, or a nonzero byte where the layout
gives zero, is refused too is the model's choice: R397 names no such condition (log 91). -/
def FwImage.accepted (i : FwImage) (keyHash : BitVec 512) (minSvn : Nat) : Bool :=
  i.magic == 0x534C5230#32 && i.zeros && Config.sha512 Config.signKey == keyHash &&
    Config.verifies Config.signKey (i.bytes 0 80) (i.sigPart 80) (i.sigPart 146) &&
    i.body.length == i.len && Config.sha512 i.body == i.hash && decide (i.svn ≥ minSvn)

end Sys2Proof

namespace Sys2Proof.Machine

/-- Put an image into the inactive slot. -/
def Device.installInactive (d : Device) (i : FwImage) : Device := if d.slotB then { d with imgA := i } else { d with imgB := i }

/-- The image of the inactive slot. -/
def Device.inactive (d : Device) : FwImage := if d.slotB then d.imgA else d.imgB

/-- The image of the active slot. -/
def Device.active (d : Device) : FwImage := if d.slotB then d.imgB else d.imgA

/-- Start the image of the inactive slot: that slot becomes active. -/
def Device.swap (d : Device) : Device := { d with svn := d.inactive.svn, slotB := !d.slotB }

/-- Limit of a replacement in tk (R398). -/
def replLimit : Nat := 100000000

/-- The image that stands at a bus address: its header, and as many bytes after it as the header says (R397). -/
def State.imageAt (s : State) (ba : Nat) : FwImage :=
  let head := BitVec.ofNat 2048 (bytesNat (memBytes s.mem (keyHost ba) 256))
  { head := head, body := memBytes s.mem (keyHost (ba + 256)) (head.extractLsb' 64 64).toNat }

/-- Whether the boot ROM's checks accept an image on this device. -/
def Device.accepts (d : Device) (i : FwImage) : Bool := i.accepted d.keyHash d.minSvn

/-- The bits of READY that report the command processors (R393). -/
def cpsBits : Word := 0xC

/-- The number of a function: 0 or 1 (R390). -/
def function (fn : Nat) : Fin 2 := ⟨fn % 2, Nat.mod_lt _ (by decide)⟩

/-- The state that the running image writes to HBM, at a place of its own (R398, step 3). -/
def State.fwState (s : State) : FwSaved :=
  { queues := s.queues, graphs := s.graphs.map (fun g => (g.1, g.2.pos)),
    slices := (s.slices.filter (fun p => !(p.2.st == .done || p.2.st == .failed))).map (·.1),
    copies := s.allCmds, ctxs := s.ctxs.map (fun c => (c.1, c.2.allow)) }

/-- An image of Slorraroth reads the state that the one before it has written: it goes on from the queues' HEADs and the
graphs' positions there (R398). Slices, copies and allowances stand in the registers and tables of the device, which have
run on since. -/
def State.readSaved (s : State) (f : FwSaved) : State :=
  { s with queues := s.queues.map (fun q => (q.1, match kvGet f.queues q.1 with | some o => { q.2 with head := o.head } | none => q.2)),
           graphs := s.graphs.map (fun g => (g.1, { g.2 with pos := (kvGet f.graphs g.1).getD g.2.pos })) }

/-- FWSTAGE_WRITE through function `fn`, each function having the register (R390, R398): the image is the one at the bus
address written. Without LIVEFW it takes effect at the next warm reset; while a replacement is in progress the write changes
the register alone (log 27). The running image writes its state to HBM, for the image that starts next. -/
def execFwstageWrite (fn : Nat) (v : Word) (s : State) : Out :=
  let d := { s.dev with fwstage := s.dev.fwstage.set (function fn) v }
  let img := s.imageAt v.toNat
  if d.repl.isSome then .next { s with dev := d }
  else if !d.feat.getLsbD 3 then .next { s with dev := { d with staged := some img } }
  else if !d.accepts img then .next { s with dev := { d with last := true } }
  else .next { s with dev := { d.installInactive img with minSvn := max d.minSvn img.svn, ready := d.ready &&& ~~~cpsBits,
                                                          repl := some { img := img, since := s.now, saved := s.fwState } } }

/-- Slices whose LEASE trap waits for the new image end (R398). -/
def State.serveOwed (s : State) : State :=
  s.slices.foldl (fun t p =>
    if p.2.owed then (t.setSlice p.1 { t.sliceNo p.1 with owed := false }).endSlice p.1 else t) s

/-- The handlers of an image of Slorraroth that starts are where it puts them: every hart's later traps enter them (R396,
R398). -/
def State.newHandlers (s : State) : State :=
  let v := Config.handlerBase s.own.free &&& ~~~3#64
  { s with harts := s.harts.map (fun p => (p.1, { p.2 with tr := { p.2.tr with tvec := v } })), dev := { s.dev with tvec := v } }

/-- The command processors run again, where the boot ROM has started an image, and go on giving heartbeats: they report
ready, and serve what has waited. -/
def State.cpsBack (s : State) : State :=
  let up := s.dev.fwUp && s.dev.warm.isNone && !s.dev.coldReq
  { s with dev := { s.dev with ready := if up then s.dev.ready ||| cpsBits else s.dev.ready, repl := none,
                               beats := Vector.replicate 2 s.now } }.serveOwed

/-- FW_REPLACEMENT_COMPLETE (R398). -/
def execFwReplacementComplete (s : State) : Out :=
  match s.dev.repl with
  | some r =>
    if s.now ≤ r.since + replLimit then
      .next (({ s with dev := { s.dev.swap with last := false } }.readSaved r.saved).newHandlers).cpsBack
    else .next s
  | none => .next s

/-- FW_REPLACEMENT_TIMEOUT (R398): the old image is restarted from its slot with the saved state. -/
def execFwReplacementTimeout (s : State) : Out :=
  match s.dev.repl with
  | some r => if s.now > r.since + replLimit then .next ({ s with dev := { s.dev with last := true } }.readSaved r.saved).cpsBack else .next s
  | none => .next s

end Sys2Proof.Machine
end

