-- ==== Sys2Proof/Machine/Attest.lean ====
section
/-! DEFINITION. SPDM requests over the DOE mailbox of a function (13_device R402). The order of requests is that of
SPDM 1.3 (log 29). -/

namespace Sys2Proof.Machine

/-- A connection before its first request. -/
def Spdm.reset : Spdm := { version := false, caps := false, algs := false, last := none }

/-- The connection of a function. -/
def State.spdm (s : State) (fn : Nat) : Spdm := kvGetD s.dev.spdm fn Spdm.reset

/-- Replace the connection of a function. -/
def State.setSpdm (s : State) (fn : Nat) (c : Spdm) : State := { s with dev := { s.dev with spdm := kvSet s.dev.spdm fn c } }

/-- Answer a request that needs a connection in order. -/
def State.answer (s : State) (fn : Nat) (ok : Bool) (a : SpdmAnswer) : Out :=
  if fn < 2 then .next (s.setSpdm fn { s.spdm fn with last := some (if ok then a else .error) }) else .next s

/-- GET_VERSION (R402): it begins a connection anew. -/
def execGetVersion (fn : Nat) (s : State) : Out :=
  if fn < 2 then .next (s.setSpdm fn { version := true, caps := false, algs := false, last := some .version }) else .next s

/-- GET_CAPABILITIES (R402). -/
def execGetCapabilities (fn : Nat) (s : State) : Out :=
  let c := s.spdm fn
  if fn < 2 ∧ c.version then .next (s.setSpdm fn { c with caps := true, last := some .capabilities })
  else s.answer fn false .error

/-- NEGOTIATE_ALGORITHMS (R402): P-521 and SHA-512 only. -/
def execNegotiateAlgorithms (fn : Nat) (p521 sha512 : Bool) (s : State) : Out :=
  let c := s.spdm fn
  if fn < 2 ∧ c.caps ∧ p521 ∧ sha512 then .next (s.setSpdm fn { c with algs := true, last := some .algorithms })
  else s.answer fn false .error

/-- GET_DIGESTS (R402): the SHA-512 of the chain of slot 0. -/
def execGetDigests (fn : Nat) (s : State) : Out := s.answer fn (s.spdm fn).algs (.digests (Config.sha512 Config.certChain))

/-- GET_CERTIFICATE (R402): slot 0 alone holds a chain. -/
def execGetCertificate (fn slot : Nat) (s : State) : Out :=
  s.answer fn ((s.spdm fn).algs && slot == 0) (.certificate slot Config.certChain)

/-- CHALLENGE (R402): signed with the device's key (log 30). -/
def execChallenge (fn : Nat) (nonce : BitVec 256) (s : State) : Out :=
  s.answer fn (s.spdm fn).algs (.challenge nonce (Config.signature s.own.free))

/-- The measurement blocks, by index from 1, as they stand at the response (R402). -/
def Device.blocks (d : Device) : List Measured :=
  [.rom (Config.sha512 Config.romCode), .active d.active.head d.active.hash, .inactive d.inactive.head,
   .fuses d.minSvn d.fuses d.keyHash, .feat d.feat]

/-- The blocks that an index selects: one, none for 0, which asks their count, and all for 255 (log 29). -/
def Device.measured (d : Device) (index : Nat) : Option (List Measured) :=
  if index = 0 then some []
  else if index = 255 then some d.blocks
  else d.blocks[index - 1]?.map (fun b => [b])

/-- GET_MEASUREMENTS (R402). -/
def execGetMeasurements (fn index : Nat) (s : State) : Out :=
  match s.dev.measured index with
  | some bs => s.answer fn (s.spdm fn).algs (.measurements bs (Config.signature s.own.free))
  | none => s.answer fn false .error

end Sys2Proof.Machine
end

