-- ==== Sys2Proof/Machine/Bazaar.lean ====
section
/-! DEFINITION. The bazaar commands (10_mesh R290 to R293, R313 to R319). -/

namespace Sys2Proof.Machine

/-! ### Blocks and ranges (R313) -/

/-- The fields of a bazaar block. -/
def BazJob.ofNat (op : BazOp) (g : Word) (n : Nat) : BazJob :=
  { block := g, op := op, acq := n % 2 = 1, rel := n / 2 % 2 = 1, scope := bitsOf n 4 2, inp := word (bitsOf n 127 64),
    out := word (bitsOf n 191 128), out2 := word (bitsOf n 255 192), out3 := word (bitsOf n 319 256), n := bitsOf n 344 320,
    p1 := bitsOf n 383 352, p2 := bitsOf n 415 384, p3 := bitsOf n 447 416, aux := word (bitsOf n 511 448) }

/-- A list that a command reads or writes: address, bytes, needs, whether it is an output, and the offset of
its word in the block. -/
structure BazList where
  g    : Word
  n    : Nat
  need : Need
  out  : Bool
  off  : Nat
deriving DecidableEq, Repr, Inhabited

/-- Bytes of a score (R316). -/
def BazJob.score (j : BazJob) : Nat := if j.p3 % 2 = 1 then 2 else 4

/-- Bytes of a scanned value (R315). -/
def BazJob.scanW (j : BazJob) : Nat := if j.p1 % 2 = 1 then 8 else 4

/-- The lists of a command (R313). -/
def BazJob.lists (j : BazJob) : List BazList :=
  match j.op with
  | .hist => [⟨j.inp, 4 * j.n, needR, false, 8⟩, ⟨j.out, 4 * j.p1, if j.p2 % 2 = 1 then needRW else needW, true, 16⟩]
  | .scan => [⟨j.inp, j.scanW * j.n, needR, false, 8⟩, ⟨j.out, j.scanW * j.n, needW, true, 16⟩]
  | .topk => [⟨j.inp, j.score * j.n * j.p1, needR, false, 8⟩, ⟨j.out, j.score * j.n * j.p2, needW, true, 16⟩,
      ⟨j.out2, 4 * j.n * j.p2, needW, true, 24⟩]
  | .route => [⟨j.inp, 4 * j.n * j.p2, needR, false, 8⟩, ⟨j.out, 4 * j.p1, needW, true, 16⟩,
      ⟨j.out2, 4 * (j.p1 + 1), needW, true, 24⟩, ⟨j.out3, 4 * j.n * j.p2, needW, true, 32⟩]
  | .color => [⟨j.inp, 4 * j.n * j.p1, needR, false, 8⟩, ⟨j.out, j.n, needW, true, 16⟩, ⟨j.out2, 64, needW, true, 24⟩,
      ⟨j.out3, 4 * j.n, needW, true, 32⟩, ⟨j.aux, 2 * j.p2, needRW, true, 56⟩]
  | .seg => [⟨j.inp, 4 * (j.n + 1), needR, false, 8⟩, ⟨j.out, 4 * j.p1, needW, true, 16⟩, ⟨j.out2, 4 * j.p1, needW, true, 24⟩]

/-- Whether a parameter lies outside its limits or an unused field is nonzero: the offset of its word. -/
def BazJob.badField (j : BazJob) : Option Nat :=
  let lim := 2 ^ 24
  if j.scope > 4 then some 0
  else if j.n > lim then some 40
  else
    match j.op with
    | .hist =>
      if j.out2 ≠ 0 then some 24 else if j.out3 ≠ 0 then some 32 else if j.p1 = 0 ∨ j.p1 > lim then some 40
      else if j.p2 > 1 ∨ j.p3 ≠ 0 then some 48 else if j.aux ≠ 0 then some 56 else none
    | .scan =>
      if j.out2 ≠ 0 then some 24 else if j.out3 ≠ 0 then some 32 else if j.p1 > 3 then some 40
      else if j.p2 ≠ 0 ∨ j.p3 ≠ 0 then some 48 else if j.aux ≠ 0 then some 56 else none
    | .topk =>
      if j.out3 ≠ 0 then some 32 else if j.p1 = 0 ∨ j.p1 > 1024 ∨ j.n * j.p1 > lim then some 40
      else if j.p2 = 0 ∨ j.p2 > 8 ∨ j.p2 > j.p1 ∨ j.p3 > 1 then some 48 else if j.aux ≠ 0 then some 56 else none
    | .route =>
      if j.p1 = 0 ∨ j.p1 > 1024 ∨ j.n * j.p2 > lim then some 40
      else if j.p2 = 0 ∨ j.p2 > 8 then some 48 else if j.aux ≠ 0 then some 56 else none
    | .color =>
      if j.p1 = 0 ∨ j.p1 > 4 ∨ j.n * j.p1 > lim then some 40
      else if j.p2 = 0 ∨ j.p2 > lim ∨ j.p3 ≠ 0 then some 48 else none
    | .seg =>
      if j.out3 ≠ 0 then some 32 else if j.n + 1 > lim ∨ j.p1 > lim then some 40
      else if j.p2 ≠ 0 ∨ j.p3 ≠ 0 then some 48 else if j.aux ≠ 0 then some 56 else none

/-- Where a list lies, one number for each byte: a scratchpad is the same through both its windows. -/
def listBase (s : State) (k : HartKey) (g : Word) : Nat :=
  let c := winClass s k g
  if c = 2 ∨ c = 4 then keySpad (spadHart k c g) (gOff g) else g.toNat

/-- Whether two lists share a byte. -/
def listsMeet (s : State) (k : HartKey) (a b : BazList) : Bool :=
  decide (listBase s k a.g < listBase s k b.g + b.n) && decide (listBase s k b.g < listBase s k a.g + a.n) &&
    a.n != 0 && b.n != 0

/-- The first output that overlaps an earlier list (R313); BSCAN may work in place. -/
def firstOverlap (s : State) (k : HartKey) (inPlace : Bool) : List BazList → List BazList → Option Nat
  | _, [] => none
  | seen, l :: t =>
    if l.out && seen.any (fun x => listsMeet s k x l && !(inPlace && x.g == l.g)) then some l.off
    else firstOverlap s k inPlace (seen ++ [l]) t

/-- The offset of the word of the first bad field, misaligned list or overlap (R291, R313). -/
def State.bazBad (s : State) (k : HartKey) (j : BazJob) (n : Nat) : Option Nat :=
  (reservedAt n 8 ((351, 345) :: commonReserved)).or (j.badField.or
    ((if j.inp.toNat % 4 ≠ 0 then some 8 else none).or (firstOverlap s k (j.op == BazOp.scan) [] j.lists)))

/-- The range checks (R291). -/
def State.bazRanges (s : State) (k : HartKey) (j : BazJob) : Option Trap :=
  j.lists.findSome? (fun l => if l.n = 0 then none else s.checkLocal k l.g l.n l.need)

/-- The commands waiting at a bazaar, the running one first (R293). -/
def State.bazQueue (s : State) (c : Nat) : List CmdId :=
  (kvGetD s.bazs c []).filter (fun i => match s.cmd i with | some r => !r.over | none => false)

/-- The six bazaar commands (R291, R313). -/
def State.bazCmd (s : State) (i : Instr) (d a : Reg) (op : BazOp) : Out :=
  s.gate i (fun s =>
    let k := s.own.cur
    let g := s.h.readA a
    let c := s.coreOf k / 4
    s.withBlock i g (fun s => decide ((s.bazQueue c).length ≥ Config.bazaarPlaces)) (fun s n =>
      let j := BazJob.ofNat op g n
      match s.bazBad k j n with
      | some o => s.trap (engineTrap g 3 o)
      | none =>
        match s.bazRanges k j with
        | some t => s.trap t
        | none =>
          let s1 := s.issueCmd d (.baz j) dueNever (j.lists.any (fun l => l.out && l.n != 0 && inSpad l.g))
          ({ s1 with bazs := kvSet s1.bazs c (s.bazQueue c ++ [.hart k (nextSeq s.h.eng.lastSeq)]) } : State).complete))

/-- BHIST (R314). -/
def execBhist (d a : Reg) (s : State) : Out := s.bazCmd (.bhist d a) d a .hist

/-- BSCAN (R315). -/
def execBscan (d a : Reg) (s : State) : Out := s.bazCmd (.bscan d a) d a .scan

/-- BTOPK (R316). -/
def execBtopk (d a : Reg) (s : State) : Out := s.bazCmd (.btopk d a) d a .topk

/-- BROUTE (R317). -/
def execBroute (d a : Reg) (s : State) : Out := s.bazCmd (.broute d a) d a .route

/-- BCOLOR (R318). -/
def execBcolor (d a : Reg) (s : State) : Out := s.bazCmd (.bcolor d a) d a .color

/-- BSEG (R319). -/
def execBseg (d a : Reg) (s : State) : Out := s.bazCmd (.bseg d a) d a .seg

/-! ### What the commands compute -/

/-- What a command ends with: writes (address, bytes), status, RESULT, and whether a BSEG row descends. -/
structure BazDone where
  writes : List (Word × List Byte)
  status : Nat
  result : Nat
  desc   : Bool
deriving DecidableEq, Repr, Inhabited

/-- Numbers of `w` bytes in a list of bytes. -/
def numsOf (w : Nat) (bs : List Byte) : Nat → List Nat
  | 0 => []
  | n + 1 => bytesNat (bs.take w) :: numsOf w (bs.drop w) n

/-- Numbers as bytes. -/
def bytesOf (w : Nat) (ns : List Nat) : List Byte := ns.flatMap (fun n => natBytes n w)

/-- Add 1 at an index, modulo 2^32. -/
def bump (l : List Nat) (x : Nat) : List Nat := l.modify x (fun n => (n + 1) % 2 ^ 32)

/-- BHIST (R314): the counts and the keys at or above NBIN. -/
def histRun (nbin : Nat) (start keys : List Nat) : List Nat × Nat :=
  (keys.foldl (fun c x => if x < nbin then bump c x else c) start, keys.countP (fun x => decide (x ≥ nbin)))

/-- BSCAN (R315): the results and the total. -/
def scanRun (bits : Nat) (incl : Bool) : Nat → List Nat → List Nat × Nat
  | acc, [] => ([], acc)
  | acc, v :: t =>
    let nxt := (acc + v) % 2 ^ bits
    let r := scanRun bits incl nxt t
    ((if incl then nxt else acc) :: r.1, r.2)

/-- The rank of a score (R316): a NaN below −∞, both zeros equal. -/
def scoreRank (bf16 : Bool) (x : Nat) : Int :=
  let sign := if bf16 then 2 ^ 15 else 2 ^ 31
  let inf := if bf16 then 0x7F80 else 0x7F800000
  let m := x % sign
  if m > inf then -(2 ^ 40) else if x ≥ sign then -(m : Int) else m

/-- Insert a (score, column) after those of equal or higher rank. -/
def insScore (bf16 : Bool) (p : Nat × Nat) : List (Nat × Nat) → List (Nat × Nat)
  | [] => [p]
  | q :: t => if scoreRank bf16 p.1 > scoreRank bf16 q.1 then p :: q :: t else q :: insScore bf16 p t

/-- The K largest of a row with their columns (R316). -/
def topkRow (bf16 : Bool) (k : Nat) (row : List Nat) : List (Nat × Nat) :=
  (row.zipIdx.foldl (fun l p => insScore bf16 p l) []).take k

/-- BROUTE (R317): the slots of each expert, and the overflow tail. -/
def routeRun (nexp cap : Nat) (xs : List Nat) : List (List Nat) × List Nat :=
  xs.zipIdx.foldl (fun acc x =>
    if x.1 < nexp ∧ (cap = 0 ∨ (acc.1.getD x.1 []).length < cap) then (acc.1.modify x.1 (· ++ [x.2]), acc.2)
    else (acc.1, acc.2 ++ [x.2])) (List.replicate nexp [], [])

/-- Prefix sums from a start, with the total last. -/
def prefixSums : Nat → List Nat → List Nat
  | s, [] => [s]
  | s, n :: t => s :: prefixSums (s + n) t

/-- The state of BCOLOR: masks, colours so far, and the status and entry at which it stopped. -/
structure ColorRun where
  aux  : List Nat
  cols : List Nat
  stop : Option (Nat × Nat)
deriving DecidableEq, Repr, Inhabited

/-- One entry of BCOLOR (R318); a poisoned target stops it (R313). -/
def colorEntry (tmax : Nat) (r : ColorRun) (e : List (Nat × Bool)) : ColorRun :=
  match r.stop with
  | some _ => r
  | none =>
    let i := r.cols.length
    if e.any (·.2) then { r with stop := some (0x02, i) }
    else
      let ts := ((e.map (·.1)).filter (· ≠ 0xFFFFFFFF)).eraseDups
      if ts.any (fun t => decide (t ≥ tmax)) then { r with stop := some (0x14, i) }
      else
        let m := ts.foldl (fun m t => m ||| r.aux.getD t 0) 0
        if m = 0xFFFF then { r with stop := some (0x11, i) }
        else
          let c := ((List.range 16).find? (fun c => !m.testBit c)).getD 0
          { r with aux := ts.foldl (fun a t => a.modify t (· ||| 2 ^ c)) r.aux, cols := r.cols ++ [c] }

/-- Cut a list into pieces of `n`. -/
def pieces {α : Type} (n : Nat) (l : List α) : Nat → List (List α)
  | 0 => []
  | k + 1 => l.take n :: pieces n (l.drop n) k

/-- One row of BSEG (R319): the position after it, the outputs below CAP, and whether a row descended. -/
def segRow (cap : Nat) (acc : Nat × List (Nat × Nat) × Bool) (row : Nat × Nat × Nat) : Nat × List (Nat × Nat) × Bool :=
  let n := row.2.2 - row.2.1
  let out := (List.range (min n (cap - acc.1))).map (fun j => (row.1, row.2.1 + j))
  (acc.1 + n, acc.2.1 ++ out, acc.2.2 || decide (row.2.2 < row.2.1))

/-- BTOPK on all rows. -/
def BazJob.runTopk (j : BazJob) (xs : List Nat) : BazDone :=
  let rows := (pieces j.p1 xs j.n).flatMap (topkRow (j.p3 % 2 = 1) j.p2)
  ⟨[(j.out, bytesOf j.score (rows.map (·.1))), (j.out2, bytesOf 4 (rows.map (·.2)))], 0, j.n, false⟩

/-- BROUTE. -/
def BazJob.runRoute (j : BazJob) (xs : List Nat) : BazDone :=
  let r := routeRun j.p1 j.p3 xs
  let ns := r.1.map List.length
  ⟨[(j.out, bytesOf 4 ns), (j.out2, bytesOf 4 (prefixSums 0 ns)), (j.out3, bytesOf 4 (r.1.flatten ++ r.2))], 0, r.2.length, false⟩

/-- BCOLOR. -/
def BazJob.runColor (j : BazJob) (xs : List (Nat × Bool)) : BazDone :=
  let r := (pieces j.p1 xs j.n).foldl (colorEntry j.p2) { aux := List.replicate j.p2 0, cols := [], stop := none }
  let aux := (j.aux, bytesOf 2 r.aux)
  match r.stop with
  | some (st, i) => ⟨[aux], st, i, false⟩
  | none =>
    let perm := (List.range 16).flatMap (fun c => (r.cols.zipIdx.filter (fun e => e.1 == c)).map (·.2))
    ⟨[aux, (j.out, bytesOf 1 r.cols), (j.out2, bytesOf 4 ((List.range 16).map (fun c => r.cols.count c))), (j.out3, bytesOf 4 perm)],
     0, r.cols.foldl (fun m c => max m (c + 1)) 0, false⟩

/-- BSEG. -/
def BazJob.runSeg (j : BazJob) (ptr : List Nat) : BazDone :=
  let rows := (List.range j.n).map (fun k => (k, ptr.getD k 0, ptr.getD (k + 1) 0))
  let r := rows.foldl (segRow j.p1) (0, [], false)
  ⟨[(j.out, bytesOf 4 (r.2.1.map (·.1))), (j.out2, bytesOf 4 (r.2.1.map (·.2)))], if r.1 > j.p1 then 0x10 else 0, r.1, r.2.2⟩

/-- The bytes of a command's input list, with their poison. -/
def State.bazIn (s : State) (i : CmdId) (j : BazJob) : List (Byte × Bool) :=
  s.getFor i j.inp ((j.lists.headD default).n)

/-- BHIST's counts to start from (R314). -/
def State.histStart (s : State) (i : CmdId) (j : BazJob) : List (Byte × Bool) :=
  if j.p2 % 2 = 1 then s.getFor i j.out (4 * j.p1) else List.replicate (4 * j.p1) (0, false)

/-- What a command without poisoned input computes; BCOLOR judges its own. -/
def State.bazRun (s : State) (i : CmdId) (j : BazJob) : BazDone :=
  let bs := s.bazIn i j
  let raw := bs.map (·.1)
  match j.op with
  | .hist =>
    let r := histRun j.p1 (numsOf 4 ((s.histStart i j).map (·.1)) j.p1) (numsOf 4 raw j.n)
    ⟨[(j.out, bytesOf 4 r.1)], 0, r.2, false⟩
  | .scan =>
    let r := scanRun (8 * j.scanW) (j.p1 / 2 % 2 = 1) 0 (numsOf j.scanW raw j.n)
    ⟨[(j.out, bytesOf j.scanW r.1)], 0, r.2, false⟩
  | .topk => j.runTopk (numsOf j.score raw (j.n * j.p1))
  | .route => j.runRoute (numsOf 4 raw (j.n * j.p2))
  | .color => j.runColor ((pieces 4 bs (j.n * j.p1)).map (fun p => (bytesNat (p.map (·.1)), p.any (·.2))))
  | .seg => j.runSeg (numsOf 4 raw (j.n + 1))

/-- Whether a command meets poisoned input as a whole (R313). -/
def State.bazPoisoned (s : State) (i : CmdId) (j : BazJob) : Bool :=
  j.op != BazOp.color && ((s.bazIn i j).any (·.2) || (j.op == BazOp.hist && (s.histStart i j).any (·.2)))

/-- Write every output as poisoned granules with data 0 (R313). -/
def State.bazSpoil (s : State) (i : CmdId) (j : BazJob) : State :=
  (j.lists.filter (·.out)).foldl (fun t l => t.putBytes (t.keyed i l.g (List.replicate l.n (0, true)))) s

/-- End a bazaar command (R292, R313). -/
def State.bazEnd (s : State) (k : HartKey) (i : CmdId) (j : BazJob) : State :=
  if s.bazPoisoned i j then (s.bazSpoil i j).endCmd i 0x02 0
  else
    let r := s.bazRun i j
    let s1 := r.writes.foldl (fun t w => t.putFor i w.1 w.2) s
    (if r.desc then s1.stick k 1 else s1).endCmd i r.status (BitVec.ofNat 32 r.result)

/-- BAZAAR_COMMAND_COMPLETION (R293, R313). -/
def execBazaarCommandCompletion (c : Nat) (s : State) : Out :=
  if s.dev.warm.isSome then .next s
  else
    match s.bazQueue c with
    | .hart k n :: rest =>
      match s.cmd (.hart k n) with
      | some r =>
        match r.job with
        | .baz j => .next { s.bazEnd k (.hart k n) j with bazs := kvSet s.bazs c rest }
        | _ => .next s
      | none => .next s
    | _ => .next s

end Sys2Proof.Machine
end

