-- ==== Sys2Proof/Decode.lean ====
section
/-! DEFINITION. The decoder of the 32-bit instruction words and, after it, the encoder
(spec/02_words.md R49 to R63). A word the tables do not assign, with a nonzero reserved field or with
a field value a row excludes, is refused by name; register numbers are judged when the word executes
(subcode 3, R44). The events of spec/95 have no word. -/

namespace Sys2Proof

/-- Why a word is refused (R62). Each is ILLEGAL with subcode 0. -/
inductive DecodeError where
  /-- OP is not in the tables of R56 to R60. -/
  | opcode
  /-- An unassigned selector, a nonzero reserved field, or a CSR number not assigned. -/
  | field
  /-- A field value that the row's limits exclude. -/
  | limit
  /-- Fewer than four bytes. -/
  | short
deriving DecidableEq, Repr, Inhabited

/-! ### Fields of a word (R49) -/

/-- [31:25] OP. -/
def fOp (w : BitVec 32) : BitVec 7 := w.extractLsb' 25 7
/-- [24:20] D, C or Q; A of the B and H formats. -/
def fD (w : BitVec 32) : BitVec 5 := w.extractLsb' 20 5
/-- [19:15] A or BASE; B of the B format. -/
def fA (w : BitVec 32) : BitVec 5 := w.extractLsb' 15 5
/-- [14:10] B or S. -/
def fB (w : BitVec 32) : BitVec 5 := w.extractLsb' 10 5
/-- [9:8] FM or PL. -/
def fFM (w : BitVec 32) : BitVec 2 := w.extractLsb' 8 2
/-- [7:5] PG or FL. -/
def fPG (w : BitVec 32) : BitVec 3 := w.extractLsb' 5 3
/-- [4:0] FN or TY. -/
def fFN (w : BitVec 32) : BitVec 5 := w.extractLsb' 0 5
/-- [14:0] IMM15. -/
def fImm15 (w : BitVec 32) : BitVec 15 := w.extractLsb' 0 15
/-- [19:0] IMM20 or OFF20. -/
def fImm20 (w : BitVec 32) : BitVec 20 := w.extractLsb' 0 20
/-- [14:12] CND or FN3. -/
def fCnd (w : BitVec 32) : BitVec 3 := w.extractLsb' 12 3
/-- [11:0] OFF12, END or CSR number. -/
def fOff12 (w : BitVec 32) : BitVec 12 := w.extractLsb' 0 12
/-- [24:12] COUNT. -/
def fCount (w : BitVec 32) : BitVec 13 := w.extractLsb' 12 13
/-- [19:12], zero in LOOP. -/
def fH8 (w : BitVec 32) : BitVec 8 := w.extractLsb' 12 8
/-- [14:6], zero in a shift immediate. -/
def fSh9 (w : BitVec 32) : BitVec 9 := w.extractLsb' 6 9
/-- [5:0], the shift amount. -/
def fSh6 (w : BitVec 32) : BitVec 6 := w.extractLsb' 0 6
/-- [24:22] PRED of FENCE. -/
def fPred (w : BitVec 32) : BitVec 3 := w.extractLsb' 22 3
/-- [21:19] SUCC of FENCE. -/
def fSucc (w : BitVec 32) : BitVec 3 := w.extractLsb' 19 3
/-- [18:16] SCOPE of FENCE. -/
def fFScope (w : BitVec 32) : BitVec 3 := w.extractLsb' 16 3
/-- [15:5], zero in FENCE. -/
def fF11 (w : BitVec 32) : BitVec 11 := w.extractLsb' 5 11
/-- [9:0]: FM, PG and FN of a plain R row. -/
def fLow10 (w : BitVec 32) : BitVec 10 := w.extractLsb' 0 10
/-- [24:19] PD. -/
def fPD (w : BitVec 32) : BitVec 6 := w.extractLsb' 19 6
/-- [18:13] PA. -/
def fPA (w : BitVec 32) : BitVec 6 := w.extractLsb' 13 6
/-- [12:7] PB. -/
def fPB (w : BitVec 32) : BitVec 6 := w.extractLsb' 7 6
/-- [6:0] FN of the P format. -/
def fPFN (w : BitVec 32) : BitVec 7 := w.extractLsb' 0 7
/-- [7] FL bit 7 (ACQ or REL). -/
def fFL7 (w : BitVec 32) : Bool := w.getLsbD 7
/-- [6] FL bit 6 (NT). -/
def fFL6 (w : BitVec 32) : Bool := w.getLsbD 6
/-- [5] FL bit 5 (DEDUP, RND, ZLOW or FP). -/
def fFL5 (w : BitVec 32) : Bool := w.getLsbD 5
/-- [9] ACQ of an AMO. -/
def fAcq (w : BitVec 32) : Bool := w.getLsbD 9
/-- [8] REL of an AMO. -/
def fRel (w : BitVec 32) : Bool := w.getLsbD 8
/-- [4:3], zero in the M format. -/
def fM2 (w : BitVec 32) : BitVec 2 := w.extractLsb' 3 2
/-- [2:0] ESZ, RM or a condition. -/
def fLow3 (w : BitVec 32) : BitVec 3 := w.extractLsb' 0 3
/-- [4] width of an AMO, or the family of OP 0x71. -/
def fBit4 (w : BitVec 32) : BitVec 1 := w.extractLsb' 4 1
/-- [3:0] operation of an AMO. -/
def fFN4 (w : BitVec 32) : BitVec 4 := w.extractLsb' 0 4
/-- [3:2] N of OP 0x71. -/
def fN (w : BitVec 32) : BitVec 2 := w.extractLsb' 2 2
/-- [1:0] operation of OP 0x71. -/
def fLow2 (w : BitVec 32) : BitVec 2 := w.extractLsb' 0 2
/-- [14:13], zero in VCVT. -/
def fB2 (w : BitVec 32) : BitVec 2 := w.extractLsb' 13 2
/-- [12:10] RM of VCVT. -/
def fB3 (w : BitVec 32) : BitVec 3 := w.extractLsb' 10 3

/-! ### Code tables -/

/-- Rounding codes (R52). -/
def RM.bits : RM → BitVec 3
  | .dyn => 0#3
  | .rne => 1#3
  | .rtz => 2#3
  | .rdn => 3#3
  | .rup => 4#3
  | .rna => 5#3

/-- The inverse of `RM.bits`; every other code is refused. -/
def RM.ofBits : BitVec 3 → Option RM
  | 0#3 => some .dyn
  | 1#3 => some .rne
  | 2#3 => some .rtz
  | 3#3 => some .rdn
  | 4#3 => some .rup
  | 5#3 => some .rna
  | _ => none

/-- Scope codes (R52). -/
def Scope.bits : Scope → BitVec 3
  | .hart => 0#3
  | .caravan => 1#3
  | .die => 2#3
  | .device => 3#3
  | .system => 4#3

/-- The inverse of `Scope.bits`; every other code is refused. -/
def Scope.ofBits : BitVec 3 → Option Scope
  | 0#3 => some .hart
  | 1#3 => some .caravan
  | 2#3 => some .die
  | 3#3 => some .device
  | 4#3 => some .system
  | _ => none

/-- Element size codes (R52). -/
def Esz.bits : Esz → BitVec 3
  | .e8 => 0#3
  | .e16 => 1#3
  | .e32 => 2#3
  | .e64 => 3#3
  | .e4 => 4#3

/-- The inverse of `Esz.bits`; every other code is refused. -/
def Esz.ofBits : BitVec 3 → Option Esz
  | 0#3 => some .e8
  | 1#3 => some .e16
  | 2#3 => some .e32
  | 3#3 => some .e64
  | 4#3 => some .e4
  | _ => none

/-- The SEW code of STRIP (R119). -/
def Esz.sewBits : Esz → BitVec 3
  | .e4 => 0#3
  | .e8 => 1#3
  | .e16 => 2#3
  | .e32 => 3#3
  | .e64 => 4#3

/-- The inverse of `Esz.sewBits`; every other code is refused. -/
def Esz.ofSew : BitVec 3 → Option Esz
  | 0#3 => some .e4
  | 1#3 => some .e8
  | 2#3 => some .e16
  | 3#3 => some .e32
  | 4#3 => some .e64
  | _ => none

/-- FM codes (R51). -/
def BKind.bits : BKind → BitVec 2
  | .vec => 0#2
  | .scal => 1#2
  | .imm => 2#2

/-- The inverse of `BKind.bits`; every other code is refused. -/
def BKind.ofBits : BitVec 2 → Option BKind
  | 0#2 => some .vec
  | 1#2 => some .scal
  | 2#2 => some .imm
  | _ => none

/-- FM codes of OP 0x1C (R54). -/
def FTy.bits : FTy → BitVec 2
  | .d => 0#2
  | .s => 1#2
  | .h => 2#2

/-- The inverse of `FTy.bits`; every other code is refused. -/
def FTy.ofBits : BitVec 2 → Option FTy
  | 0#2 => some .d
  | 1#2 => some .s
  | 2#2 => some .h
  | _ => none

/-- PG codes of FCMP (R54). -/
def FCond.bits : FCond → BitVec 3
  | .eq => 0#3
  | .ne => 1#3
  | .lt => 2#3
  | .le => 3#3
  | .un => 4#3

/-- The inverse of `FCond.bits`; every other code is refused. -/
def FCond.ofBits : BitVec 3 → Option FCond
  | 0#3 => some .eq
  | 1#3 => some .ne
  | 2#3 => some .lt
  | 3#3 => some .le
  | 4#3 => some .un
  | _ => none

/-- FN codes of VFCMP (R58). -/
def VFCond.bits : VFCond → BitVec 3
  | .eq => 0#3
  | .ne => 1#3
  | .lt => 2#3
  | .le => 3#3
  | .gt => 4#3
  | .ge => 5#3
  | .un => 6#3
  | .ord => 7#3

/-- The inverse of `VFCond.bits`; every other code is refused. -/
def VFCond.ofBits : BitVec 3 → Option VFCond
  | 0#3 => some .eq
  | 1#3 => some .ne
  | 2#3 => some .lt
  | 3#3 => some .le
  | 4#3 => some .gt
  | 5#3 => some .ge
  | 6#3 => some .un
  | 7#3 => some .ord

/-- FN codes of VCMP (R58). -/
def VCond.bits : VCond → BitVec 3
  | .eq => 0#3
  | .ne => 1#3
  | .lt => 2#3
  | .ge => 3#3
  | .ltn => 4#3
  | .gen => 5#3

/-- The inverse of `VCond.bits`; every other code is refused. -/
def VCond.ofBits : BitVec 3 → Option VCond
  | 0#3 => some .eq
  | 1#3 => some .ne
  | 2#3 => some .lt
  | 3#3 => some .ge
  | 4#3 => some .ltn
  | 5#3 => some .gen
  | _ => none

/-- Type codes of VCVT (R53). -/
def VTy.bits : VTy → BitVec 5
  | .i8 => 0#5
  | .i16 => 1#5
  | .i32 => 2#5
  | .i64 => 3#5
  | .n8 => 4#5
  | .n16 => 5#5
  | .n32 => 6#5
  | .n64 => 7#5
  | .f64 => 8#5
  | .f32 => 9#5
  | .f16 => 10#5
  | .bf16 => 11#5
  | .e4m3 => 12#5
  | .e5m2 => 13#5
  | .e2m1 => 14#5

/-- The inverse of `VTy.bits`; every other code is refused. -/
def VTy.ofBits : BitVec 5 → Option VTy
  | 0#5 => some .i8
  | 1#5 => some .i16
  | 2#5 => some .i32
  | 3#5 => some .i64
  | 4#5 => some .n8
  | 5#5 => some .n16
  | 6#5 => some .n32
  | 7#5 => some .n64
  | 8#5 => some .f64
  | 9#5 => some .f32
  | 10#5 => some .f16
  | 11#5 => some .bf16
  | 12#5 => some .e4m3
  | 13#5 => some .e5m2
  | 14#5 => some .e2m1
  | _ => none

/-- Type codes of MMA (R53). -/
def MTy.bits : MTy → BitVec 5
  | .f64 => 8#5
  | .f16 => 10#5
  | .bf16 => 11#5
  | .e2m1 => 14#5
  | .e4m3e4m3 => 16#5
  | .e4m3e5m2 => 17#5
  | .e5m2e4m3 => 18#5
  | .e5m2e5m2 => 19#5

/-- The inverse of `MTy.bits`; every other code is refused. -/
def MTy.ofBits : BitVec 5 → Option MTy
  | 8#5 => some .f64
  | 10#5 => some .f16
  | 11#5 => some .bf16
  | 14#5 => some .e2m1
  | 16#5 => some .e4m3e4m3
  | 17#5 => some .e4m3e5m2
  | 18#5 => some .e5m2e4m3
  | 19#5 => some .e5m2e5m2
  | _ => none

/-- Type codes of MMAZ (R53). -/
def ZTy.bits : ZTy → BitVec 5
  | .f64 => 8#5
  | .f32 => 9#5

/-- The inverse of `ZTy.bits`; every other code is refused. -/
def ZTy.ofBits : BitVec 5 → Option ZTy
  | 8#5 => some .f64
  | 9#5 => some .f32
  | _ => none

/-- Type codes of MTRANS (R53). -/
def TTy.bits : TTy → BitVec 5
  | .i16 => 1#5
  | .n16 => 5#5
  | .f16 => 10#5
  | .bf16 => 11#5

/-- The inverse of `TTy.bits`; every other code is refused. -/
def TTy.ofBits : BitVec 5 → Option TTy
  | 1#5 => some .i16
  | 5#5 => some .n16
  | 10#5 => some .f16
  | 11#5 => some .bf16
  | _ => none

/-- FN[4] of OP 0x71 (R54). -/
def Fam.bits : Fam → BitVec 1
  | .e8 => 0#1
  | .e11 => 1#1

/-- The inverse of `Fam.bits`; every other code is refused. -/
def Fam.ofBits : BitVec 1 → Option Fam
  | 0#1 => some .e8
  | 1#1 => some .e11

/-- CSR numbers (R106). -/
def Csr.num : Csr → BitVec 12
  | .fflags => 1#12
  | .frm => 2#12
  | .vstart => 8#12
  | .vl => 9#12
  | .vt => 10#12
  | .vlmax => 11#12
  | .lanes => 12#12
  | .psnstat => 16#12
  | .stripsz => 17#12
  | .xlink => 18#12
  | .atomsz => 24#12
  | .almt => 32#12
  | .budget => 33#12
  | .preq => 34#12
  | .qwait => 35#12
  | .carv => 36#12
  | .sticky => 37#12
  | .optlr => 48#12
  | .optb1 => 49#12
  | .optb2 => 50#12
  | .opteps => 51#12
  | .optwd => 52#12
  | .optbc => 53#12
  | .wuchg => 64#12
  | .feat => 65#12
  | .status => 256#12
  | .cause => 257#12
  | .epc => 258#12
  | .tval => 259#12
  | .tvec => 260#12
  | .scratch => 261#12
  | .tval2 => 262#12
  | .xepc => 263#12
  | .pregrace => 272#12
  | .shctl => 273#12
  | .lanemap => 274#12
  | .wearst => 275#12
  | .wurec => 276#12
  | .dbgctl => 288#12

/-- The inverse of `Csr.num`; every other code is refused. -/
def Csr.ofNum : BitVec 12 → Option Csr
  | 1#12 => some .fflags
  | 2#12 => some .frm
  | 8#12 => some .vstart
  | 9#12 => some .vl
  | 10#12 => some .vt
  | 11#12 => some .vlmax
  | 12#12 => some .lanes
  | 16#12 => some .psnstat
  | 17#12 => some .stripsz
  | 18#12 => some .xlink
  | 24#12 => some .atomsz
  | 32#12 => some .almt
  | 33#12 => some .budget
  | 34#12 => some .preq
  | 35#12 => some .qwait
  | 36#12 => some .carv
  | 37#12 => some .sticky
  | 48#12 => some .optlr
  | 49#12 => some .optb1
  | 50#12 => some .optb2
  | 51#12 => some .opteps
  | 52#12 => some .optwd
  | 53#12 => some .optbc
  | 64#12 => some .wuchg
  | 65#12 => some .feat
  | 256#12 => some .status
  | 257#12 => some .cause
  | 258#12 => some .epc
  | 259#12 => some .tval
  | 260#12 => some .tvec
  | 261#12 => some .scratch
  | 262#12 => some .tval2
  | 263#12 => some .xepc
  | 272#12 => some .pregrace
  | 273#12 => some .shctl
  | 274#12 => some .lanemap
  | 275#12 => some .wearst
  | 276#12 => some .wurec
  | 288#12 => some .dbgctl
  | _ => none

/-- ESZ of VLDP and VSTP (R57): .32 for the E8 family, .64 for the E11 family. -/
def Fam.esz : Fam → BitVec 3
  | .e8 => 2#3
  | .e11 => 3#3

/-- The inverse of `Fam.esz`. -/
def Fam.ofEsz : BitVec 3 → Option Fam
  | 2#3 => some .e8
  | 3#3 => some .e11
  | _ => none

/-- FCVT codes (R55). -/
def FCvt.bits : FCvt → BitVec 5
  | .fromF .d => 0#5
  | .fromF .s => 1#5
  | .fromF .h => 2#5
  | .fromI .i64 => 8#5
  | .fromI .n64 => 9#5
  | .fromI .i32 => 10#5
  | .fromI .n32 => 11#5
  | .toI .i64 => 24#5
  | .toI .n64 => 25#5
  | .toI .i32 => 26#5
  | .toI .n32 => 27#5

/-- The inverse of `FCvt.bits`; every other code is refused. -/
def FCvt.ofBits : BitVec 5 → Option FCvt
  | 0#5 => some (.fromF .d)
  | 1#5 => some (.fromF .s)
  | 2#5 => some (.fromF .h)
  | 8#5 => some (.fromI .i64)
  | 9#5 => some (.fromI .n64)
  | 10#5 => some (.fromI .i32)
  | 11#5 => some (.fromI .n32)
  | 24#5 => some (.toI .i64)
  | 25#5 => some (.toI .n64)
  | 26#5 => some (.toI .i32)
  | 27#5 => some (.toI .n32)
  | _ => none

/-! ### The decoder, by opcode family -/

/-- `i` when the row's reserved fields are zero. -/
def decIf (c : Bool) (i : Instr) : Option Instr := if c then some i else none

/-- FM and PG zero, the mark of a row that lists neither FM forms nor a predicate. -/
def plain (w : BitVec 32) : Bool := fFM w == 0 && fPG w == 0

/-- OP 0x01 (R56). -/
def decInt1 (w : BitVec 32) : Option Instr :=
  match (fFN w).toNat with
  | 0 => decIf (plain w) (.add (fD w) (fA w) (fB w))
  | 1 => decIf (plain w) (.sub (fD w) (fA w) (fB w))
  | 2 => decIf (plain w) (.and (fD w) (fA w) (fB w))
  | 3 => decIf (plain w) (.or (fD w) (fA w) (fB w))
  | 4 => decIf (plain w) (.xor (fD w) (fA w) (fB w))
  | 5 => decIf (plain w) (.sll (fD w) (fA w) (fB w))
  | 6 => decIf (plain w) (.srl (fD w) (fA w) (fB w))
  | 7 => decIf (plain w) (.sra (fD w) (fA w) (fB w))
  | 8 => decIf (plain w) (.slt (fD w) (fA w) (fB w))
  | 9 => decIf (plain w) (.sltn (fD w) (fA w) (fB w))
  | 10 => decIf (plain w) (.min (fD w) (fA w) (fB w))
  | 11 => decIf (plain w) (.max (fD w) (fA w) (fB w))
  | 12 => decIf (plain w) (.minn (fD w) (fA w) (fB w))
  | 13 => decIf (plain w) (.maxn (fD w) (fA w) (fB w))
  | _ => none

/-- OP 0x02 (R56). -/
def decInt2 (w : BitVec 32) : Option Instr :=
  match (fFN w).toNat with
  | 0 => decIf (plain w) (.mul (fD w) (fA w) (fB w))
  | 1 => decIf (plain w) (.mulh (fD w) (fA w) (fB w))
  | 2 => decIf (plain w) (.mulhn (fD w) (fA w) (fB w))
  | 3 => decIf (plain w) (.div (fD w) (fA w) (fB w))
  | 4 => decIf (plain w) (.divn (fD w) (fA w) (fB w))
  | 5 => decIf (plain w) (.rem (fD w) (fA w) (fB w))
  | 6 => decIf (plain w) (.remn (fD w) (fA w) (fB w))
  | _ => none

/-- OP 0x03 (R56). -/
def decInt3 (w : BitVec 32) : Option Instr :=
  match (fFN w).toNat with
  | 0 => decIf (plain w && fB w == 0) (.clz (fD w) (fA w))
  | 1 => decIf (plain w && fB w == 0) (.ctz (fD w) (fA w))
  | 2 => decIf (plain w && fB w == 0) (.popc (fD w) (fA w))
  | 3 => decIf (plain w && fB w == 0) (.brev (fD w) (fA w))
  | _ => none

/-- OP 0x10 (R56). -/
def decBranch (w : BitVec 32) : Option Instr :=
  match (fCnd w).toNat with
  | 0 => decIf (true) (.beq (fD w) (fA w) (fOff12 w))
  | 1 => decIf (true) (.bne (fD w) (fA w) (fOff12 w))
  | 2 => decIf (true) (.blt (fD w) (fA w) (fOff12 w))
  | 3 => decIf (true) (.bge (fD w) (fA w) (fOff12 w))
  | 4 => decIf (true) (.bltn (fD w) (fA w) (fOff12 w))
  | 5 => decIf (true) (.bgen (fD w) (fA w) (fOff12 w))
  | _ => none

/-- OP 0x15 (R56). -/
def decLoopReg (w : BitVec 32) : Option Instr :=
  match (fFN w).toNat with
  | 0 => decIf (plain w && fB w == 0) (.lidx (fD w) (fA w))
  | 1 => decIf (plain w && fB w == 0 && fD w == 0) (.lbrk (fA w))
  | _ => none

/-- OP 0x18 (R54, R106). -/
def decCsr (w : BitVec 32) : Option Instr :=
  match Csr.ofNum (fOff12 w), (fCnd w).toNat with
  | some c, 0 => decIf (fA w == 0) (.csrr (fD w) c)
  | some c, 1 => some (.csrw (fD w) (fA w) c)
  | some c, 2 => some (.csrs (fD w) (fA w) c)
  | some c, 3 => some (.csrc (fD w) (fA w) c)
  | _, _ => none

/-- OP 0x19 (R56). -/
def decSys (w : BitVec 32) : Option Instr :=
  match (fFN w).toNat with
  | 0 => decIf (plain w && fD w == 0 && fA w == 0 && fB w == 0) (.ecall)
  | 1 => decIf (plain w && fD w == 0 && fA w == 0 && fB w == 0) (.eret)
  | 2 => decIf (plain w && fD w == 0 && fA w == 0 && fB w == 0) (.brk)
  | 3 => decIf (plain w && fD w == 0 && fA w == 0 && fB w == 0) (.wfe)
  | _ => none

/-- OP 0x1A (R54). -/
def decFence (w : BitVec 32) : Option Instr :=
  match (fFN w).toNat, Scope.ofBits (fFScope w) with
  | 0, some sc => decIf (fF11 w == 0) (.fence (fPred w) (fSucc w) sc)
  | 1, _ => decIf (fD w == 0 && fA w == 0 && fB w == 0 && plain w) .fencei
  | _, _ => none

/-- OP 0x1C (R54, R55). -/
def decFp (w : BitVec 32) : Option Instr :=
  match FTy.ofBits (fFM w) with
  | none => none
  | some t =>
    match (fFN w).toNat with
    | 6 => decIf (fPG w == 0) (.fmin t (fD w) (fA w) (fB w))
    | 7 => decIf (fPG w == 0) (.fmax t (fD w) (fA w) (fB w))
    | 8 => (FCond.ofBits (fPG w)).map (fun c => .fcmp t c (fD w) (fA w) (fB w))
    | fn =>
      match RM.ofBits (fPG w) with
      | none => none
      | some rm =>
        match fn with
        | 0 => some (.fadd t rm (fD w) (fA w) (fB w))
        | 1 => some (.fsub t rm (fD w) (fA w) (fB w))
        | 2 => some (.fmul t rm (fD w) (fA w) (fB w))
        | 3 => some (.fdiv t rm (fD w) (fA w) (fB w))
        | 4 => decIf (fB w == 0) (.fsqrt t rm (fD w) (fA w))
        | 5 => some (.ffma t rm (fD w) (fA w) (fB w))
        | 9 => (FCvt.ofBits (fB w)).map (fun k => .fcvt t k rm (fD w) (fA w))
        | _ => none

/-- OP 0x2C (R57). -/
def decSp (w : BitVec 32) : Option Instr :=
  match (fFN w).toNat with
  | 0 => decIf (plain w && fB w == 0) (.sptest (fD w) (fA w))
  | 1 => decIf (plain w && fB w == 0) (.spcast (fD w) (fA w))
  | _ => none

/-- OP 0x2D (R57). -/
def decPush (w : BitVec 32) : Option Instr :=
  match (fFN w).toNat with
  | 0 => decIf (plain w && fB w == 0) (.pushs (fD w) (fA w))
  | 1 => decIf (plain w && fB w == 0) (.pops (fD w) (fA w))
  | _ => none

/-- OP 0x2E (R57, R119). -/
def decStrip (w : BitVec 32) : Option Instr :=
  match Esz.ofSew (fLow3 w) with
  | some e => decIf (fFM w == 0) (.strip (fD w) (fA w) (fB w) (fPG w) (fM2 w) e)
  | none => none

/-- OP 0x2F (R57). -/
def decLen (w : BitVec 32) : Option Instr :=
  match (fFN w).toNat with
  | 0 => decIf (plain w && fB w == 0) (.setvl (fD w) (fA w))
  | 1 => decIf (plain w && fB w == 0 && fA w == 0) (.vltake (fD w))
  | 2 => decIf (plain w) (.lchk (fD w) (fA w) (fB w))
  | _ => none

/-- OP 0x30 to 0x33 and 0x38 to 0x3B (R57). -/
def decVmem (w : BitVec 32) : Option Instr :=
  match Esz.ofBits (fLow3 w) with
  | none => none
  | some e =>
    match (fOp w).toNat with
    | 0x30 => decIf (fM2 w == 0 && fFM w == 0 && fB w == 0 && !fFL5 w) (.vld (fD w) (fA w) (fFL7 w) (fFL6 w) e)
    | 0x31 => decIf (fM2 w == 0 && fFM w == 0 && !fFL5 w) (.vlds (fD w) (fA w) (fB w) (fFL7 w) (fFL6 w) e)
    | 0x32 => decIf (fM2 w == 0 && fFM w == 0) (.vldx (fD w) (fA w) (fB w) (fFL7 w) (fFL6 w) (fFL5 w) e)
    | 0x33 => decIf (fM2 w == 0 && fFM w == 0 && fB w == 0 && !fFL5 w) (.vldff (fD w) (fA w) (fFL7 w) (fFL6 w) e)
    | 0x38 => decIf (fM2 w == 0 && fFM w == 0 && fB w == 0 && !fFL5 w) (.vst (fD w) (fA w) (fFL7 w) (fFL6 w) e)
    | 0x39 => decIf (fM2 w == 0 && fFM w == 0 && !fFL5 w) (.vsts (fD w) (fA w) (fB w) (fFL7 w) (fFL6 w) e)
    | 0x3A => decIf (fM2 w == 0 && fFM w == 0 && !fFL5 w) (.vstx (fD w) (fA w) (fB w) (fFL7 w) (fFL6 w) e)
    | 0x3B => decIf (fM2 w == 0 && fFM w == 0) (.vstxadd (fD w) (fA w) (fB w) (fFL7 w) (fFL6 w) (fFL5 w) e)
    | _ => none

/-- OP 0x34 and 0x3C (R57). -/
def decVmemP (w : BitVec 32) : Option Instr :=
  match Fam.ofEsz (fLow3 w) with
  | none => none
  | some f =>
    match (fOp w).toNat with
    | 0x34 => decIf (fM2 w == 0) (.vldp (fD w) (fA w) (fB w) (fFM w) (fFL7 w) (fFL6 w) (fFL5 w) f)
    | 0x3C => decIf (fM2 w == 0) (.vstp (fD w) (fA w) (fB w) (fFM w) (fFL7 w) (fFL6 w) (fFL5 w) f)
    | _ => none

/-- OP 0x3E (R54). -/
def decAmo (w : BitVec 32) : Option Instr :=
  match Scope.ofBits (fPG w) with
  | none => none
  | some sc =>
    match (fFN4 w).toNat with
    | 0 => some (.amoadd (fD w) (fA w) (fB w) (fAcq w) (fRel w) sc (fBit4 w == 1))
    | 1 => some (.amoand (fD w) (fA w) (fB w) (fAcq w) (fRel w) sc (fBit4 w == 1))
    | 2 => some (.amoor (fD w) (fA w) (fB w) (fAcq w) (fRel w) sc (fBit4 w == 1))
    | 3 => some (.amoxor (fD w) (fA w) (fB w) (fAcq w) (fRel w) sc (fBit4 w == 1))
    | 4 => some (.amomin (fD w) (fA w) (fB w) (fAcq w) (fRel w) sc (fBit4 w == 1))
    | 5 => some (.amomax (fD w) (fA w) (fB w) (fAcq w) (fRel w) sc (fBit4 w == 1))
    | 6 => some (.amominn (fD w) (fA w) (fB w) (fAcq w) (fRel w) sc (fBit4 w == 1))
    | 7 => some (.amomaxn (fD w) (fA w) (fB w) (fAcq w) (fRel w) sc (fBit4 w == 1))
    | 8 => some (.amoswap (fD w) (fA w) (fB w) (fAcq w) (fRel w) sc (fBit4 w == 1))
    | 9 => some (.amocas (fD w) (fA w) (fB w) (fAcq w) (fRel w) sc (fBit4 w == 1))
    | 10 => some (.amofadd (fD w) (fA w) (fB w) (fAcq w) (fRel w) sc (fBit4 w == 1))
    | _ => none

/-- OP 0x40 to 0x48, 0x4D, 0x4E, 0x6B, 0x6C and 0x6F: the vector rows with a rounding field (R58). -/
def decVfRm (w : BitVec 32) : Option Instr :=
  match BKind.ofBits (fFM w), RM.ofBits (fLow3 w) with
  | some fm, some rm =>
    match (fOp w).toNat with
    | 0x40 => decIf (fM2 w == 0) (.vfadd (fD w) (fA w) (fB w) fm (fPG w) rm)
    | 0x41 => decIf (fM2 w == 0) (.vfsub (fD w) (fA w) (fB w) fm (fPG w) rm)
    | 0x42 => decIf (fM2 w == 0) (.vfmul (fD w) (fA w) (fB w) fm (fPG w) rm)
    | 0x43 => decIf (fM2 w == 0) (.vfdiv (fD w) (fA w) (fB w) fm (fPG w) rm)
    | 0x45 => decIf (fM2 w == 0) (.vfma (fD w) (fA w) (fB w) fm (fPG w) rm)
    | 0x46 => decIf (fM2 w == 0) (.vfms (fD w) (fA w) (fB w) fm (fPG w) rm)
    | 0x47 => decIf (fM2 w == 0) (.vfnma (fD w) (fA w) (fB w) fm (fPG w) rm)
    | 0x48 => decIf (fM2 w == 0) (.vfnms (fD w) (fA w) (fB w) fm (fPG w) rm)
    | 0x44 => decIf (fM2 w == 0 && fFM w == 0 && fB w == 0) (.vfsqrt (fD w) (fA w) (fPG w) rm)
    | 0x4D => decIf (fM2 w == 0 && fFM w == 0 && fB w == 0) (.vfrcp (fD w) (fA w) (fPG w) rm)
    | 0x4E => decIf (fM2 w == 0 && fFM w == 0 && fB w == 0) (.vfrsq (fD w) (fA w) (fPG w) rm)
    | 0x6B => decIf (fM2 w == 0 && fFM w == 0 && fB w == 0) (.vredsum (fD w) (fA w) (fPG w) rm)
    | 0x6C => decIf (fM2 w == 0 && fFM w == 0 && fB w == 0) (.vredtree (fD w) (fA w) (fPG w) rm)
    | 0x6F => decIf (fM2 w == 0 && fFM w == 0 && fB w == 0) (.vscan (fD w) (fA w) (fPG w) rm)
    | _ => none
  | _, _ => none

/-- The vector rows whose FN is zero, and the two compares (R58). -/
def decV (w : BitVec 32) : Option Instr :=
  match BKind.ofBits (fFM w) with
  | none => none
  | some fm =>
    match (fOp w).toNat with
    | 0x49 => decIf (fFN w == 0) (.vfmin (fD w) (fA w) (fB w) fm (fPG w))
    | 0x4A => decIf (fFN w == 0) (.vfmax (fD w) (fA w) (fB w) fm (fPG w))
    | 0x50 => decIf (fFN w == 0) (.vadd (fD w) (fA w) (fB w) fm (fPG w))
    | 0x51 => decIf (fFN w == 0) (.vsub (fD w) (fA w) (fB w) fm (fPG w))
    | 0x52 => decIf (fFN w == 0) (.vmul (fD w) (fA w) (fB w) fm (fPG w))
    | 0x53 => decIf (fFN w == 0) (.vmulh (fD w) (fA w) (fB w) fm (fPG w))
    | 0x54 => decIf (fFN w == 0) (.vand (fD w) (fA w) (fB w) fm (fPG w))
    | 0x55 => decIf (fFN w == 0) (.vor (fD w) (fA w) (fB w) fm (fPG w))
    | 0x56 => decIf (fFN w == 0) (.vxor (fD w) (fA w) (fB w) fm (fPG w))
    | 0x57 => decIf (fFN w == 0) (.vsll (fD w) (fA w) (fB w) fm (fPG w))
    | 0x58 => decIf (fFN w == 0) (.vsrl (fD w) (fA w) (fB w) fm (fPG w))
    | 0x59 => decIf (fFN w == 0) (.vsra (fD w) (fA w) (fB w) fm (fPG w))
    | 0x5A => decIf (fFN w == 0) (.vmin (fD w) (fA w) (fB w) fm (fPG w))
    | 0x5B => decIf (fFN w == 0) (.vmax (fD w) (fA w) (fB w) fm (fPG w))
    | 0x5C => decIf (fFN w == 0) (.vminn (fD w) (fA w) (fB w) fm (fPG w))
    | 0x5D => decIf (fFN w == 0) (.vmaxn (fD w) (fA w) (fB w) fm (fPG w))
    | 0x62 => decIf (fFN w == 0) (.vmerge (fD w) (fA w) (fB w) fm (fPG w))
    | 0x63 => decIf (fFN w == 0) (.vslideup (fD w) (fA w) (fB w) fm (fPG w))
    | 0x64 => decIf (fFN w == 0) (.vslidedn (fD w) (fA w) (fB w) fm (fPG w))
    | 0x4B => decIf (fFN w == 0 && fFM w == 0 && fB w == 0) (.vfabs (fD w) (fA w) (fPG w))
    | 0x4C => decIf (fFN w == 0 && fFM w == 0 && fB w == 0) (.vfneg (fD w) (fA w) (fPG w))
    | 0x60 => decIf (fFN w == 0 && fFM w == 0 && fB w == 0) (.vmv (fD w) (fA w) (fPG w))
    | 0x66 => decIf (fFN w == 0 && fFM w == 0 && fB w == 0) (.vcomp (fD w) (fA w) (fPG w))
    | 0x67 => decIf (fFN w == 0 && fFM w == 0 && fB w == 0) (.vexpd (fD w) (fA w) (fPG w))
    | 0x6D => decIf (fFN w == 0 && fFM w == 0 && fB w == 0) (.vredmax (fD w) (fA w) (fPG w))
    | 0x6E => decIf (fFN w == 0 && fFM w == 0 && fB w == 0) (.vredmin (fD w) (fA w) (fPG w))
    | 0x61 => decIf (fFN w == 0 && fA w == 0) (.vbcast (fD w) (fB w) fm (fPG w))
    | 0x65 => decIf (fFN w == 0 && fFM w == 0) (.vperm (fD w) (fA w) (fB w) (fPG w))
    | 0x68 => decIf (fFN w == 0 && fPG w == 0) (.vextr (fD w) (fA w) (fB w) fm)
    | 0x69 => decIf (fFN w == 0 && fPG w == 0) (.vins (fD w) (fA w) (fB w) fm)
    | 0x6A => decIf (fFN w == 0 && fFM w == 0 && fA w == 0 && fB w == 0) (.viota (fD w) (fPG w))
    | 0x4F => (VFCond.ofBits (fLow3 w)).bind (fun c => decIf (fM2 w == 0) (.vfcmp (fD w) (fA w) (fB w) fm (fPG w) c))
    | 0x5E => (VCond.ofBits (fLow3 w)).bind (fun c => decIf (fM2 w == 0) (.vcmp (fD w) (fA w) (fB w) fm (fPG w) c))
    | _ => none

/-- OP 0x5F (R54). -/
def decVcvt (w : BitVec 32) : Option Instr :=
  match RM.ofBits (fB3 w), VTy.ofBits (fFN w) with
  | some rm, some t => decIf (fFM w == 0 && fB2 w == 0) (.vcvt (fD w) (fA w) rm (fPG w) t)
  | _, _ => none

/-- OP 0x70 (R59). -/
def decPred (w : BitVec 32) : Option Instr :=
  match (fPFN w).toNat with
  | 0 => some (.pand (fPD w) (fPA w) (fPB w))
  | 1 => some (.por (fPD w) (fPA w) (fPB w))
  | 2 => some (.pxor (fPD w) (fPA w) (fPB w))
  | 3 => some (.pandn (fPD w) (fPA w) (fPB w))
  | 4 => decIf (fPB w == 0) (.pnot (fPD w) (fPA w))
  | 5 => decIf (fPB w == 0) (.pcnt (fPD w) (fPA w))
  | 6 => decIf (fPB w == 0) (.pfirst (fPD w) (fPA w))
  | 9 => decIf (fPB w == 0) (.pmov (fPD w) (fPA w))
  | 7 => decIf (fPA w == 0 && fPB w == 0) (.pset (fPD w))
  | 8 => decIf (fPA w == 0 && fPB w == 0) (.pclr (fPD w))
  | _ => none

/-- OP 0x71 (R54). -/
def decPlane (w : BitVec 32) : Option Instr :=
  match Fam.ofBits (fBit4 w), (fLow2 w).toNat with
  | some f, 0 => decIf (fFM w == 0 && fB w == 0) (.vpsplit (fD w) (fA w) (fPG w) f (fN w))
  | some f, 1 => decIf (fFM w == 0 && fB w == 0) (.vpjoin (fD w) (fA w) (fPG w) f (fN w))
  | some f, 2 => decIf (fFM w == 0 && fB w == 0) (.vptrunc (fD w) (fA w) (fPG w) f (fN w))
  | some f, 3 => decIf (fFM w == 0 && fB w == 0) (.vprnd (fD w) (fA w) (fPG w) f (fN w))
  | _, _ => none

/-- OP 0x72 (R59). -/
def decMx (w : BitVec 32) : Option Instr :=
  match (fFN w).toNat with
  | 0 => decIf (fFM w == 0 && fB w == 0) (.vqmx (fD w) (fA w) (fPG w))
  | 1 => decIf (fFM w == 0) (.vdqmx (fD w) (fA w) (fB w) (fPG w))
  | _ => none

/-- OP 0x73 (R54). -/
def decOpt (w : BitVec 32) : Option Instr :=
  match (fFM w).toNat with
  | 0 => decIf (fB w == 0) (.vpacc (fD w) (fA w) (fPG w) (fFN w))
  | 1 => decIf (fFN w == 0) (.vadamw (fD w) (fA w) (fB w) (fPG w))
  | 2 => decIf (fFN w == 0) (.vsgdm (fD w) (fA w) (fB w) (fPG w))
  | _ => none

/-- OP 0x74 (R53). -/
def decMma (w : BitVec 32) : Option Instr :=
  match MTy.ofBits (fFN w) with
  | some t => decIf (fFM w == 0) (.mma (fD w) (fA w) (fB w) (fPG w) t)
  | none => none

/-- OP 0x76 (R54). -/
def decMz (w : BitVec 32) : Option Instr :=
  match (fFM w).toNat with
  | 0 => (ZTy.ofBits (fFN w)).bind (fun t => decIf (fA w == 0 && fB w == 0 && fPG w == 0) (.mmaz (fD w) t))
  | 1 => (TTy.ofBits (fFN w)).bind (fun t => decIf (fA w == 0 && fPG w == 0) (.mtrans (fD w) (fB w) t))
  | _ => none

/-- OP 0x7E (R59). -/
def decPsn (w : BitVec 32) : Option Instr :=
  match (fFN w).toNat with
  | 0 => decIf (plain w && fB w == 0 && fA w == 0) (.psnget (fD w))
  | 1 => decIf (plain w && fD w == 0 && fA w == 0 && fB w == 0) (.psnclr)
  | _ => none

/-- OP 0x78 (R60). -/
def decCpy (w : BitVec 32) : Option Instr :=
  match (fFN w).toNat with
  | 0 => decIf (plain w && fB w == 0) (.cpy (fD w) (fA w))
  | 1 => decIf (plain w && fB w == 0) (.due (fD w) (fA w))
  | 2 => decIf (plain w && fB w == 0 && fD w == 0) (.waitd (fA w))
  | 3 => decIf (plain w && fD w == 0) (.waith (fA w) (fB w))
  | 4 => decIf (plain w && fB w == 0) (.cpyst (fD w) (fA w))
  | _ => none

/-- OP 0x79 (R60). -/
def decAb (w : BitVec 32) : Option Instr :=
  match (fFN w).toNat with
  | 0 => decIf (plain w) (.abinit (fD w) (fA w) (fB w))
  | 1 => decIf (plain w && fD w == 0) (.waitab (fA w) (fB w))
  | _ => none

/-- OP 0x7A (R60). -/
def decMesh (w : BitVec 32) : Option Instr :=
  match (fFN w).toNat with
  | 0 => decIf (plain w && fB w == 0) (.mopen (fD w) (fA w))
  | 1 => decIf (plain w) (.mnbr (fD w) (fA w) (fB w))
  | 2 => decIf (plain w) (.mcell (fD w) (fA w) (fB w))
  | 3 => decIf (plain w && fD w == 0) (.mmark (fA w) (fB w))
  | 4 => decIf (plain w) (.madapt (fD w) (fA w) (fB w))
  | 5 => decIf (plain w) (.mcut (fD w) (fA w) (fB w))
  | 6 => decIf (plain w) (.mmig (fD w) (fA w) (fB w))
  | 7 => decIf (plain w) (.mhalo (fD w) (fA w) (fB w))
  | _ => none

/-- OP 0x7B (R60). -/
def decBaz (w : BitVec 32) : Option Instr :=
  match (fFN w).toNat with
  | 0 => decIf (plain w && fB w == 0) (.bhist (fD w) (fA w))
  | 1 => decIf (plain w && fB w == 0) (.bscan (fD w) (fA w))
  | 2 => decIf (plain w && fB w == 0) (.btopk (fD w) (fA w))
  | 3 => decIf (plain w && fB w == 0) (.broute (fD w) (fA w))
  | 4 => decIf (plain w && fB w == 0) (.bcolor (fD w) (fA w))
  | 5 => decIf (plain w && fB w == 0) (.bseg (fD w) (fA w))
  | _ => none

/-- OP 0x7C (R60). -/
def decSync (w : BitVec 32) : Option Instr :=
  match (fFN w).toNat with
  | 0 => decIf (plain w && fD w == 0 && fA w == 0) (.barw (fB w))
  | 1 => decIf (plain w && fD w == 0 && fA w == 0 && fB w == 0) (.bara)
  | 2 => decIf (plain w && fB w == 0 && fA w == 0) (.barq (fD w))
  | 3 => decIf (plain w) (.sigw (fD w) (fA w) (fB w))
  | 4 => decIf (plain w && fD w == 0 && fA w == 0 && fB w == 0) (.yield)
  | _ => none

/-- OP 0x7D (R60). -/
def decLaunch (w : BitVec 32) : Option Instr :=
  match (fFN w).toNat with
  | 0 => decIf (plain w && fB w == 0) (.launch (fD w) (fA w))
  | _ => none

/-- The instruction the tables assign to a word whose reserved fields are zero, before the row's
limits are judged (R56 to R60). -/
def decodeRaw (w : BitVec 32) : Option Instr :=
  match (fOp w).toNat with
  | 0x01 => decInt1 w
  | 0x02 => decInt2 w
  | 0x03 => decInt3 w
  | 0x04 => some (.addi (fD w) (fA w) (fImm15 w))
  | 0x05 => some (.andi (fD w) (fA w) (fImm15 w))
  | 0x06 => some (.ori (fD w) (fA w) (fImm15 w))
  | 0x07 => some (.xori (fD w) (fA w) (fImm15 w))
  | 0x08 => decIf (fSh9 w == 0) (.slli (fD w) (fA w) (fSh6 w))
  | 0x09 => decIf (fSh9 w == 0) (.srli (fD w) (fA w) (fSh6 w))
  | 0x0A => decIf (fSh9 w == 0) (.srai (fD w) (fA w) (fSh6 w))
  | 0x0B => some (.slti (fD w) (fA w) (fImm15 w))
  | 0x0C => some (.lih (fD w) (fImm20 w))
  | 0x10 => decBranch w
  | 0x11 => some (.jal (fD w) (fImm20 w))
  | 0x12 => some (.jalr (fD w) (fA w) (fImm15 w))
  | 0x13 => decIf (fH8 w == 0) (.loop (fD w) (fOff12 w))
  | 0x14 => some (.loopi (fCount w) (fOff12 w))
  | 0x15 => decLoopReg w
  | 0x18 => decCsr w
  | 0x19 => decSys w
  | 0x1A => decFence w
  | 0x1C => decFp w
  | 0x20 => some (.ldb (fD w) (fA w) (fImm15 w))
  | 0x21 => some (.ldbn (fD w) (fA w) (fImm15 w))
  | 0x22 => some (.ldh (fD w) (fA w) (fImm15 w))
  | 0x23 => some (.ldhn (fD w) (fA w) (fImm15 w))
  | 0x24 => some (.ldw (fD w) (fA w) (fImm15 w))
  | 0x25 => some (.ldwn (fD w) (fA w) (fImm15 w))
  | 0x26 => some (.ldd (fD w) (fA w) (fImm15 w))
  | 0x28 => some (.stb (fD w) (fA w) (fImm15 w))
  | 0x29 => some (.sth (fD w) (fA w) (fImm15 w))
  | 0x2A => some (.stw (fD w) (fA w) (fImm15 w))
  | 0x2B => some (.std (fD w) (fA w) (fImm15 w))
  | 0x2C => decSp w
  | 0x2D => decPush w
  | 0x2E => decStrip w
  | 0x2F => decLen w
  | 0x30 => decVmem w
  | 0x31 => decVmem w
  | 0x32 => decVmem w
  | 0x33 => decVmem w
  | 0x34 => decVmemP w
  | 0x38 => decVmem w
  | 0x39 => decVmem w
  | 0x3A => decVmem w
  | 0x3B => decVmem w
  | 0x3C => decVmemP w
  | 0x3E => decAmo w
  | 0x40 => decVfRm w
  | 0x41 => decVfRm w
  | 0x42 => decVfRm w
  | 0x43 => decVfRm w
  | 0x44 => decVfRm w
  | 0x45 => decVfRm w
  | 0x46 => decVfRm w
  | 0x47 => decVfRm w
  | 0x48 => decVfRm w
  | 0x49 => decV w
  | 0x4A => decV w
  | 0x4B => decV w
  | 0x4C => decV w
  | 0x4D => decVfRm w
  | 0x4E => decVfRm w
  | 0x4F => decV w
  | 0x50 => decV w
  | 0x51 => decV w
  | 0x52 => decV w
  | 0x53 => decV w
  | 0x54 => decV w
  | 0x55 => decV w
  | 0x56 => decV w
  | 0x57 => decV w
  | 0x58 => decV w
  | 0x59 => decV w
  | 0x5A => decV w
  | 0x5B => decV w
  | 0x5C => decV w
  | 0x5D => decV w
  | 0x5E => decV w
  | 0x5F => decVcvt w
  | 0x60 => decV w
  | 0x61 => decV w
  | 0x62 => decV w
  | 0x63 => decV w
  | 0x64 => decV w
  | 0x65 => decV w
  | 0x66 => decV w
  | 0x67 => decV w
  | 0x68 => decV w
  | 0x69 => decV w
  | 0x6A => decV w
  | 0x6B => decVfRm w
  | 0x6C => decVfRm w
  | 0x6D => decV w
  | 0x6E => decV w
  | 0x6F => decVfRm w
  | 0x70 => decPred w
  | 0x71 => decPlane w
  | 0x72 => decMx w
  | 0x73 => decOpt w
  | 0x74 => decMma w
  | 0x75 => decIf (fFM w == 0 && fFN w == 9) (.mmap (fD w) (fA w) (fB w) (fPG w))
  | 0x76 => decMz w
  | 0x78 => decCpy w
  | 0x79 => decAb w
  | 0x7A => decMesh w
  | 0x7B => decBaz w
  | 0x7C => decSync w
  | 0x7D => decLaunch w
  | 0x7E => decPsn w
  | _ => none

/-- Whether OP is in the tables of R56 to R60. -/
def opAssigned (op : Nat) : Bool :=
  (0x01 ≤ op && op ≤ 0x0C) || (0x10 ≤ op && op ≤ 0x15) || op == 0x18 || op == 0x19 || op == 0x1A ||
  op == 0x1C || (0x20 ≤ op && op ≤ 0x26) || (0x28 ≤ op && op ≤ 0x34) || (0x38 ≤ op && op ≤ 0x3C) ||
  op == 0x3E || (0x40 ≤ op && op ≤ 0x76) || (0x78 ≤ op && op ≤ 0x7E)

/-- Decode a word, refusing by name every word of R62. Total. -/
def decode (w : BitVec 32) : Except DecodeError Instr :=
  match decodeRaw w with
  | some i => if i.encodable then .ok i else .error .limit
  | none => if opAssigned (fOp w).toNat then .error .field else .error .opcode

/-- Decode the first four bytes, least significant first (R3, R49), and return the rest. -/
def decodeBytes (bs : List Byte) : Except DecodeError (Instr × List Byte) :=
  match bs with
  | b0 :: b1 :: b2 :: b3 :: rest => (decode (b3 ++ b2 ++ b1 ++ b0)).map (fun i => (i, rest))
  | _ => .error .short

/-- The four bytes of a word as memory holds them (R49). -/
def wordBytes (w : BitVec 32) : List Byte :=
  [w.extractLsb' 0 8, w.extractLsb' 8 8, w.extractLsb' 16 8, w.extractLsb' 24 8]

/-- What the decoder reads from an opcode-table row's word `w` of `nbits` bits; the table gives every
word of this machine 32 bits, and an event none. -/
def decodeTableWord (nbits w : Nat) : Option Instr :=
  if nbits == 32 then
    match decodeBytes (wordBytes (BitVec.ofNat 32 w)) with
    | .ok (i, _) => some i
    | .error _ => none
  else none

/-! ### The encoder (R49 to R60) -/

/-- R and X formats. -/
def mkR (op : BitVec 7) (d a b : BitVec 5) (fm : BitVec 2) (pg : BitVec 3) (fn : BitVec 5) : BitVec 32 :=
  op ++ d ++ a ++ b ++ fm ++ pg ++ fn
/-- I format. -/
def mkI (op : BitVec 7) (d a : BitVec 5) (imm : BitVec 15) : BitVec 32 := op ++ d ++ a ++ imm
/-- L and J formats. -/
def mkL (op : BitVec 7) (d : BitVec 5) (imm : BitVec 20) : BitVec 32 := op ++ d ++ imm
/-- B format, and the CSR split of the I format. -/
def mkB (op : BitVec 7) (a b : BitVec 5) (cnd : BitVec 3) (off : BitVec 12) : BitVec 32 :=
  op ++ a ++ b ++ cnd ++ off
/-- H format of LOOP. -/
def mkH (op : BitVec 7) (a : BitVec 5) (z : BitVec 8) (e : BitVec 12) : BitVec 32 := op ++ a ++ z ++ e
/-- H format of LOOPI. -/
def mkH2 (op : BitVec 7) (c : BitVec 13) (e : BitVec 12) : BitVec 32 := op ++ c ++ e
/-- FENCE. -/
def mkF (op : BitVec 7) (p s sc : BitVec 3) (fn : BitVec 5) : BitVec 32 := op ++ p ++ s ++ sc ++ 0#11 ++ fn
/-- M format. -/
def mkM (op : BitVec 7) (q b s : BitVec 5) (pl : BitVec 2) (acq nt u : Bool) (esz : BitVec 3) : BitVec 32 :=
  op ++ q ++ b ++ s ++ pl ++ BitVec.ofBool acq ++ BitVec.ofBool nt ++ BitVec.ofBool u ++ 0#2 ++ esz
/-- AMO. -/
def mkA (op : BitVec 7) (d a b : BitVec 5) (acq rel : Bool) (sc : BitVec 3) (w64 : Bool) (fn : BitVec 4) : BitVec 32 :=
  op ++ d ++ a ++ b ++ BitVec.ofBool acq ++ BitVec.ofBool rel ++ sc ++ BitVec.ofBool w64 ++ fn
/-- P format. -/
def mkP (op : BitVec 7) (pd pa pb : BitVec 6) (fn : BitVec 7) : BitVec 32 := op ++ pd ++ pa ++ pb ++ fn

/-- The word of an instruction. An event has none, and `encode` answers the all-zero word for it. -/
def encode (i : Instr) : BitVec 32 :=
  match i with
  | .add d a b => mkR 0x01 d a b 0 0 0
  | .sub d a b => mkR 0x01 d a b 0 0 1
  | .and d a b => mkR 0x01 d a b 0 0 2
  | .or d a b => mkR 0x01 d a b 0 0 3
  | .xor d a b => mkR 0x01 d a b 0 0 4
  | .sll d a b => mkR 0x01 d a b 0 0 5
  | .srl d a b => mkR 0x01 d a b 0 0 6
  | .sra d a b => mkR 0x01 d a b 0 0 7
  | .slt d a b => mkR 0x01 d a b 0 0 8
  | .sltn d a b => mkR 0x01 d a b 0 0 9
  | .min d a b => mkR 0x01 d a b 0 0 10
  | .max d a b => mkR 0x01 d a b 0 0 11
  | .minn d a b => mkR 0x01 d a b 0 0 12
  | .maxn d a b => mkR 0x01 d a b 0 0 13
  | .mul d a b => mkR 0x02 d a b 0 0 0
  | .mulh d a b => mkR 0x02 d a b 0 0 1
  | .mulhn d a b => mkR 0x02 d a b 0 0 2
  | .div d a b => mkR 0x02 d a b 0 0 3
  | .divn d a b => mkR 0x02 d a b 0 0 4
  | .rem d a b => mkR 0x02 d a b 0 0 5
  | .remn d a b => mkR 0x02 d a b 0 0 6
  | .clz d a => mkR 0x03 d a 0 0 0 0
  | .ctz d a => mkR 0x03 d a 0 0 0 1
  | .popc d a => mkR 0x03 d a 0 0 0 2
  | .brev d a => mkR 0x03 d a 0 0 0 3
  | .addi d a i => mkI 0x04 d a i
  | .andi d a i => mkI 0x05 d a i
  | .ori d a i => mkI 0x06 d a i
  | .xori d a i => mkI 0x07 d a i
  | .slli d a sh => mkI 0x08 d a (0#9 ++ sh)
  | .srli d a sh => mkI 0x09 d a (0#9 ++ sh)
  | .srai d a sh => mkI 0x0a d a (0#9 ++ sh)
  | .slti d a i => mkI 0x0b d a i
  | .lih d i => mkL 0x0c d i
  | .beq a b off => mkB 0x10 a b 0 off
  | .bne a b off => mkB 0x10 a b 1 off
  | .blt a b off => mkB 0x10 a b 2 off
  | .bge a b off => mkB 0x10 a b 3 off
  | .bltn a b off => mkB 0x10 a b 4 off
  | .bgen a b off => mkB 0x10 a b 5 off
  | .jal d off => mkL 0x11 d off
  | .jalr d a i => mkI 0x12 d a i
  | .loop a e => mkH 0x13 a 0 e
  | .loopi c e => mkH2 0x14 c e
  | .lidx d l => mkR 0x15 d l 0 0 0 0
  | .lbrk l => mkR 0x15 0 l 0 0 0 1
  | .csrr d c => mkB 0x18 d 0 0 c.num
  | .csrw d a c => mkB 0x18 d a 1 c.num
  | .csrs d a c => mkB 0x18 d a 2 c.num
  | .csrc d a c => mkB 0x18 d a 3 c.num
  | .ecall => mkR 0x19 0 0 0 0 0 0
  | .eret => mkR 0x19 0 0 0 0 0 1
  | .brk => mkR 0x19 0 0 0 0 0 2
  | .wfe => mkR 0x19 0 0 0 0 0 3
  | .fence p s sc => mkF 0x1a p s sc.bits 0
  | .fencei => mkR 0x1a 0 0 0 0 0 1
  | .fadd t rm d a b => mkR 0x1c d a b t.bits rm.bits 0
  | .fsub t rm d a b => mkR 0x1c d a b t.bits rm.bits 1
  | .fmul t rm d a b => mkR 0x1c d a b t.bits rm.bits 2
  | .fdiv t rm d a b => mkR 0x1c d a b t.bits rm.bits 3
  | .fsqrt t rm d a => mkR 0x1c d a 0 t.bits rm.bits 4
  | .ffma t rm d a b => mkR 0x1c d a b t.bits rm.bits 5
  | .fmin t d a b => mkR 0x1c d a b t.bits 0 6
  | .fmax t d a b => mkR 0x1c d a b t.bits 0 7
  | .fcmp t c d a b => mkR 0x1c d a b t.bits c.bits 8
  | .fcvt t k rm d a => mkR 0x1c d a k.bits t.bits rm.bits 9
  | .ldb d a i => mkI 0x20 d a i
  | .ldbn d a i => mkI 0x21 d a i
  | .ldh d a i => mkI 0x22 d a i
  | .ldhn d a i => mkI 0x23 d a i
  | .ldw d a i => mkI 0x24 d a i
  | .ldwn d a i => mkI 0x25 d a i
  | .ldd d a i => mkI 0x26 d a i
  | .stb d a i => mkI 0x28 d a i
  | .sth d a i => mkI 0x29 d a i
  | .stw d a i => mkI 0x2a d a i
  | .std d a i => mkI 0x2b d a i
  | .sptest d a => mkR 0x2c d a 0 0 0 0
  | .spcast d a => mkR 0x2c d a 0 0 0 1
  | .pushs q a => mkR 0x2d q a 0 0 0 0
  | .pops d q => mkR 0x2d d q 0 0 0 1
  | .strip d a b n lm sew => mkR 0x2e d a b 0 n (lm ++ sew.sewBits)
  | .setvl d a => mkR 0x2f d a 0 0 0 0
  | .vltake d => mkR 0x2f d 0 0 0 0 1
  | .lchk d a b => mkR 0x2f d a b 0 0 2
  | .vld q b acq nt e => mkM 0x30 q b 0 0 acq nt false e.bits
  | .vlds q b s acq nt e => mkM 0x31 q b s 0 acq nt false e.bits
  | .vldx q b x acq nt u e => mkM 0x32 q b x 0 acq nt u e.bits
  | .vldff q b acq nt e => mkM 0x33 q b 0 0 acq nt false e.bits
  | .vldp q b s pl acq nt u fam => mkM 0x34 q b s pl acq nt u fam.esz
  | .vst q b acq nt e => mkM 0x38 q b 0 0 acq nt false e.bits
  | .vsts q b s acq nt e => mkM 0x39 q b s 0 acq nt false e.bits
  | .vstx q b x acq nt e => mkM 0x3a q b x 0 acq nt false e.bits
  | .vstxadd q b x acq nt u e => mkM 0x3b q b x 0 acq nt u e.bits
  | .vstp q b s pl acq nt u fam => mkM 0x3c q b s pl acq nt u fam.esz
  | .amoadd d a b q r sc w => mkA 0x3e d a b q r sc.bits w 0
  | .amoand d a b q r sc w => mkA 0x3e d a b q r sc.bits w 1
  | .amoor d a b q r sc w => mkA 0x3e d a b q r sc.bits w 2
  | .amoxor d a b q r sc w => mkA 0x3e d a b q r sc.bits w 3
  | .amomin d a b q r sc w => mkA 0x3e d a b q r sc.bits w 4
  | .amomax d a b q r sc w => mkA 0x3e d a b q r sc.bits w 5
  | .amominn d a b q r sc w => mkA 0x3e d a b q r sc.bits w 6
  | .amomaxn d a b q r sc w => mkA 0x3e d a b q r sc.bits w 7
  | .amoswap d a b q r sc w => mkA 0x3e d a b q r sc.bits w 8
  | .amocas d a b q r sc w => mkA 0x3e d a b q r sc.bits w 9
  | .amofadd d a b q r sc w => mkA 0x3e d a b q r sc.bits w 10
  | .vfadd d a b fm pg rm => mkR 0x40 d a b fm.bits pg (0#2 ++ rm.bits)
  | .vfsub d a b fm pg rm => mkR 0x41 d a b fm.bits pg (0#2 ++ rm.bits)
  | .vfmul d a b fm pg rm => mkR 0x42 d a b fm.bits pg (0#2 ++ rm.bits)
  | .vfdiv d a b fm pg rm => mkR 0x43 d a b fm.bits pg (0#2 ++ rm.bits)
  | .vfsqrt d a pg rm => mkR 0x44 d a 0 0 pg (0#2 ++ rm.bits)
  | .vfma d a b fm pg rm => mkR 0x45 d a b fm.bits pg (0#2 ++ rm.bits)
  | .vfms d a b fm pg rm => mkR 0x46 d a b fm.bits pg (0#2 ++ rm.bits)
  | .vfnma d a b fm pg rm => mkR 0x47 d a b fm.bits pg (0#2 ++ rm.bits)
  | .vfnms d a b fm pg rm => mkR 0x48 d a b fm.bits pg (0#2 ++ rm.bits)
  | .vfmin d a b fm pg => mkR 0x49 d a b fm.bits pg 0
  | .vfmax d a b fm pg => mkR 0x4a d a b fm.bits pg 0
  | .vfabs d a pg => mkR 0x4b d a 0 0 pg 0
  | .vfneg d a pg => mkR 0x4c d a 0 0 pg 0
  | .vfrcp d a pg rm => mkR 0x4d d a 0 0 pg (0#2 ++ rm.bits)
  | .vfrsq d a pg rm => mkR 0x4e d a 0 0 pg (0#2 ++ rm.bits)
  | .vfcmp d a b fm pg c => mkR 0x4f d a b fm.bits pg (0#2 ++ c.bits)
  | .vadd d a b fm pg => mkR 0x50 d a b fm.bits pg 0
  | .vsub d a b fm pg => mkR 0x51 d a b fm.bits pg 0
  | .vmul d a b fm pg => mkR 0x52 d a b fm.bits pg 0
  | .vmulh d a b fm pg => mkR 0x53 d a b fm.bits pg 0
  | .vand d a b fm pg => mkR 0x54 d a b fm.bits pg 0
  | .vor d a b fm pg => mkR 0x55 d a b fm.bits pg 0
  | .vxor d a b fm pg => mkR 0x56 d a b fm.bits pg 0
  | .vsll d a b fm pg => mkR 0x57 d a b fm.bits pg 0
  | .vsrl d a b fm pg => mkR 0x58 d a b fm.bits pg 0
  | .vsra d a b fm pg => mkR 0x59 d a b fm.bits pg 0
  | .vmin d a b fm pg => mkR 0x5a d a b fm.bits pg 0
  | .vmax d a b fm pg => mkR 0x5b d a b fm.bits pg 0
  | .vminn d a b fm pg => mkR 0x5c d a b fm.bits pg 0
  | .vmaxn d a b fm pg => mkR 0x5d d a b fm.bits pg 0
  | .vcmp d a b fm pg c => mkR 0x5e d a b fm.bits pg (0#2 ++ c.bits)
  | .vcvt d a rm pg t => mkR 0x5f d a (0#2 ++ rm.bits) 0 pg t.bits
  | .vmv d a pg => mkR 0x60 d a 0 0 pg 0
  | .vbcast d b fm pg => mkR 0x61 d 0 b fm.bits pg 0
  | .vmerge d a b fm pg => mkR 0x62 d a b fm.bits pg 0
  | .vslideup d a k fm pg => mkR 0x63 d a k fm.bits pg 0
  | .vslidedn d a k fm pg => mkR 0x64 d a k fm.bits pg 0
  | .vperm d a b pg => mkR 0x65 d a b 0 pg 0
  | .vcomp d a pg => mkR 0x66 d a 0 0 pg 0
  | .vexpd d a pg => mkR 0x67 d a 0 0 pg 0
  | .vextr d a k fm => mkR 0x68 d a k fm.bits 0 0
  | .vins d a k fm => mkR 0x69 d a k fm.bits 0 0
  | .viota d pg => mkR 0x6a d 0 0 0 pg 0
  | .vredsum d a pg rm => mkR 0x6b d a 0 0 pg (0#2 ++ rm.bits)
  | .vredtree d a pg rm => mkR 0x6c d a 0 0 pg (0#2 ++ rm.bits)
  | .vredmax d a pg => mkR 0x6d d a 0 0 pg 0
  | .vredmin d a pg => mkR 0x6e d a 0 0 pg 0
  | .vscan d a pg rm => mkR 0x6f d a 0 0 pg (0#2 ++ rm.bits)
  | .pand d a b => mkP 0x70 d a b 0
  | .por d a b => mkP 0x70 d a b 1
  | .pxor d a b => mkP 0x70 d a b 2
  | .pandn d a b => mkP 0x70 d a b 3
  | .pnot d a => mkP 0x70 d a 0 4
  | .pcnt d a => mkP 0x70 d a 0 5
  | .pfirst d a => mkP 0x70 d a 0 6
  | .pset d => mkP 0x70 d 0 0 7
  | .pclr d => mkP 0x70 d 0 0 8
  | .pmov d a => mkP 0x70 d a 0 9
  | .vpsplit d a pg fam n => mkR 0x71 d a 0 0 pg (fam.bits ++ (n ++ 0#2))
  | .vpjoin d a pg fam n => mkR 0x71 d a 0 0 pg (fam.bits ++ (n ++ 1#2))
  | .vptrunc d a pg fam n => mkR 0x71 d a 0 0 pg (fam.bits ++ (n ++ 2#2))
  | .vprnd d a pg fam n => mkR 0x71 d a 0 0 pg (fam.bits ++ (n ++ 3#2))
  | .vqmx d a pg => mkR 0x72 d a 0 0 pg 0
  | .vdqmx d a b pg => mkR 0x72 d a b 0 pg 1
  | .vpacc d a pg n => mkR 0x73 d a 0 0 pg n
  | .vadamw d a b pg => mkR 0x73 d a b 1 pg 0
  | .vsgdm d a b pg => mkR 0x73 d a b 2 pg 0
  | .mma c a b pg t => mkR 0x74 c a b 0 pg t.bits
  | .mmap c a b pg => mkR 0x75 c a b 0 pg 9
  | .mmaz c t => mkR 0x76 c 0 0 0 0 t.bits
  | .mtrans c b t => mkR 0x76 c 0 b 1 0 t.bits
  | .psnget d => mkR 0x7e d 0 0 0 0 0
  | .psnclr => mkR 0x7e 0 0 0 0 0 1
  | .cpy d a => mkR 0x78 d a 0 0 0 0
  | .due d a => mkR 0x78 d a 0 0 0 1
  | .waitd a => mkR 0x78 0 a 0 0 0 2
  | .waith a b => mkR 0x78 0 a b 0 0 3
  | .cpyst d a => mkR 0x78 d a 0 0 0 4
  | .abinit d a b => mkR 0x79 d a b 0 0 0
  | .waitab a b => mkR 0x79 0 a b 0 0 1
  | .mopen d a => mkR 0x7a d a 0 0 0 0
  | .mnbr d a b => mkR 0x7a d a b 0 0 1
  | .mcell d a b => mkR 0x7a d a b 0 0 2
  | .mmark a b => mkR 0x7a 0 a b 0 0 3
  | .madapt d a b => mkR 0x7a d a b 0 0 4
  | .mcut d a b => mkR 0x7a d a b 0 0 5
  | .mmig d a b => mkR 0x7a d a b 0 0 6
  | .mhalo d a b => mkR 0x7a d a b 0 0 7
  | .bhist d a => mkR 0x7b d a 0 0 0 0
  | .bscan d a => mkR 0x7b d a 0 0 0 1
  | .btopk d a => mkR 0x7b d a 0 0 0 2
  | .broute d a => mkR 0x7b d a 0 0 0 3
  | .bcolor d a => mkR 0x7b d a 0 0 0 4
  | .bseg d a => mkR 0x7b d a 0 0 0 5
  | .barw b => mkR 0x7c 0 0 b 0 0 0
  | .bara => mkR 0x7c 0 0 0 0 0 1
  | .barq d => mkR 0x7c d 0 0 0 0 2
  | .sigw d a b => mkR 0x7c d a b 0 0 3
  | .yield => mkR 0x7c 0 0 0 0 0 4
  | .launch d a => mkR 0x7d d a 0 0 0 0
  | _ => 0

end Sys2Proof
end

