-- ==== Sys2Proof/Machine/Fetch.lean ====
section
/-! DEFINITION. A turn begins (log 1): its time passes, and the side it names fetches and decodes one
word (03_scalar R86, 05_order R162, 12_system R359 to R361). -/

namespace Sys2Proof.Machine

/-! ### Time (01_machine R33, 11_tasks R341) -/

/-- Whether every hart of a caravan is halted (R373). -/
def State.allHalted (s : State) (c : CarId) (v : Caravan) : Bool :=
  (carHarts c v.size).all (fun k => (s.hart k).tr.halted)

/-- Whether a caravan's budget falls as time passes (R341, R373). -/
def State.charged (s : State) (c : CarId) (v : Caravan) : Bool :=
  (v.st == .running || v.st == .stopping || v.st == .saving) && !s.allHalted c v

/-- A budget falls by `n` tk from `now` on, not below 0; the time at which it reaches 0 is kept (R341, R363). -/
def Caravan.spend (c : Caravan) (now n : Nat) : Caravan :=
  match c.budget with
  | some b => { c with budget := some (b - n), outAt := if b ≠ 0 ∧ b ≤ n then now + b else c.outAt }
  | none => c

/-- Time passes: the almanac advances and the budgets of placed caravans fall (R341). -/
def State.elapse (s : State) (n : Nat) : State :=
  { s with now := s.now + n, cars := s.cars.map (fun p => if s.charged p.1 p.2 then (p.1, p.2.spend s.now n) else p) }

/-- Whether every side of a caravan stands at an instruction boundary (R341, R361). -/
def State.allSettled (s : State) (c : CarId) (v : Caravan) : Bool :=
  (carHarts c v.size).all (fun k => (s.hart k).calm .X)

/-! ### Turns -/

/-- The next turn: the first listed, or the scheduler's (log 1). -/
def State.turn (s : State) : Turn :=
  match s.own.turns with
  | t :: _ => t
  | [] => Config.schedule s.own.turnNo

/-- Copy every wear record to the nonvolatile store (R380). -/
def State.saveWear (s : State) : State :=
  { s with cores := s.cores.map (fun c => (c.1, { c.2 with nvWear := c.2.wear })), dev := { s.dev with savedAt := s.now } }

/-- Within this time Slorraroth copies the wear records again: 60 s (R380). -/
def saveLimit : Nat := 60000000000

/-- Slorraroth's copy of the wear records, once its time has come (R380). -/
def State.keepWear (s : State) : State := if s.dev.fwUp && decide (s.now ≥ s.dev.savedAt + saveLimit) then s.saveWear else s

/-- An error outside what an instruction reads: an uncorrectable one poisons a granule of a scratchpad or of HBM, a
corrected one is counted (R375). -/
def State.strike (s : State) : State :=
  match s.own.upset with
  | .granule key => if keyHoldsPoison key then { s with poison := poisonSet s.poison key 1 } else s
  | .fixed core => s.setCore core { s.coreNo core with ecc := (s.coreNo core).ecc + 1 }
  | _ => s

/-- The state in which a turn's action is performed. Time does not pass the due date of a copy that keeps it (R274). -/
def State.begin (s : State) : State :=
  let t := s.turn
  let o := { s.own with turns := s.own.turns.tail, turnNo := s.own.turnNo + 1, free := s.own.free + 1,
                        defer := t.defer, upset := t.upset, cut := t.cut }
  (({ s with own := o }.elapse (s.slack t.elapsed)).keepWear).strike

/-! ### Which sides can run -/

/-- Whether a sequencer of a hart runs, if its caravan's budget allows it. An A side inside a vector access runs on to
its end where a halt is requested (R361, R373). A restored hart's A side waits for its earlier commands (R171). -/
def State.able (s : State) (k : HartKey) (sd : Side) : Bool :=
  let h := s.hart k
  let c := s.caravan k
  let q := h.seq sd
  (kvGet s.harts k).isSome && (c.st == .running || c.st == .stopping) &&
    q.stop.isNone && !h.tr.halted && (!h.tr.haltreq || (sd == .A && h.mem.mid.isSome)) && s.dev.warm.isNone &&
    (match sd with
     | .A => (!q.ended || h.tr.smode) && h.overAll h.mem.fence
     | .X => !q.ended && !h.tr.xpause)

/-- Whether a sequencer of a hart runs now: its caravan has budget left, or it is an A side that goes on to the end of a
vector access (R341). -/
def State.awake (s : State) (k : HartKey) (sd : Side) : Bool :=
  s.able k sd && ((s.caravan k).budget != some 0 || (sd == .A && (s.hart k).mem.mid.isSome))

/-- Whether a sequencer of a hart admits an instruction now; the A side, not while a load or AMO of it has not been
performed (log 11). -/
def State.canRun (s : State) (k : HartKey) (sd : Side) : Bool :=
  s.awake k sd && (sd == .X || (s.hart k).mem.pendLoad.isNone)

/-! ### Fetch (R86, R141, R162, R359) -/

/-- The 32-bit word at a key. -/
def State.wordAt (s : State) (key : Nat) : BitVec 32 := BitVec.ofNat 32 (bytesNat (memBytes s.mem key 4))

/-- Whether an address lies in the slice's code range (R86). -/
def State.inCode (s : State) (k : HartKey) (pc : Word) : Bool :=
  let d := (s.sliceOf k).desc
  decide (d.codebase ≤ pc.toNat) && decide (pc.toNat < d.codebase + d.codelen)

/-- The word a fetch reads: memory's, or one the instruction cache still holds (R162). -/
def cachedWord (ic : List (Side × Word × BitVec 32)) (sd : Side) (pc : Word) (w : BitVec 32) (kept : Bool) : BitVec 32 :=
  match ic.find? (fun e => e.1 == sd && e.2.1 == pc) with
  | some e => if e.2.2 ≠ w ∧ kept then e.2.2 else w
  | none => w

/-- Remember a fetched word. -/
def Hart.cacheWord (h : Hart) (sd : Side) (pc : Word) (w : BitVec 32) : Hart :=
  { h with icache := (sd, pc, w) :: h.icache.filter (fun e => !(e.1 == sd && e.2.1 == pc)) }

/-- Fetch the word of the running sequencer; a failed fetch raises LEASE (R86, R141). A handler's words
lie in Slorraroth's own address space (R359). -/
def State.fetch (s : State) : Except Trap (BitVec 32 × State) :=
  let k := s.own.cur
  let pc := s.seq.pc
  if s.h.tr.smode && s.own.side == .A then .ok (s.wordAt (keyRom pc.toNat), s)
  else if !s.inCode k pc then .error ⟨cLease, pc, 3⟩
  else
    match translate s (s.sliceOf k).ctx pc.toNat needX with
    | none => .error ⟨cLease, pc, 2⟩
    | some key =>
      let w := cachedWord s.h.icache s.own.side pc (s.wordAt key) (Config.lineKept s.own.free)
      .ok (w, s.modH (fun h => h.cacheWord s.own.side pc w))

/-- Whether a forced stop of a hart is due: PREQ was raised PREGRACE tk ago or earlier (R345). -/
def State.stopDue (s : State) (k : HartKey) : Bool :=
  match (s.caravan k).preqAt with
  | some t => (s.caravan k).st == .stopping && decide (s.now ≥ t + (s.hart k).grace) && (s.hart k).mem.pendLoad.isNone
  | none => false

/-- Poison an element of the first entry of a queue. -/
def VQueue.spoil (q : VQueue) (e : Nat) : VQueue :=
  match q.items with
  | [] => q
  | x :: t => { q with items := { x with psn := x.psn ||| BitVec.twoPow 2048 e } :: t }

/-- An uncorrectable error in an element of a store-queue entry poisons it (R375). -/
def State.spoilQueue (s : State) : State :=
  match s.own.upset with
  | .stq q e => s.modH (fun h => { h with q := { h.q with vstore := h.q.vstore.set q ((h.q.vstore[q]).spoil e) } })
  | _ => s

/-- Act as a side for a turn; the X side is stopped inside an instruction by a forced stop alone (R177). -/
def State.takeTurn (s : State) (k : HartKey) (sd : Side) : State :=
  (if sd = .X ∧ !s.stopDue k then { s with own := { s.own with cur := k, side := sd, cut := none } } else s.actAs k sd).spoilQueue

/-- Fetch and decode at a side: the instruction and the state to run it in, or the trap of the fetch. A word that
the tables do not hold is ILLEGAL_WORD (R62). -/
def State.fetchAt (s : State) (k : HartKey) (sd : Side) : Except Out (Instr × State) :=
  match (s.takeTurn k sd).fetch with
  | .error t => .error ((s.takeTurn k sd).trap t)
  | .ok (w, s1) =>
    let s2 := { s1 with own := { s1.own with ir := w } }
    match decodeBytes (wordBytes w) with
    | .ok (i, _) => .ok (i, s2)
    | .error _ => .ok (.illegalWord w, s2)

/-- A side's turn up to its instruction, or what the turn already comes to: nothing when the side cannot run, or a
trap of the fetch. -/
def State.issueOf (s : State) (k : HartKey) (sd : Side) : Except Out (Instr × State) :=
  if s.canRun k sd then s.fetchAt k sd else .error (.next s)

end Sys2Proof.Machine
end

