-- ==== Sys2Proof/Machine/Place.lean ====
section
/-! DEFINITION. The dispatcher's decisions: placement, restore and pre-emption requests (01_machine R17 to R25,
R77, 11_tasks R324, R338 to R342, R347). -/

namespace Sys2Proof.Machine

/-! ### Sets of cores (R17, R20, R339) -/

/-- The sets of cores of a die that a caravan of a shape may take (R17). -/
def coreSets (die shape : Nat) : List (List Nat) :=
  if shape = 1 then (List.range 128).map (fun n => [128 * die + n])
  else if shape = 2 then (List.range 64).map (fun n => [128 * die + 2 * n, 128 * die + 2 * n + 1])
  else (List.range 32).map (fun n => (List.range 4).map (fun i => 128 * die + 4 * n + i))

/-- Whether a caravan holds a core. -/
def State.coreHeld (s : State) (n : Nat) : Bool := s.cars.any (fun p => p.2.cores.contains n)

/-- Whether a core may take a caravan (R20, R382). -/
def Core.eligible (c : Core) : Bool := (c.st == .nominal || c.st == .derated) && !c.full

/-- Whether no request holds a core for another slice (R339, R342). -/
def Disp.admits (d : Disp) (slice n : Nat) : Bool := !d.reqs.any (fun r => r.slice != slice && r.cores.contains n)

/-- Whether a slice may use a core: eligible, free or one of a victim's, and not held for another slice. -/
def State.usable (s : State) (die slice : Nat) (victim : List Nat) (n : Nat) : Bool :=
  (victim.contains n || !s.coreHeld n) && (s.coreNo n).eligible && (s.disp die).admits slice n

/-- The largest wear record of a set (R339). -/
def State.setWear (s : State) (cs : List Nat) : Nat := cs.foldl (fun m n => max m (s.coreNo n).wear) 0

/-- The better of the best set so far and the next one: the lower largest wear, the earlier on a tie. -/
def State.betterSet (s : State) (best : Option (List Nat)) (cs : List Nat) : Option (List Nat) :=
  match best with
  | none => some cs
  | some b => if s.setWear cs < s.setWear b then some cs else some b

/-- The set that R339 takes for a slice; with a victim, among the sets of its cluster that its cores help to
complete (R342). -/
def State.fit (s : State) (die slice shape : Nat) (victim : List Nat) : Option (List Nat) :=
  let near := fun (cs : List Nat) => victim.isEmpty || cs.all (fun n => n / 4 == victim.headD 0 / 4)
  ((coreSets die shape).filter (fun cs => near cs && cs.all (fun n => s.usable die slice victim n))).foldl s.betterSet none

/-! ### Which caravan is next (R338) -/

/-- The saved caravan of a slice that was saved first. -/
def State.firstSaved (s : State) (n : Nat) : Option (CarId × Caravan) :=
  ((s.carsOf n).filter (fun p => p.2.st == .saved)).foldl (fun b p =>
    match b with
    | none => some p
    | some q => if p.2.savedNo < q.2.savedNo then some p else some q) none

/-- Whether a slice has a placeable caravan. -/
def State.placeable (s : State) (n : Nat) : Bool :=
  let sl := s.sliceNo n
  (s.firstSaved n).isSome || decide (sl.nextCar < sl.desc.count)

/-- Insert a slice by deadline, then by arrival. -/
def State.insSlice (s : State) (n : Nat) : List Nat → List Nat
  | [] => [n]
  | m :: t =>
    let a := s.sliceNo n
    let b := s.sliceNo m
    if a.desc.deadline < b.desc.deadline ∨ (a.desc.deadline = b.desc.deadline ∧ a.arrival < b.arrival) then n :: m :: t
    else m :: s.insSlice n t

/-- The slices that a pass takes, in order (R339). -/
def State.passOrder (s : State) (die : Nat) : List Nat :=
  ((s.slices.filter (fun p => p.2.die == die && p.2.st == SliceState.ready && p.2.num != 0 && s.placeable p.1)).map (·.1)).foldl
    (fun l n => s.insSlice n l) []

/-! ### Tags and private areas (R25, R138, R340) -/

/-- The free slot tags of a die. -/
def State.freeTags (s : State) (die : Nat) : List Nat :=
  (List.range' 1 255).filter (fun t => (kvGet s.cars ⟨die, t⟩).isNone)

/-- The first unit of a free stretch of the pool, lowest first. -/
def Disp.poolAt (d : Disp) (units : Nat) : Option Nat :=
  ((0 :: d.priv.map (fun u => u.1 + u.2)).filter (fun c => decide (c + units ≤ Config.privPool) &&
    !d.priv.any (fun u => decide (u.1 < c + units) && decide (c < u.1 + u.2)))).foldl
      (fun b c => match b with | none => some c | some m => some (min m c)) none

/-- Allocate an area of the pool for each of `n` harts: the first units and the dispatcher. -/
def Disp.allocate (d : Disp) (units : Nat) : Nat → Option (List Nat × Disp)
  | 0 => some ([], d)
  | n + 1 =>
    match d.poolAt units with
    | none => none
    | some u => (Disp.allocate { d with priv := d.priv ++ [(u, units)] } units n).map (fun r => (u :: r.1, r.2))

/-- PBASE of a unit of a die's pool: areas of different dies lie apart in the context's space (R138). -/
def pbaseOf (die unit : Nat) : Nat := (die * Config.privPool + unit) * 0x10000

/-! ### First placement (R77, R324, R340) -/

/-- The entry record (R324). -/
def entryRecord (sl : Slice) (car : Nat) : List Byte :=
  natBytes (sliceWord sl.die sl.num).toNat 8 ++ natBytes (car * 2 ^ 16) 8 ++ natBytes (sl.desc.count * 2 ^ 8) 8 ++
    natBytes sl.desc.deadline 8

/-- A sequencer at its entry. -/
def Seq.entry (pc : Nat) : Seq := { Seq.reset with pc := word pc }

/-- A hart at its entry (R77, R340). -/
def Hart.entry (sl : Slice) (pbase : Nat) : Hart :=
  let d := sl.desc
  { Hart.reset with
    a := Seq.entry (d.codebase + d.aent), x := Seq.entry (d.codebase + d.xent),
    regs := { Regs.reset with a := (Regs.reset.a.set 1 d.arg).set 31 (word (0xF0 * 2 ^ 56 + d.privsz * 0x10000)) },
    mem := { HartMem.reset with leases := d.leases, spBytes := d.spbytes, privSize := d.privsz * 0x10000, pbase := pbase } }

/-- Clear a hart's scratchpad and private area, write its entry record and place it; Slorraroth has written TVEC
(R396), and DBGCTL is what the hart's core holds (R372, log 51). -/
def State.enterHart (s : State) (k : HartKey) (sl : Slice) (car unit : Nat) : State :=
  let pb := pbaseOf sl.die unit
  let s1 := (s.clear (keySpad k 0) sl.desc.spbytes).clearPriv sl.ctx pb (sl.desc.privsz * 0x10000)
  ({ s1 with mem := memPut s1.mem (privPageKey s1 sl.ctx pb) (whole (entryRecord sl car)) }).setHart k
    { Hart.entry sl pb with tr := { Traps.reset with tvec := s.dev.tvec }.withDbg (s.coreNo ((s.caravan k).cores.getD k.idx 0)).dbg }

/-- Take the next number of placements and saves. -/
def State.tick (s : State) : State := { s with own := { s.own with order := s.own.order + 1 } }

/-- A caravan on its cores for the first time. -/
def Caravan.fresh (s : State) (slice car size : Nat) (cores : List Nat) (die : Nat) (budget : Option Nat) : Caravan :=
  { slice := slice, num := car, size := size, cores := cores, st := .running, ended := 0, phase := false, arrived := 0,
    budget := budget, outAt := s.now, preqAt := none, placedNo := s.own.order, savedNo := 0, homeDie := die,
    imaged := false, forced := false, heldAt := 0, placedAt := s.now, imageAt := 0 }

/-- First placement of a slice's next caravan; `pick` chooses the tag. None where no tag is free or the private
areas cannot be allocated (R25, R339). -/
def State.placeNew (s : State) (n : Nat) (cores : List Nat) (pick : Nat) : Option State :=
  let sl := s.sliceNo n
  let tags := s.freeTags sl.die
  if tags.isEmpty then none
  else
    match (s.disp sl.die).allocate sl.desc.privsz sl.desc.shape with
    | none => none
    | some (units, d) =>
      let c : CarId := ⟨sl.die, tags.getD (pick % tags.length) 0⟩
      let s1 := (s.setDisp sl.die d).setCar c (Caravan.fresh s n sl.nextCar sl.desc.shape cores sl.die sl.desc.budget)
      let s2 := (units.zipIdx).foldl (fun t u => t.enterHart ⟨c.die, c.slot, u.2⟩ sl sl.nextCar u.1) s1
      some ((s2.setSlice n { sl with nextCar := sl.nextCar + 1 }).tick)

/-! ### Restore (R347, R370) -/

/-- A sequencer starts at its saved PC. -/
def Seq.restart (q : Seq) : Seq := { q with stop := none, wait := none }

/-- A hart back on a core: both sides start, PREQ.PENDING is clear, the lease table is the descriptor's. The fence of R171
comes first: the A side waits for the commands that have not ended (log 88). -/
def Hart.restore (h : Hart) (d : Desc) : Hart :=
  { h with a := h.a.restart, x := h.x.restart, csr := { h.csr with preq := false },
           mem := { h.mem with leases := d.leases, fence := h.unfinished } }

/-- Restore a saved caravan on cores. -/
def State.restoreCar (s : State) (c : CarId) (v : Caravan) (cores : List Nat) : State :=
  let d := (s.sliceNo v.slice).desc
  let v1 := { v with cores := cores, st := .running, preqAt := none, placedNo := s.own.order, imaged := false, forced := false, placedAt := s.now }
  ((s.setCar c v1).modHarts (carHarts c v.size) (fun h => h.restore d)).tick

/-! ### Pre-emption requests (R342, R382) -/

/-- Raise PREQ on a caravan: each hart's PENDING and event bit (R102). -/
def State.raisePreq (s : State) (c : CarId) (v : Caravan) : State :=
  (s.setCar c { v with preqAt := some s.now, st := if v.st = .running then .stopping else v.st }).modHarts (carHarts c v.size)
    (fun h => { h with event := true, csr := { h.csr with preq := true } })

/-- The later deadline of two victims; on a tie the one put on its cores most recently (R342). -/
def State.laterVictim (s : State) (best : Option (CarId × Caravan)) (p : CarId × Caravan) : Option (CarId × Caravan) :=
  match best with
  | none => some p
  | some b =>
    let x := (s.sliceNo b.2.slice).desc.deadline
    let y := (s.sliceNo p.2.slice).desc.deadline
    if x < y ∨ (x = y ∧ b.2.placedNo < p.2.placedNo) then some p else some b

/-- Whether a request of a die is in progress: a victim has not left its cores, a core's own eviction included (R342,
R382). -/
def State.requestOpen (s : State) (die : Nat) : Bool :=
  (s.disp die).reqs.any (fun r => r.victim.isSome) || s.cars.any (fun p => p.1.die == die && p.2.preqAt.isSome &&
    (p.2.st == .running || p.2.st == .stopping || p.2.st == .saving || p.2.st == .held))

/-- Raise a request for the first slice of a pass when R342 allows one. -/
def State.request (s : State) (die n : Nat) : State :=
  let sl := s.sliceNo n
  let d := s.disp die
  if s.requestOpen die || (s.fit die n sl.desc.shape []).isSome then s
  else
    match (s.cars.filter (fun p => p.1.die == die && p.2.st == .running &&
        decide ((s.sliceNo p.2.slice).desc.deadline > sl.desc.deadline) &&
        (s.fit die n sl.desc.shape p.2.cores).isSome)).foldl s.laterVictim none with
    | none => s
    | some (c, v) =>
      let cores := (v.cores ++ (s.fit die n sl.desc.shape v.cores).getD []).eraseDups
      (s.setDisp die { d with reqs := d.reqs ++ [{ victim := some c, slice := n, cores := cores }] }).raisePreq c v

/-! ### Passes (R339) -/

/-- Place a slice's first placeable caravan, if it fits. -/
def State.tryPlace (s : State) (die n pick : Nat) : Option State :=
  match s.fit die n (s.sliceNo n).desc.shape [] with
  | none => none
  | some cores =>
    match (match s.firstSaved n with
      | some p => some (s.restoreCar p.1 p.2 cores)
      | none => s.placeNew n cores pick) with
    | some t => some (t.setDisp die ((t.disp die).unhold n))
    | none => none

/-- One pass over slices: the state after a placement, or after the request of the first slice. -/
def State.pass (s : State) (die pick : Nat) (first : Bool) : List Nat → Option State × State
  | [] => (none, s)
  | n :: t =>
    match s.tryPlace die n pick with
    | some s1 => (some s1, s1)
    | none => (if first then s.request die n else s).pass die pick false t

/-- Passes until one places no caravan; each takes its own digit of `pick`. -/
def State.decisions (die : Nat) : Nat → Nat → State → State
  | 0, _, s => s
  | fuel + 1, pick, s =>
    match s.pass die (pick % 256) true (s.passOrder die) with
    | (some s1, _) => State.decisions die fuel (pick / 256) s1
    | (none, s1) => s1

/-- DISPATCHER_DECISION (R339): at most 128 caravans fit the cores of a die. -/
def execDispatcherDecision (die pick : Nat) (s : State) : Out :=
  if (s.disp die).quiesced || s.dev.warm.isSome || !s.unitUp (.cd die) then .next s
  else .next (State.decisions die 129 pick s)

end Sys2Proof.Machine
end

