-- ==== Sys2Proof/Machine/Image.lean ====
section
/-! DEFINITION. The pre-emption image: as a view of a hart, as a debugger writes it, and in HBM (11_tasks R346,
12_system R369, R370, R373). -/

namespace Sys2Proof.Machine

/-! ### Loop stacks and the CSR area (R369, R370) -/

/-- A word of a loop entry. -/
def LoopEntry.getWord (e : LoopEntry) (w : Nat) : Word :=
  match w with
  | 0 => e.start
  | 1 => e.stop
  | 2 => e.remaining
  | _ => e.index

/-- The loop entry of a place above the depth of a stack (0 the A side's, 1 the X side's, 2 the set-aside one): what a
debugger has written there. -/
def Hart.spareAt (h : Hart) (stack n : Nat) : LoopEntry := kvGetD h.spare (8 * stack + n) ⟨0, 0, 0, 0⟩

/-- The loop stacks by number. -/
def Hart.stackNo (h : Hart) (stack : Nat) : List LoopEntry :=
  match stack with
  | 0 => h.a.loops
  | 1 => h.x.loops
  | _ => h.aside.getD []

/-- Replace a loop stack. -/
def Hart.setStack (h : Hart) (stack : Nat) (l : List LoopEntry) : Hart :=
  match stack with
  | 0 => { h with a := { h.a with loops := l } }
  | 1 => { h with x := { h.x with loops := l } }
  | _ => { h with aside := some l }

/-- A word of a loop stack's area: entry 0 is the first pushed; the depth stands at 0xC0 (log 22). -/
def Hart.loopsRead (h : Hart) (stack o : Nat) : Nat :=
  let l := h.stackNo stack
  if o = 0xC0 then l.length
  else if o > 0xC0 then 0
  else ((l.reverse[o / 32]?.getD (h.spareAt stack (o / 32))).getWord (o % 32 / 8)).toNat

/-- A loop entry with one of its words replaced. -/
def LoopEntry.setWord (e : LoopEntry) (w : Nat) (v : Word) : LoopEntry :=
  match w with
  | 0 => { e with start := v }
  | 1 => { e with stop := v }
  | 2 => { e with remaining := v }
  | _ => { e with index := v }

/-- Write a word of a loop stack's area (R373): a new depth drops entries at the top, or takes in those written above it;
an entry above the depth keeps its words. -/
def Hart.loopsWrite (h : Hart) (stack o : Nat) (v : Word) : Hart :=
  let r := (h.stackNo stack).reverse
  let n := o / 32
  if o = 0xC0 then
    if v.toNat ≤ Config.loopDepth then
      h.setStack stack ((r.take v.toNat ++ (List.range' r.length (v.toNat - r.length)).map (h.spareAt stack)).reverse)
    else h
  else if n ≥ Config.loopDepth then h
  else
    match r[n]? with
    | some e => h.setStack stack ((r.set n (e.setWord (o % 32 / 8) v)).reverse)
    | none => { h with spare := kvSet h.spare (8 * stack + n) ((h.spareAt stack n).setWord (o % 32 / 8) v) }

/-- The CSRs of the CSR area that have a slot under their own name, by slot (R370). -/
def imageCsr (slot : Nat) : Option Csr :=
  match slot with
  | 0 => some .fflags
  | 1 => some .frm
  | 6 => some .vt
  | 7 => some .stripsz
  | 8 => some .xlink
  | 9 => some .qwait
  | 10 => some .sticky
  | 11 => some .optlr
  | 12 => some .optb1
  | 13 => some .optb2
  | 14 => some .opteps
  | 15 => some .optwd
  | 16 => some .optbc
  | 17 => some .status
  | 18 => some .cause
  | 19 => some .epc
  | 20 => some .tval
  | 21 => some .tvec
  | 22 => some .scratch
  | 23 => some .tval2
  | 24 => some .xepc
  | 25 => some .pregrace
  | 26 => some .shctl
  | 27 => some .dbgctl
  | _ => none

/-- A slot of the CSR area (R370). -/
def State.imageCsrRead (s : State) (k : HartKey) (slot : Nat) : Nat :=
  let h := s.hart k
  match imageCsr slot with
  | some c => (s.csrRead k .A c).toNat
  | none =>
    match slot with
    | 2 => h.a.vstart
    | 3 => h.x.vstart
    | 4 => h.a.vl
    | 5 => h.x.vl
    | 28 => h.a.pc.toNat
    | 29 => h.x.pc.toNat
    | _ => 0

/-- Write a slot of the CSR area: the value that the resumed hart uses (R373). -/
def State.imageCsrWrite (s : State) (k : HartKey) (slot : Nat) (v : Word) : State :=
  match slot with
  | 2 => s.modHart k (fun h => { h with a := { h.a with vstart := v.toNat % 2048 } })
  | 3 => s.modHart k (fun h => { h with x := { h.x with vstart := v.toNat % 2048 } })
  | 4 => s.modHart k (fun h => { h with a := { h.a with vl := v.toNat % 2 ^ 12 } })
  | 5 => s.modHart k (fun h => { h with x := { h.x with vl := v.toNat % 2 ^ 12 } })
  | 10 => s.modHart k (fun h => { h with csr := { h.csr with sticky := v.setWidth 4 } })
  | 17 => s.modHart k (fun h => { h with tr := { h.tr with smode := v.getLsbD 0, xpause := v.getLsbD 2, nest := v.getLsbD 3 } })
  | 28 => s.modHart k (fun h => { h with a := { h.a with pc := align4 v } })
  | 29 => s.modHart k (fun h => { h with x := { h.x with pc := align4 v } })
  | _ =>
    match imageCsr slot with
    | some c => s.csrWrite k .A c v
    | none => s

/-! ### The image (R369) -/

/-- The barrier register as a word (R325). -/
def Caravan.barrier (c : Caravan) : Nat := c.arrived.toNat + (if c.phase then 16 else 0) + 32 * c.ended.toNat

/-- The header of an image (R369). -/
def State.imageHead (s : State) (k : HartKey) (off : Nat) : Nat :=
  let c := s.caravan k
  let sl := s.sliceOf k
  if off = 0 then 1 + 2 ^ 8 * k.slot + 2 ^ 16 * k.idx + 2 ^ 24 * c.size + 2 ^ 32 * sl.desc.spbytes
  else if off = 8 then (sliceWord sl.die sl.num).toNat
  else if off = 0x10 then c.imageAt
  else if off = 0x18 then (if c.forced then 0x10 else 0)
  else 0

/-- The words at 0x700 (R370). -/
def State.imageMisc (s : State) (k : HartKey) (off : Nat) : Nat :=
  let h := s.hart k
  if off = 0x700 then (if k.idx = 0 then (s.caravan k).barrier else 0)
  else if off = 0x708 then (if h.wph then 1 else 0) + (if h.event then 2 else 0)
  else if off = 0x710 then h.eng.gen.getD 0
  else if off = 0x718 then h.kinds.toNat
  else 0

/-- An 8-byte word of a hart's image (R369). -/
def State.imageRead (s : State) (k : HartKey) (off : Nat) : Nat :=
  let h := s.hart k
  if off < 0x100 then s.imageHead k off
  else if off < 0x200 then (h.readA (BitVec.ofNat 5 (off / 8))).toNat
  else if off < 0x300 then (if off / 8 % 32 < 28 then (h.readX (BitVec.ofNat 5 (off / 8)) 0).toNat else 0)
  else if off < 0x400 then s.imageCsrRead k (off / 8 % 32)
  else if off < 0x700 then h.loopsRead (off / 0x100 - 4) (off % 0x100)
  else if off < 0x720 then s.imageMisc k off
  else if 0x1000 ≤ off ∧ off < 0x1100 then (h.regs.psm.extractLsb' (8 * (off % 0x100)) 64).toNat
  else if 0x2000 ≤ off ∧ off < 0x6000 then ((h.readP (BitVec.ofNat 6 ((off - 0x2000) / 0x100))).extractLsb' (8 * (off % 0x100)) 64).toNat
  else if 0x8000 ≤ off ∧ off < 0xF000 then
    ((h.regs.v.toList.getD ((off - 0x8000) / 0x400) 0).extractLsb' (8 * (off % 0x400)) 64).toNat
  else if 0x10000 ≤ off ∧ off < 0x2A000 then h.qblockRead (off - 0x10000)
  else if 0x40000 ≤ off ∧ off + 8 ≤ 0x40000 + Config.spadBytes then bytesNat (memBytes s.mem (keySpad k (off - 0x40000)) 8)
  else 0

/-- Write the words at 0x700 (R325, R370); stop kinds are kept. -/
def State.imageMiscWrite (s : State) (k : HartKey) (off : Nat) (v : Word) : State :=
  if off = 0x700 ∧ k.idx = 0 then
    let c := s.caravan k
    let m := sizeMask c.size
    s.setCar (carKey k) { c with arrived := v.extractLsb' 0 4 &&& m, phase := v.getLsbD 4, ended := v.extractLsb' 5 4 &&& m }
  else if off = 0x708 then s.modHart k (fun h => { h with wph := v.getLsbD 0, event := v.getLsbD 1 })
  else if off = 0x710 then s.modHart k (fun h => { h with eng := { h.eng with gen := some v.toNat } })
  else s

/-- Write an 8-byte word of a halted hart's state (R372, R373); header words ignore it. -/
def State.imageWrite (s : State) (k : HartKey) (off : Nat) (v : Word) : State :=
  if off < 0x100 then s
  else if off < 0x200 then s.modHart k (fun h => h.writeA (BitVec.ofNat 5 (off / 8)) v)
  else if off < 0x300 then (if off / 8 % 32 < 28 then s.modHart k (fun h => h.writeX (BitVec.ofNat 5 (off / 8)) v) else s)
  else if off < 0x400 then s.imageCsrWrite k (off / 8 % 32) v
  else if off < 0x700 then s.modHart k (fun h => h.loopsWrite (off / 0x100 - 4) (off % 0x100) v)
  else if off < 0x720 then s.imageMiscWrite k off v
  else if 0x1000 ≤ off ∧ off < 0x1100 then
    s.modHart k (fun h => { h with regs := { h.regs with psm := putMask h.regs.psm 64 (8 * (off % 0x100)) v.toNat } })
  else if 0x2000 ≤ off ∧ off < 0x6000 then
    let p := BitVec.ofNat 6 ((off - 0x2000) / 0x100)
    s.modHart k (fun h => h.writeP p (putMask (h.readP p) 64 (8 * (off % 0x100)) v.toNat))
  else if 0x8000 ≤ off ∧ off < 0xF000 then
    s.modHart k (fun h => h.setGroup (BitVec.ofNat 5 ((off - 0x8000) / 0x400))
      [putBits (h.regs.v.toList.getD ((off - 0x8000) / 0x400) 0) 64 (8 * (off % 0x400)) v.toNat])
  else if 0x10000 ≤ off ∧ off < 0x2A000 then s.modHart k (fun h => h.qblockWrite (off - 0x10000) v)
  else if 0x40000 ≤ off ∧ off + 8 ≤ 0x40000 + Config.spadBytes then
    s.put (keySpad k (off - 0x40000)) (whole (natBytes v.toNat 8)) .clear
  else s

/-! ### The image in HBM (R346, R369) -/

/-- Write the image of a hart to HBM: its words, then its scratchpad (R346, step 3). -/
def State.writeImage (s : State) (k : HartKey) : State :=
  let words := (List.range (0x40000 / 8)).flatMap (fun o => natBytes (s.imageRead k (8 * o)) 8)
  { s with mem := memPut s.mem (imageKey k) (whole words), poison := poisonClear s.poison (imageKey k) 0x40000 }.copyRange
    (keySpad k 0) (imageKey k + 0x40000) (s.spLimit k)

end Sys2Proof.Machine
end

