-- ==== Sys2Proof/Machine/Vector.lean ====
section
/-! DEFINITION. Element-wise vector instructions: floating point (06_vector R186, R187), integer (R188,
R189), conversion (R190, R191) and the moves of R192. -/

namespace Sys2Proof.Machine

/-! ### Shapes (R184) -/

/-- Run a meaning with the valid VT; the gate has refused an invalid one. -/
def State.withVt (s : State) (i : Instr) (k : VType → State → Out) : Out :=
  s.gate i (fun s => match s.vt with
    | some t => k t s
    | none => s.illegal 4)

/-- d(e) := op(a(e)) in the floating-point kind. -/
def State.vf1 (s : State) (i : Instr) (d a : Reg) (pg : BitVec 3) (shadow : Bool) (op : VType → Nat → FRes) : Out :=
  s.withVt i (fun t s => s.withQueues i [.v a] none (some d) (fun s =>
    s.elementwise t [.v a] d pg shadow none t.psn [s.vop [.v a] 0 t.lmul t.w (some t.fmt)] (fun v => op t (v.getD 0 0))))

/-- d(e) := op(a(e), b(e)) in the floating-point kind. -/
def State.vf2 (s : State) (i : Instr) (d a b : Reg) (fm : BKind) (pg : BitVec 3) (shadow : Bool)
    (op : VType → Nat → Nat → FRes) : Out :=
  let fs : List Fld := .v a :: bFld fm b
  s.withVt i (fun t s => s.withQueues i fs none (some d) (fun s =>
    s.elementwise t fs d pg shadow (some t.fmt) t.psn
      [s.vop fs 0 t.lmul t.w (some t.fmt), s.bop t fs 1 fm b (some t.fmt)]
      (fun v => op t (v.getD 0 0) (v.getD 1 0))))

/-- d(e) := op(a(e), b(e), d(e)): the fused rows; the fields pop in the order A, B, D (R42). -/
def State.vf3 (s : State) (i : Instr) (d a b : Reg) (fm : BKind) (pg : BitVec 3)
    (op : VType → Nat → Nat → Nat → FRes) : Out :=
  let fs : List Fld := .v a :: (bFld fm b ++ [.v d])
  s.withVt i (fun t s => s.withQueues i fs none (some d) (fun s =>
    s.elementwise t fs d pg true (some t.fmt) t.psn
      [s.vop fs 0 t.lmul t.w (some t.fmt), s.bop t fs 1 fm b (some t.fmt), s.vop fs (fs.length - 1) t.lmul t.w (some t.fmt)]
      (fun v => op t (v.getD 0 0) (v.getD 1 0) (v.getD 2 0))))

/-- d(e) := op(a(e), b(e)) on integers; a poisoned element gives 0 (R188). -/
def State.vi2 (s : State) (i : Instr) (d a b : Reg) (fm : BKind) (pg : BitVec 3) (op : VType → Nat → Nat → Nat) : Out :=
  let fs : List Fld := .v a :: bFld fm b
  s.withVt i (fun t s => s.withQueues i fs none (some d) (fun s =>
    s.elementwise t fs d pg false none 0 [s.vop fs 0 t.lmul t.w none, s.bop t fs 1 fm b none]
      (fun v => (op t (v.getD 0 0) (v.getD 1 0), 0))))

/-! ### Floating point (R186) -/

/-- VFADD (R186). -/
def execVfadd (d a b : Reg) (fm : BKind) (pg : BitVec 3) (rm : RM) (s : State) : Out :=
  s.vf2 (.vfadd d a b fm pg rm) d a b fm pg true (fun t x y => t.fmt.add (t.vectorRm rm) x y)

/-- VFSUB (R186). -/
def execVfsub (d a b : Reg) (fm : BKind) (pg : BitVec 3) (rm : RM) (s : State) : Out :=
  s.vf2 (.vfsub d a b fm pg rm) d a b fm pg true (fun t x y => t.fmt.sub (t.vectorRm rm) x y)

/-- VFMUL (R186). -/
def execVfmul (d a b : Reg) (fm : BKind) (pg : BitVec 3) (rm : RM) (s : State) : Out :=
  s.vf2 (.vfmul d a b fm pg rm) d a b fm pg true (fun t x y => t.fmt.mul (t.vectorRm rm) x y)

/-- VFDIV (R186). -/
def execVfdiv (d a b : Reg) (fm : BKind) (pg : BitVec 3) (rm : RM) (s : State) : Out :=
  s.vf2 (.vfdiv d a b fm pg rm) d a b fm pg true (fun t x y => t.fmt.div (t.vectorRm rm) x y)

/-- VFSQRT (R186); VFADD to VFNMS are shadow-checked, which takes it in (R201). -/
def execVfsqrt (d a : Reg) (pg : BitVec 3) (rm : RM) (s : State) : Out :=
  s.vf1 (.vfsqrt d a pg rm) d a pg true (fun t x => t.fmt.sqrt (t.vectorRm rm) x)

/-- VFMA (R186). -/
def execVfma (d a b : Reg) (fm : BKind) (pg : BitVec 3) (rm : RM) (s : State) : Out :=
  s.vf3 (.vfma d a b fm pg rm) d a b fm pg
    (fun t x y z => t.fmt.fmaV (t.vectorRm rm) false (t.fmt.dec x) (t.fmt.dec y) (t.fmt.dec z))

/-- VFMS (R186). -/
def execVfms (d a b : Reg) (fm : BKind) (pg : BitVec 3) (rm : RM) (s : State) : Out :=
  s.vf3 (.vfms d a b fm pg rm) d a b fm pg
    (fun t x y z => t.fmt.fmaV (t.vectorRm rm) false (t.fmt.dec x) (t.fmt.dec y) (t.fmt.dec z).neg)

/-- VFNMA (R186). -/
def execVfnma (d a b : Reg) (fm : BKind) (pg : BitVec 3) (rm : RM) (s : State) : Out :=
  s.vf3 (.vfnma d a b fm pg rm) d a b fm pg
    (fun t x y z => t.fmt.fmaV (t.vectorRm rm) true (t.fmt.dec x) (t.fmt.dec y) (t.fmt.dec z))

/-- VFNMS (R186). -/
def execVfnms (d a b : Reg) (fm : BKind) (pg : BitVec 3) (rm : RM) (s : State) : Out :=
  s.vf3 (.vfnms d a b fm pg rm) d a b fm pg
    (fun t x y z => t.fmt.fmaV (t.vectorRm rm) true (t.fmt.dec x) (t.fmt.dec y) (t.fmt.dec z).neg)

/-- VFMIN (R186, R95). -/
def execVfmin (d a b : Reg) (fm : BKind) (pg : BitVec 3) (s : State) : Out :=
  s.vf2 (.vfmin d a b fm pg) d a b fm pg false (fun t x y => t.fmt.minmax false x y)

/-- VFMAX (R186, R95). -/
def execVfmax (d a b : Reg) (fm : BKind) (pg : BitVec 3) (s : State) : Out :=
  s.vf2 (.vfmax d a b fm pg) d a b fm pg false (fun t x y => t.fmt.minmax true x y)

/-- VFABS (R186); an operand that carries the poison payload is poisoned, and gives the poison NaN of R205 (log 56). -/
def execVfabs (d a : Reg) (pg : BitVec 3) (s : State) : Out :=
  s.vf1 (.vfabs d a pg) d a pg false (fun t x => (x % 2 ^ (t.w - 1), 0))

/-- VFNEG (R186); an operand that carries the poison payload is poisoned, and gives the poison NaN of R205 (log 56). -/
def execVfneg (d a : Reg) (pg : BitVec 3) (s : State) : Out :=
  s.vf1 (.vfneg d a pg) d a pg false (fun t x => ((x + 2 ^ (t.w - 1)) % 2 ^ t.w, 0))

/-- VFRCP (R186). -/
def execVfrcp (d a : Reg) (pg : BitVec 3) (rm : RM) (s : State) : Out :=
  s.vf1 (.vfrcp d a pg rm) d a pg true (fun t x => t.fmt.rcp (t.vectorRm rm) x)

/-- VFRSQ (R186). -/
def execVfrsq (d a : Reg) (pg : BitVec 3) (rm : RM) (s : State) : Out :=
  s.vf1 (.vfrsq d a pg rm) d a pg true (fun t x => t.fmt.rsq (t.vectorRm rm) x)

/-- VFCMP (R187). -/
def execVfcmp (d a b : Reg) (fm : BKind) (pg : BitVec 3) (c : VFCond) (s : State) : Out :=
  let i := Instr.vfcmp d a b fm pg c
  let fs : List Fld := .v a :: bFld fm b
  s.withVt i (fun t s => s.withQueues i fs none none (fun s =>
    s.elementwiseP t fs d pg [s.vop fs 0 t.lmul t.w (some t.fmt), s.bop t fs 1 fm b (some t.fmt)]
      (fun v => t.fmt.cmp c (v.getD 0 0) (v.getD 1 0))))

/-! ### Integer (R188, R189) -/

/-- An element as an exact integer: signed under the signed kind, natural otherwise. -/
def VType.int (t : VType) (x : Nat) : Int := if t.kind = .int then (BitVec.ofNat t.w x).toInt else x

/-- An element as a signed integer. -/
def VType.sgn (t : VType) (x : Nat) : Int := (BitVec.ofNat t.w x).toInt

/-- The low bits of an integer. -/
def VType.low (t : VType) (v : Int) : Nat := (BitVec.ofInt t.w v).toNat

/-- The range of an integer kind (R188). -/
def VType.range (t : VType) : Int × Int :=
  if t.kind = .int then (-(2 ^ (t.w - 1)), 2 ^ (t.w - 1) - 1) else (0, 2 ^ t.w - 1)

/-- Clamp to the kind's range. -/
def VType.clamp (t : VType) (v : Int) : Int := max t.range.1 (min t.range.2 v)

/-- An exact result as the saturating rows write it (R188). -/
def VType.sati (t : VType) (v : Int) : Nat :=
  if t.sat && (t.kind == .int || t.kind == .nat) then t.low (t.clamp v) else t.low v

/-- VADD (R188). -/
def execVadd (d a b : Reg) (fm : BKind) (pg : BitVec 3) (s : State) : Out :=
  s.vi2 (.vadd d a b fm pg) d a b fm pg (fun t x y => t.sati (t.int x + t.int y))

/-- VSUB (R188). -/
def execVsub (d a b : Reg) (fm : BKind) (pg : BitVec 3) (s : State) : Out :=
  s.vi2 (.vsub d a b fm pg) d a b fm pg (fun t x y => t.sati (t.int x - t.int y))

/-- VMUL (R188). -/
def execVmul (d a b : Reg) (fm : BKind) (pg : BitVec 3) (s : State) : Out :=
  s.vi2 (.vmul d a b fm pg) d a b fm pg (fun t x y => t.sati (t.int x * t.int y))

/-- VMULH (R188). -/
def execVmulh (d a b : Reg) (fm : BKind) (pg : BitVec 3) (s : State) : Out :=
  s.vi2 (.vmulh d a b fm pg) d a b fm pg (fun t x y => t.low (t.int x * t.int y / 2 ^ t.w))

/-- VAND (R188). -/
def execVand (d a b : Reg) (fm : BKind) (pg : BitVec 3) (s : State) : Out :=
  s.vi2 (.vand d a b fm pg) d a b fm pg (fun _ x y => x &&& y)

/-- VOR (R188). -/
def execVor (d a b : Reg) (fm : BKind) (pg : BitVec 3) (s : State) : Out :=
  s.vi2 (.vor d a b fm pg) d a b fm pg (fun _ x y => x ||| y)

/-- VXOR (R188). -/
def execVxor (d a b : Reg) (fm : BKind) (pg : BitVec 3) (s : State) : Out :=
  s.vi2 (.vxor d a b fm pg) d a b fm pg (fun _ x y => x ^^^ y)

/-- VSLL (R188). -/
def execVsll (d a b : Reg) (fm : BKind) (pg : BitVec 3) (s : State) : Out :=
  s.vi2 (.vsll d a b fm pg) d a b fm pg (fun t x y => x * 2 ^ (y % t.w) % 2 ^ t.w)

/-- VSRL (R188). -/
def execVsrl (d a b : Reg) (fm : BKind) (pg : BitVec 3) (s : State) : Out :=
  s.vi2 (.vsrl d a b fm pg) d a b fm pg (fun t x y => x / 2 ^ (y % t.w))

/-- VSRA (R188). -/
def execVsra (d a b : Reg) (fm : BKind) (pg : BitVec 3) (s : State) : Out :=
  s.vi2 (.vsra d a b fm pg) d a b fm pg (fun t x y => t.low (t.sgn x / 2 ^ (y % t.w)))

/-- VMIN (R188). -/
def execVmin (d a b : Reg) (fm : BKind) (pg : BitVec 3) (s : State) : Out :=
  s.vi2 (.vmin d a b fm pg) d a b fm pg (fun t x y => if t.sgn x ≤ t.sgn y then x else y)

/-- VMAX (R188). -/
def execVmax (d a b : Reg) (fm : BKind) (pg : BitVec 3) (s : State) : Out :=
  s.vi2 (.vmax d a b fm pg) d a b fm pg (fun t x y => if t.sgn x ≥ t.sgn y then x else y)

/-- VMINN (R188). -/
def execVminn (d a b : Reg) (fm : BKind) (pg : BitVec 3) (s : State) : Out :=
  s.vi2 (.vminn d a b fm pg) d a b fm pg (fun _ x y => min x y)

/-- VMAXN (R188). -/
def execVmaxn (d a b : Reg) (fm : BKind) (pg : BitVec 3) (s : State) : Out :=
  s.vi2 (.vmaxn d a b fm pg) d a b fm pg (fun _ x y => max x y)

/-- The conditions of VCMP (R189). -/
def VType.icmp (t : VType) (c : VCond) (x y : Nat) : Bool :=
  match c with
  | .eq => x == y
  | .ne => x != y
  | .lt => decide (t.sgn x < t.sgn y)
  | .ge => decide (t.sgn x ≥ t.sgn y)
  | .ltn => decide (x < y)
  | .gen => decide (x ≥ y)

/-- VCMP (R189). -/
def execVcmp (d a b : Reg) (fm : BKind) (pg : BitVec 3) (c : VCond) (s : State) : Out :=
  let i := Instr.vcmp d a b fm pg c
  let fs : List Fld := .v a :: bFld fm b
  s.withVt i (fun t s => s.withQueues i fs none none (fun s =>
    s.elementwiseP t fs d pg [s.vop fs 0 t.lmul t.w none, s.bop t fs 1 fm b none]
      (fun v => (t.icmp c (v.getD 0 0) (v.getD 1 0), 0))))

/-! ### Conversion (R190, R191) -/

/-- What a source type is: a format, or an integer with its signedness. -/
def tyFmt (y : VTy) : Option FFmt :=
  match y with
  | .f64 => some fmt64
  | .f32 => some fmt32
  | .f16 => some fmt16
  | .bf16 => some fmtBf
  | .e4m3 => some fmtE4M3
  | .e5m2 => some fmtE5M2
  | .e2m1 => some fmtE2M1
  | _ => none

/-- Whether an integer source type is signed. -/
def tySigned (y : VTy) : Bool :=
  match y with
  | .i8 | .i16 | .i32 | .i64 => true
  | _ => false

/-- The format whose poison payload counts in a source type (R205). -/
def tyPsn (y : VTy) : Option FFmt :=
  match y with
  | .f64 | .f32 | .f16 | .bf16 => tyFmt y
  | _ => none

/-- Whether a kind is an integer kind. -/
def VType.isInt (t : VType) : Bool := t.kind == .int || t.kind == .nat

/-- The conversion of one element (R191). -/
def convert (y : VTy) (t : VType) (rm : RM) (x : Nat) : FRes :=
  match tyFmt y with
  | some f => if t.isInt then f.toInt rm (t.kind == .int) t.w x else f.cvt t.fmt rm x
  | none =>
    let v : Int := if tySigned y then (BitVec.ofNat y.width x).toInt else x
    if t.isInt then (t.low (if t.w ≤ y.width && t.sat then t.clamp v else v), 0)
    else t.fmt.ofInt rm (tySigned y) y.width x

/-- VCVT (R190, R191): its groups may overlap with their elements at other places, so it runs pass by pass (R184). -/
def execVcvt (d a : Reg) (rm : RM) (pg : BitVec 3) (y : VTy) (s : State) : Out :=
  let i := Instr.vcvt d a rm pg y
  s.withVt i (fun t s => s.withQueues i [.v a] none (some d) (fun s =>
    s.loopV t [.v a] d pg (!t.isInt) (s.passes t d t.psn
      (fun u => [u.vop [.v a] 0 (sideGroup t.lmul y.width t.w) y.width (tyPsn y)])
      (fun v => convert y t (t.vectorRm rm) (v.getD 0 0)))))

/-! ### Moves (R192) -/

/-- An element as a move writes it: a value carrying the payload bit for bit, an element poisoned for
another cause as the kind's poison result; and whether it is poisoned. -/
def moveElt (t : VType) (o : Opnd) (bad : Bool) (e : Nat) : Nat × Bool :=
  if bad || o.psn e then (t.psn, true) else (o.val e, t.fp && (t.fmt.dec (o.val e)).isPsn)

/-- Put moved elements in place. -/
def putMoves (t : VType) (a : VAcc) (xs : List (Nat × Nat × Bool)) : VAcc :=
  xs.foldl (fun acc x => acc.put t.w x.1 x.2.1 x.2.2 0 (t.entryPsn x.2.1)) a

/-- The element-wise loop of a move (R184, R192) under the mask `g`. -/
def State.moveAll (s : State) (t : VType) (fs : List Fld) (d : Reg) (g : PReg) (elt : Nat → Nat × Bool) : Out :=
  let vl := s.vlen t
  let cut := s.cutBeat t.w vl
  let n := cut.getD vl
  let a := (putMoves t (s.vstartAcc d t.lmul (decide (s.h.x.vstart ≠ 0)))
    (((s.elems g vl).filter (fun e => decide (e < n))).map (fun e => (e, elt e)))).mark t (g &&& BitVec.ofNat 2048 (2 ^ n - 1))
  match cut with
  | some c => (s.putPart d a).stopInside c
  | none => s.finishV fs d a

/-- VMV (R192). -/
def execVmv (d a : Reg) (pg : BitVec 3) (s : State) : Out :=
  s.withVt (.vmv d a pg) (fun t s => s.withQueues (.vmv d a pg) [.v a] none (some d) (fun s =>
    let o := s.vop [.v a] 0 t.lmul t.w none
    s.moveAll t [.v a] d (s.h.guard pg) (fun e => moveElt t o s.predErr e)))

/-- VBCAST (R192). -/
def execVbcast (d b : Reg) (fm : BKind) (pg : BitVec 3) (s : State) : Out :=
  let i := Instr.vbcast d b fm pg
  s.withVt i (fun t s => s.withQueues i (bFld fm b) none (some d) (fun s =>
    let o := s.bop t (bFld fm b) 0 fm b none
    s.moveAll t (bFld fm b) d (s.h.guard pg) (fun e => moveElt t o s.predErr e)))

/-- VMERGE (R192): PG selects, and every element below vl is written and counts as active (log 57). -/
def execVmerge (d a b : Reg) (fm : BKind) (pg : BitVec 3) (s : State) : Out :=
  let i := Instr.vmerge d a b fm pg
  let fs : List Fld := .v a :: bFld fm b
  s.withVt i (fun t s => s.withQueues i fs none (some d) (fun s =>
    let oa := s.vop fs 0 t.lmul t.w none
    let ob := s.bop t fs 1 fm b none
    s.moveAll t fs d (BitVec.allOnes 2048) (fun e => moveElt t (if (s.h.guard pg).getLsbD e then ob else oa) s.predErr e)))

end Sys2Proof.Machine
end

