-- ==== Sys2Proof/Machine/Caravans.lean ====
section
/-! DEFINITION. Budgets, forced stops and saves of caravans (11_tasks R341 to R349, 12_system R364, R366, R369,
R370). -/

namespace Sys2Proof.Machine

/-! ### Traps that come first (R364) -/

/-- Whether the copy that a WAITD waits for is overdue at a time. -/
def State.overdueAt (s : State) (k : HartKey) (i : Instr) (now : Nat) : Bool :=
  match i with
  | .waitd a => (s.actAs k .A).h.eng.recs.any (fun r =>
      handleOf k r.2.seq == (s.hart k).readA a && !r.2.over && decide (now ≥ r.2.due))
  | _ => false

/-- Whether the trap of a wait of a hart's A side in U mode has come by a time: its limit has passed (R23, R272). -/
def State.waitDue (s : State) (k : HartKey) (now : Nat) : Bool :=
  !(s.hart k).tr.smode && s.able k .A &&
    (match (s.hart k).a.wait with
     | some w => w.queue.isNone &&
         ((match w.limit with | some l => decide (now ≥ w.since + l) | none => false) || s.overdueAt k w.instr now)
     | none => false)

/-- Whether the trap of a side's stall has come by a time (R135). -/
def State.stallDue (s : State) (k : HartKey) (sd : Side) (now : Nat) : Bool :=
  !(s.hart k).tr.smode && s.able k sd && ((s.hart k).stallOver now sd).isSome

/-- Whether some such trap of a hart has come by a time. -/
def State.trapDue (s : State) (k : HartKey) (now : Nat) : Bool :=
  s.waitDue k now || s.stallDue k .A now || s.stallDue k .X now

/-- When a caravan's budget reached 0, if it has. -/
def State.outOf (s : State) (k : HartKey) : Option Nat :=
  if (s.caravan k).budget = some 0 then some (s.caravan k).outAt else none

/-! ### Budget (R341, R349, R366) -/

/-- BUDGET_EXHAUSTED (R341, R349, R363, R364): TVAL is the time at which the budget reached 0. A trap whose limit had passed
by then is taken first. -/
def execBudgetExhausted (c : CarId) (s : State) : Out :=
  match kvGet s.cars c with
  | none => .next s
  | some v =>
    if (v.st == .running || v.st == .stopping) && v.budget == some 0 && s.allSettled c v &&
        !(carHarts c v.size).any (fun k => s.trapDue k v.outAt) then
      .next ((s.setCar c { v with st := .held, heldAt := s.now }).modHarts (carHarts c v.size)
        (fun h => h.abandon.report cBudget (word v.outAt) 0))
    else .next s

/-- BUDGET_EXTENSION (R366): a replacement of Slorraroth defers it (R398). -/
def execBudgetExtension (c : CarId) (s : State) : Out :=
  match kvGet s.cars c with
  | none => .next s
  | some v =>
    if v.st != .held || s.dev.repl.isSome || s.dev.warm.isSome then .next s
    else
      let sl := s.sliceNo v.slice
      let ctx := s.ctxNo sl.ctx
      if ctx.allow = 0 then .next (s.endSlice v.slice)
      else
        let n := min (sl.desc.budget.getD ctx.allow) ctx.allow
        let s1 := { s with ctxs := kvSet s.ctxs sl.ctx { ctx with allow := ctx.allow - n } }
        .next (s1.setCar c { v with st := if v.preqAt.isSome then .stopping else .running, budget := some n })

/-! ### Stops (R343, R345) -/

/-- Whether a side has stopped: at a stop, ended, or halted for debug (R373). -/
def Hart.sideStopped (h : Hart) (sd : Side) : Bool :=
  let q := h.seq sd
  q.stop.isSome || h.tr.halted ||
    (match sd with
     | .A => q.ended && !h.tr.smode
     | .X => q.ended)

/-- Whether both sides of a hart have stopped. -/
def Hart.stopped (h : Hart) : Bool := h.sideStopped .A && h.sideStopped .X

/-- FORCED_STOP (R222, R345): every hart whose grace has expired and that has not stopped, at its instruction boundary. A
trap whose limit had passed by then is taken first (R364). -/
def execForcedStop (c : CarId) (s : State) : Out :=
  match kvGet s.cars c with
  | none => .next s
  | some v =>
    match v.preqAt with
    | none => .next s
    | some t =>
      if v.st == .stopping && s.dev.warm.isNone then
        let late := fun (k : HartKey) => decide (s.now ≥ t + (s.hart k).grace) && !(s.hart k).stopped &&
          (s.hart k).mem.pendLoad.isNone && (s.hart k).mem.mid != some false && !s.trapDue k (t + (s.hart k).grace)
        let ks := (carHarts c v.size).filter late
        if ks.isEmpty then .next s
        else .next ((s.setCar c { v with forced := true }).modHarts ks (fun h => h.keepPart.preempt s.now))
      else .next s

/-! ### Saves (R346, R349) -/

/-- Whether a save waits for a command: one that writes a scratchpad of the caravan and has neither ended nor,
if a copy, reached its due date (R282, R293, R346). -/
def HRec.holdsSave (r : HRec) (now : Nat) : Bool := !r.over && r.intoSp && (!r.isCopy || decide (now < r.due))

/-- Whether the landings that a save waits for are over, and the commands that a release still waits for (R164). -/
def State.landed (s : State) (c : CarId) (v : Caravan) : Bool :=
  (carHarts c v.size).all (fun k => (s.running k (fun r => r.holdsSave s.now)).isEmpty &&
    (s.hart k).mem.pend.all (fun p => (s.hart k).overAll p.cmds))

/-- A hart as its image holds it: fenced, so every store is performed and every entry has arrived (R171). -/
def Hart.settle (h : Hart) : Hart :=
  let fix := fun (q : Seq) => { q with wait := none, stop := some (q.stop.getD (if q.ended then StopKind.ended else StopKind.boundary)) }
  { h with a := fix h.a, x := fix h.x, mem := { h.mem with pendLoad := none },
           q := { h.q with vload := h.q.vload.map (fun q => { q with items := q.items.map (fun e => { e with visible := true }) }) } }

/-- CARAVAN_SAVE (R346, R349): once every sequencer has stopped the caravan is SAVING; once the landings are
over, the harts are fenced and their images taken. -/
def execCaravanSave (c : CarId) (s : State) : Out :=
  match kvGet s.cars c with
  | none => .next s
  | some v =>
    let ks := carHarts c v.size
    if (v.st == .saving || (v.st == .stopping && ks.all (fun k => (s.hart k).stopped))) && !v.imaged && s.dev.warm.isNone then
      if s.landed c v then
        let s1 := ks.foldl (fun t k => t.drain k) s
        .next ((s1.setCar c { v with st := .saving, imaged := true }).modHarts ks Hart.settle)
      else .next (s.setCar c { v with st := .saving })
    else .next s

/-- SAVE_IMAGE_WRITTEN (R346, R349): the images stand in HBM, the cores are free, and the tag is bound to the image: the
hart's state stays under it, equal to the image, until the restore (log 21). -/
def execSaveImageWritten (c : CarId) (s : State) : Out :=
  match kvGet s.cars c with
  | none => .next s
  | some v =>
    if v.st == .saving && v.imaged && s.dev.warm.isNone then
      let w := { v with imageAt := s.now }
      let s1 := (carHarts c v.size).foldl State.writeImage (s.setCar c w)
      .next (((s1.freeCores c v).setCar c { w with st := .saved, cores := [], savedNo := s.own.order }).tick)
    else .next s

/-! ### Core errors and wear (R376, R382) -/

/-- The caravan on a core, and the hart that the core carries. -/
def State.onCore (s : State) (core : Nat) : Option (CarId × Caravan × HartKey) :=
  (s.cars.find? (fun p => p.2.cores.contains core)).map (fun p =>
    (p.1, p.2, ⟨p.1.die, p.1.slot, (p.2.cores.findIdx? (· == core)).getD 0⟩))

/-- A core leaves service for new work (R382). -/
def Core.drain (c : Core) : Core := if c.st = .retired then c else { c with st := .drained }

/-- CORE_ERROR (R376, R382). -/
def execCoreError (core : Nat) (s : State) : Out :=
  match s.onCore core with
  | none => .next s
  | some (_, v, k) =>
    .next (((s.modHart k Hart.forceStop).setCore core (s.coreNo core).drain).endSlice v.slice)

/-- A caravan on a core that has reached 100 % is pre-empted, whatever the deadlines (R382). -/
def State.evict (s : State) (core : Nat) : State :=
  match s.onCore core with
  | some (c, v, _) => if v.preqAt.isNone && (v.st == .running || v.st == .held) then s.raisePreq c v else s
  | none => s

/-- CORE_FUSE (R377, R382): once the core is free. -/
def execCoreFuse (core : Nat) (s : State) : Out :=
  let c := s.coreNo core
  if c.full && !s.coreHeld core then .next (s.setCore core { c with st := .retired, full := false }) else .next s

/-- OPERATOR_RETIRE_REQUEST (R382). -/
def execOperatorRetireRequest (core : Nat) (s : State) : Out :=
  let c := s.coreNo core
  if c.st == .drained && !s.coreHeld core then .next (s.setCore core { c with st := .retired, full := false }) else .next s

end Sys2Proof.Machine
end

