-- ==== Sys2Proof/Machine/Debug.lean ====
section
/-! DEFINITION. The debug block (12_system R371 to R373), and S-mode and supervisor writes of a hart's registers
(04_access R136, 03_scalar R109). -/

namespace Sys2Proof.Machine

/-! ### Debug events (R371 to R373) -/

/-- Act on the hart that a core carries. -/
def State.onHart (s : State) (core : Nat) (f : HartKey → State) : Out :=
  match s.onCore core with
  | some (_, _, k) => .next (f k)
  | none => .next s

/-- DBGCTL_HALTREQ (R371, R373). -/
def execDbgctlHaltreq (core : Nat) (s : State) : Out :=
  s.onHart core (fun k => if (s.hart k).tr.halted then s else s.requestHalt k)

/-- Whether every instruction that a hart has admitted has drained: its loads have arrived and its stores are
performed (R373). -/
def Hart.drained (h : Hart) : Bool :=
  h.calm .X && h.mem.pend.isEmpty && h.q.vload.toList.all (fun q => q.items.all (·.visible))

/-- HART_HALTED (R373). -/
def execHartHalted (core : Nat) (s : State) : Out :=
  s.onHart core (fun k => if (s.hart k).tr.haltreq && (s.hart k).drained then
      s.modHart k (fun h => { h.abandon with tr := { h.tr with haltreq := false, halted := true } }) else s)

/-- DBGCTL_RESUME (R371, R373). -/
def execDbgctlResume (core : Nat) (s : State) : Out := s.onHart core (fun k => s.resumeHart k)

/-- Remember what a read of a debug block returns. -/
def State.debugSees (s : State) (v : Nat) : State := { s with dev := { s.dev with dbgRead := word v } }

/-- DEBUG_BLOCK_ACCESS (R372): an 8-byte read, or a write of the value given. DBGCTL is reachable at all times,
everything else while HALTED is 1. With no hart on the core DBGCTL keeps what is written. -/
def execDebugBlockAccess (core off : Nat) (wr : Option Word) (s : State) : Out :=
  match s.onCore core, wr with
  | none, none => .next (s.debugSees (if off = 0x30000 then (s.coreNo core).dbg.toNat * 8 else 0))
  | none, some v => .next (if off = 0x30000 then s.setCore core { s.coreNo core with dbg := v.extractLsb' 3 5 } else s)
  | some (_, _, k), none =>
    if off % 8 = 0 ∧ off = 0x30000 then .next (s.debugSees (dbgctl (s.hart k).tr).toNat)
    else if off % 8 = 0 ∧ (s.hart k).tr.halted then .next (s.debugSees (s.imageRead k off))
    else .next (s.debugSees 0)
  | some (_, _, k), some v =>
    if off % 8 = 0 ∧ off = 0x30000 then .next (s.csrWrite k .A .dbgctl v)
    else if off % 8 = 0 ∧ (s.hart k).tr.halted then .next (s.imageWrite k off v)
    else .next s

/-! ### Writes of a hart's registers (R109, R136) -/

/-- QUEUE_INDEX_WORD_WRITE (R136): in S mode, or by a debugger while the hart is halted (R373). -/
def execQueueIndexWordWrite (k : HartKey) (code : Nat) (v : Word) (s : State) : Out :=
  if (kvGet s.harts k).isSome && ((s.hart k).tr.smode || (s.hart k).tr.halted) then .next (s.modHart k (fun h => h.writeIndex code v))
  else .next s

/-- STICKY_CLEAR (R109). -/
def execStickyClear (k : HartKey) (v : Word) (s : State) : Out :=
  if (kvGet s.harts k).isSome then .next (s.csrWrite k .A .sticky v) else .next s

end Sys2Proof.Machine
end

