-- ==== Sys2Proof/Machine/Memory.lean ====
section
/-! DEFINITION. The A-side memory instructions (04_access R113 to R132, 07_planes R212 to R222), the
scalar queues and the vector lengths of both sides (R118 to R123). -/

namespace Sys2Proof.Machine

/-! ### Scalar loads and stores (R113) -/

/-- LDB (R113, R114). -/
def execLdb (d a : Reg) (imm : BitVec 15) (s : State) : Out := s.scalarLoad (.ldb d a imm) d a imm 1 true

/-- LDBN (R113, R114). -/
def execLdbn (d a : Reg) (imm : BitVec 15) (s : State) : Out := s.scalarLoad (.ldbn d a imm) d a imm 1 false

/-- LDH (R113, R114). -/
def execLdh (d a : Reg) (imm : BitVec 15) (s : State) : Out := s.scalarLoad (.ldh d a imm) d a imm 2 true

/-- LDHN (R113, R114). -/
def execLdhn (d a : Reg) (imm : BitVec 15) (s : State) : Out := s.scalarLoad (.ldhn d a imm) d a imm 2 false

/-- LDW (R113, R114). -/
def execLdw (d a : Reg) (imm : BitVec 15) (s : State) : Out := s.scalarLoad (.ldw d a imm) d a imm 4 true

/-- LDWN (R113, R114). -/
def execLdwn (d a : Reg) (imm : BitVec 15) (s : State) : Out := s.scalarLoad (.ldwn d a imm) d a imm 4 false

/-- LDD (R113, R114). -/
def execLdd (d a : Reg) (imm : BitVec 15) (s : State) : Out := s.scalarLoad (.ldd d a imm) d a imm 8 false

/-- STB (R113, R114). -/
def execStb (d a : Reg) (imm : BitVec 15) (s : State) : Out := s.scalarStore (.stb d a imm) d a imm 1

/-- STH (R113, R114). -/
def execSth (d a : Reg) (imm : BitVec 15) (s : State) : Out := s.scalarStore (.sth d a imm) d a imm 2

/-- STW (R113, R114). -/
def execStw (d a : Reg) (imm : BitVec 15) (s : State) : Out := s.scalarStore (.stw d a imm) d a imm 4

/-- STD (R113, R114). -/
def execStd (d a : Reg) (imm : BitVec 15) (s : State) : Out := s.scalarStore (.std d a imm) d a imm 8

/-! ### SPTEST and SPCAST (R116, R117) -/

/-- SPTEST (R116). -/
def execSptest (d a : Reg) (s : State) : Out :=
  s.gate (.sptest d a) (fun s =>
    (s.modH (fun h => h.writeA d (word (winClass s s.own.cur (h.readA a))))).complete)

/-- The address of the other window for the same scratchpad byte; none where SPCAST raises WINDOW (R117). -/
def spcast (s : State) (k : HartKey) (g : Word) : Option Word :=
  if winClass s k g = 2 then some (word (0xF2 * 2 ^ 56 + gSlot g * 2 ^ 48 + gHartS g * 2 ^ 20 + gOff g))
  else if winClass s k g = 4 ∧ gHartC g = k.idx then
    some (word (0xF1 * 2 ^ 56 + gSlot g * 2 ^ 48 + gHartC g * 2 ^ 46 + gOff g))
  else none

/-- SPCAST (R117). -/
def execSpcast (d a : Reg) (s : State) : Out :=
  s.gate (.spcast d a) (fun s =>
    let g := s.h.readA a
    match spcast s s.own.cur g with
    | some v => (s.modH (fun h => h.writeA d v)).complete
    | none => s.raise cWindow g (word (winClass s s.own.cur g)))

/-! ### Scalar queues (R118) -/

/-- PUSHS (R118). -/
def execPushs (q a : Reg) (s : State) : Out :=
  s.gate (.pushs q a) (fun s =>
    let code := 0x20 + (qNo q).val
    if s.h.occ code ≥ Config.sqDepth then s.stall (.pushs q a) (code, true)
    else (s.modH (fun h => h.pushToX (qNo q) (h.readA a))).complete)

/-- POPS (R118). -/
def execPops (d q : Reg) (s : State) : Out :=
  s.gate (.pops d q) (fun s =>
    match (s.h.q.toA[qNo q]).items with
    | [] => s.stall (.pops d q) (0x30 + (qNo q).val, false)
    | v :: _ =>
      (s.modH (fun h => { h with q := { h.q with toA := h.q.toA.set (qNo q) ((h.q.toA[qNo q]).pop 1) } }.writeA d v)).complete)

/-! ### Vector lengths (R119 to R123) -/

/-- The advance of pointer `k` for a grant (R48, R119). -/
def stripStep (sz : Word) (vl k : Nat) : Word := word ((vl * (sz.extractLsb' (16 * k) 16).toNat + 1) / 2)

/-- Push a token. -/
def Hart.pushLen (h : Hart) (v : Word) : Hart :=
  { h with q := { h.q with len := { h.q.len with items := h.q.len.items ++ [v] } } }

/-- STRIP (R119). -/
def execStrip (d a b : Reg) (n : BitVec 3) (lmul : BitVec 2) (sew : Esz) (s : State) : Out :=
  let i := Instr.strip d a b n lmul sew
  s.gate i (fun s =>
    if s.h.occ 0x40 ≥ Config.sqDepth then s.stall i (0x40, true)
    else
      let av := s.h.readA a
      let vl := min av.toNat (s.vlmax sew.width (2 ^ lmul.toNat))
      (s.modH (fun h =>
        let h1 := (h.writeA d (word vl)).writeA a (av - word vl)
        let h2 := (List.range n.toNat).foldl (fun acc k =>
          acc.writeA (b + BitVec.ofNat 5 k) (h.readA (b + BitVec.ofNat 5 k) + stripStep h.csr.stripsz vl k)) h1
        { h2 with a := { h2.a with vl := vl } }.pushLen (word vl))).complete)

/-- SETVL (R120). -/
def execSetvl (d a : Reg) (s : State) : Out :=
  s.gate (.setvl d a) (fun s => s.withQueues (.setvl d a) [.s a] (some d) none (fun s =>
    let vl := match s.vt with
      | some t => min (s.fld [.s a] 0).toNat (s.vlmax t.w t.lmul)
      | none => 0
    (((s.popAll [.s a]).modH (fun h => { h with x := { h.x with vl := vl } })).writeR d (word vl)).complete))

/-- VLTAKE (R121). -/
def execVltake (d : Reg) (s : State) : Out :=
  s.gate (.vltake d) (fun s =>
    match s.h.q.len.items with
    | [] => s.stall (.vltake d) (0x40, false)
    | v :: _ => s.withQueues (.vltake d) [] (some d) none (fun s =>
      ((s.modH (fun h => { h with x := { h.x with vl := v.toNat }, q := { h.q with len := h.q.len.pop 1 } })).writeR d v).complete))

/-- The next address above `p` where the governing lease can change (R123). -/
def nextEdge (ls : List Lease) (p stop : Nat) : Nat :=
  ls.foldl (fun m l =>
    let m1 := if p < l.base ∧ l.base < m ∧ l.len ≠ 0 then l.base else m
    if p < l.base + l.len ∧ l.base + l.len < m1 ∧ l.len ≠ 0 then l.base + l.len else m1) stop

/-- The governing leases of a range, segment by segment; none where no lease covers (R123). -/
def governing (ls : List Lease) (stop : Nat) : Nat → Nat → List (Option (Nat × Lease))
  | 0, _ => []
  | fuel + 1, p => if p ≥ stop then [] else leaseAt ls p :: governing ls stop fuel (nextEdge ls p stop)

/-- LCHK's word for a class 0 range (R123). FIRST where no lease governs the first byte is a free value
(log 31). -/
def lchkGlobal (ls : List Lease) (va n free : Nat) : Nat :=
  let segs := governing ls (min (va + n) (2 ^ 56)) (2 * ls.length + 1) va
  let used := segs.filterMap id
  let bare := segs.any (·.isNone) || decide (va + n > 2 ^ 56)
  let first := match leaseAt ls va with
    | some (k, _) => k
    | none => (Config.freeByte free).toNat % 16
  let f (b : Bool) (v : Nat) : Nat := if b then v else 0
  f bare 0x8000 + 256 * first + f (used.any (fun u => used.any (fun v => u.1 != v.1))) 0x20 + f (used.any (·.2.rd)) 0x10 +
    f (used.any (·.2.sc)) 8 + f (used.any (·.2.ns)) 4 + f (!bare && used.all (·.2.w)) 2 + f (!bare && used.all (·.2.r)) 1

/-- LCHK's word (R123). -/
def State.lchk (s : State) (k : HartKey) (a b : Word) : Nat :=
  if b = 0 then 0
  else
    match winClass s k a with
    | 0 => lchkGlobal (s.hart k).mem.leases (gVa a) b.toNat s.own.free
    | 1 => if gPriv a + b.toNat ≤ (s.hart k).mem.privSize then 0x4003 else 0x8000
    | 2 => if gOff a + b.toNat ≤ s.spLimit k then 0x4003 else 0x8000
    | 4 => if gOff a + b.toNat ≤ s.spLimit k then 0x4003 else 0x8000
    | _ => 0x8000

/-- LCHK (R123). -/
def execLchk (d a b : Reg) (s : State) : Out :=
  s.gate (.lchk d a b) (fun s =>
    (s.modH (fun h => h.writeA d (word (s.lchk s.own.cur (h.readA a) (h.readA b))))).complete)

/-! ### Vector loads (R124 to R132) -/

/-- The value of a single-piece element. -/
def one (vs : List Nat) : Nat := vs.headD 0

/-- The one array that an access of unit stride moves (R152). -/
def State.unitRun (s : State) (b : Reg) (w : Nat) : Runs := [(s.h.readA b, w)]

/-- The array that a strided access moves when its stride is the element size (R152). -/
def State.strideRun (s : State) (b r : Reg) (w : Nat) : Runs := if s.h.readA r = word (elemUnit w) then s.unitRun b w else []

/-- The arrays that a plane access moves, one to a plane (R218). -/
def State.planeRuns (s : State) (b r : Reg) (wp : Nat → Nat) (last : Nat) : Runs :=
  (List.range (last + 1)).map (fun (p : Nat) => (s.h.readA b + BitVec.ofInt 64 ((p : Int) * (s.h.readA r).toInt), wp p))

/-- VLD (R127). -/
def execVld (q b : Reg) (acq nt : Bool) (e : Esz) (s : State) : Out :=
  s.gate (.vld q b acq nt e) (fun s =>
    s.vload (.vld q b acq nt e) (qNo q) e.width s.h.a.vl { LoadForm.plain with runs := s.unitRun b e.width }
      (s.eltUnit b e.width) one State.finishAccess)

/-- VLDS (R127). -/
def execVlds (q b r : Reg) (acq nt : Bool) (e : Esz) (s : State) : Out :=
  s.gate (.vlds q b r acq nt e) (fun s =>
    s.vload (.vlds q b r acq nt e) (qNo q) e.width s.h.a.vl { LoadForm.plain with runs := s.strideRun b r e.width }
      (s.eltStride b r e.width) one State.finishAccess)

/-- VLDX (R127 to R129). With DEDUP all elements are read together, so that equal addresses give one value. -/
def execVldx (q b x : Reg) (acq nt dedup : Bool) (e : Esz) (s : State) : Out :=
  let i := Instr.vldx q b x acq nt dedup e
  s.gate i (fun s => s.withIndex i x (fun s ents =>
    s.vload i (qNo q) e.width s.h.a.vl { LoadForm.plain with list := s.listPlaces x, once := dedup }
      (s.eltIndex b x ents e.width false) one (fun t => t.finishIndexed x)))

/-- Whether VLDFF stops at element `e` > 0 (R131). -/
def State.ffStops (s : State) (b : Reg) (w e : Nat) : Bool :=
  match s.checkElt needR e (s.eltUnit b w e), s.eltUnit b w e, s.eltUnit b w (e - 1) with
  | .ok ps, .pieces (p :: _), .pieces (p0 :: _) => ps.any (fun x => x.1.ns) && p.g.toNat / 0x10000 != p0.g.toNat / 0x10000
  | .ok _, _, _ => false
  | .error _, _, _ => true

/-- The length VLDFF grants (R131). -/
def State.ffLength (s : State) (b : Reg) (w : Nat) : Nat :=
  let lo := max 1 s.h.a.vstart
  ((List.range' lo (s.h.a.vl - lo)).find? (fun e => s.ffStops b w e)).getD s.h.a.vl

/-- VLDFF (R131). -/
def execVldff (q b : Reg) (acq nt : Bool) (e : Esz) (s : State) : Out :=
  let i := Instr.vldff q b acq nt e
  s.gate i (fun s =>
    if s.h.occ 0x40 ≥ Config.sqDepth then s.stall i (0x40, true)
    else
      let n := s.ffLength b e.width
      s.vload i (qNo q) e.width n { LoadForm.plain with runs := s.unitRun b e.width } (s.eltUnit b e.width) one (fun t =>
        (t.modH (fun h => { h with a := { h.a with vl := n } }.pushLen (word n))).finishAccess))

/-- Round a k-plane value on plane k (R215). -/
def roundPlane (f : Fam) (k x g : Nat) : Nat :=
  let w := f.width
  let fmt := match f with | .e8 => fmt32 | .e11 => fmt64
  if x % 2 ^ (w - 1) / 2 ^ fmt.fb = 2 ^ fmt.eb - 1 then x
  else if g / 2 ^ (f.planeWidth k - 1) % 2 = 1 then x + 2 ^ f.lo (k - 1)
  else x

/-- The element VLDP delivers from its pieces (R214). -/
def joinPlanes (f : Fam) (k : Nat) (rnd : Bool) (vs : List Nat) : Nat :=
  let x := (List.range k).foldl (fun acc p => acc + vs.getD p 0 * 2 ^ f.lo p) 0
  if rnd then roundPlane f k x (vs.getD k 0) else x

/-- VLDP (R212 to R215). With ACQ all elements are read together (R219); a forced stop may come at an element
(R222). -/
def execVldp (q b r : Reg) (pl : BitVec 2) (acq nt rnd : Bool) (fam : Fam) (s : State) : Out :=
  let i := Instr.vldp q b r pl acq nt rnd fam
  s.gate i (fun s =>
    let k := pl.toNat + 1
    let last := if rnd then k else k - 1
    s.vload i (qNo q) fam.width s.h.a.vl ⟨s.planeRuns b r fam.planeWidth last, fun _ => [], acq, true⟩
      (s.eltPlanes b r fam.planeWidth last) (joinPlanes fam k rnd) State.finishAccess)

/-! ### Vector stores (R124 to R130) -/

/-- A single-piece element's value. -/
def whole1 (v : Nat) (_psn : Bool) : List Nat := [v]

/-- VST (R127). -/
def execVst (q b : Reg) (rel nt : Bool) (e : Esz) (s : State) : Out :=
  s.gate (.vst q b rel nt e) (fun s =>
    s.vstore (.vst q b rel nt e) (qNo q) e.width s.h.a.vl { StoreForm.plain rel with runs := s.unitRun b e.width }
      (s.eltUnit b e.width) whole1)

/-- VSTS (R127). -/
def execVsts (q b r : Reg) (rel nt : Bool) (e : Esz) (s : State) : Out :=
  s.gate (.vsts q b r rel nt e) (fun s =>
    s.vstore (.vsts q b r rel nt e) (qNo q) e.width s.h.a.vl { StoreForm.plain rel with runs := s.strideRun b r e.width }
      (s.eltStride b r e.width) whole1)

/-- VSTX (R127, R128). -/
def execVstx (q b x : Reg) (rel nt : Bool) (e : Esz) (s : State) : Out :=
  let i := Instr.vstx q b x rel nt e
  s.gate i (fun s => s.withIndex i x (fun s ents =>
    s.vstore i (qNo q) e.width s.h.a.vl { StoreForm.plain rel with list := s.listPlaces x, fin := fun t => t.finishIndexed x }
      (s.eltIndex b x ents e.width true) whole1))

/-- VSTXADD (R130). -/
def execVstxadd (q b x : Reg) (rel nt fp : Bool) (e : Esz) (s : State) : Out :=
  let i := Instr.vstxadd q b x rel nt fp e
  s.gate i (fun s => s.withIndex i x (fun s ents =>
    s.vstore i (qNo q) e.width s.h.a.vl { StoreForm.plain rel with
        need := needRW, kind := .add fp, list := s.listPlaces x, fin := fun t => t.finishIndexed x }
      (s.eltIndex b x ents e.width true) whole1))

/-- The pieces VSTP writes of an element: planes below `k` of it, and zero above (R216). -/
def splitPlanes (f : Fam) (k top : Nat) (v : Nat) (psn : Bool) : List Nat :=
  let fmt := match f with | .e8 => fmt32 | .e11 => fmt64
  let x := if psn then fmt.poison else if (fmt.dec v).isNan then fmt.nan else v
  (List.range (top + 1)).map (fun p => if p < k then x / 2 ^ f.lo p % 2 ^ f.planeWidth p else 0)

/-- VSTP (R212, R213, R216). -/
def execVstp (q b r : Reg) (pl : BitVec 2) (rel nt zlow : Bool) (fam : Fam) (s : State) : Out :=
  let i := Instr.vstp q b r pl rel nt zlow fam
  s.gate i (fun s =>
    let k := pl.toNat + 1
    let top := if zlow then fam.planes - 1 else k - 1
    s.vstore i (qNo q) fam.width s.h.a.vl { StoreForm.plain rel with runs := s.planeRuns b r fam.planeWidth top, top := top, elem := true }
      (s.eltPlanes b r fam.planeWidth top) (splitPlanes fam k top))

end Sys2Proof.Machine
end

