-- ==== Sys2Proof/Machine/Permute.lean ====
section
/-! DEFINITION. Slides, permutes, VEXTR, VINS and VIOTA (06_vector R193, R194), reductions and scans
(R195 to R198), predicates (R200) and PSM (R207). -/

namespace Sys2Proof.Machine

/-! ### Moves that read everything first (R193) -/

/-- The field of a slide's count. -/
def kFld (fm : BKind) (k : Reg) : List Fld :=
  match fm with
  | .scal => [.s k]
  | _ => []

/-- The count k, whose field is number `i`. -/
def State.kVal (s : State) (fs : List Fld) (i : Nat) (fm : BKind) (k : Reg) : Nat :=
  match fm with
  | .scal => (s.fld fs i).toNat
  | _ => k.toNat

/-- The active elements below vl, VSTART ignored. -/
def State.actives (s : State) (pg : BitVec 3) (vl : Nat) : List Nat :=
  (List.range vl).filter (fun e => (s.h.guard pg).getLsbD e)

/-- Write moved elements to d and complete; `act` are the active elements, which mark a pushed entry (R185). -/
def State.finishMoves (s : State) (t : VType) (fs : List Fld) (d : Reg) (act : PReg) (xs : List (Nat × Nat × Bool)) : Out :=
  s.finishV fs d ((putMoves t (s.vstartAcc d t.lmul false) xs).mark t act)

/-- VSLIDEUP (R193). -/
def execVslideup (d a k : Reg) (fm : BKind) (pg : BitVec 3) (s : State) : Out :=
  let i := Instr.vslideup d a k fm pg
  let fs : List Fld := .v a :: kFld fm k
  s.withVt i (fun t s => s.withQueues i fs none (some d) (fun s =>
    let o := s.vop fs 0 t.lmul t.w none
    let n := s.kVal fs 1 fm k
    s.finishMoves t fs d (s.actMask pg (s.vlen t)) (((s.actives pg (s.vlen t)).filter (fun e => decide (n ≤ e))).map
      (fun e => (e, moveElt t o s.predErr (e - n))))))

/-- VSLIDEDN (R193). -/
def execVslidedn (d a k : Reg) (fm : BKind) (pg : BitVec 3) (s : State) : Out :=
  let i := Instr.vslidedn d a k fm pg
  let fs : List Fld := .v a :: kFld fm k
  s.withVt i (fun t s => s.withQueues i fs none (some d) (fun s =>
    let o := s.vop fs 0 t.lmul t.w none
    let n := s.kVal fs 1 fm k
    let vl := s.vlen t
    s.finishMoves t fs d (s.actMask pg vl) ((s.actives pg vl).map
      (fun e => (e, if e + n < vl then moveElt t o s.predErr (e + n)
                    else if s.predErr then (t.psn, true) else (0, false))))))

/-- VPERM (R193): a poisoned index gives the poison result. An index is read as a natural number, so the poison payload of
a floating-point kind does not make it a poisoned index (log 78). -/
def execVperm (d a b : Reg) (pg : BitVec 3) (s : State) : Out :=
  let i := Instr.vperm d a b pg
  let fs : List Fld := [.v a, .v b]
  s.withVt i (fun t s => s.withQueues i fs none (some d) (fun s =>
    let o := s.vop fs 0 t.lmul t.w none
    let ix := s.vop fs 1 t.lmul t.w none
    let vl := s.vlen t
    s.finishMoves t fs d (s.actMask pg vl) ((s.actives pg vl).map
      (fun e => (e, if s.predErr || ix.psn e then (t.psn, true)
                    else if ix.val e < vl then moveElt t o false (ix.val e) else (0, false))))))

/-- VCOMP (R193). -/
def execVcomp (d a : Reg) (pg : BitVec 3) (s : State) : Out :=
  s.withVt (.vcomp d a pg) (fun t s => s.withQueues (.vcomp d a pg) [.v a] none (some d) (fun s =>
    let o := s.vop [.v a] 0 t.lmul t.w none
    s.finishMoves t [.v a] d (s.actMask pg (s.vlen t)) ((s.actives pg (s.vlen t)).zipIdx.map (fun ej => (ej.2, moveElt t o s.predErr ej.1)))))

/-- VEXPD (R193). -/
def execVexpd (d a : Reg) (pg : BitVec 3) (s : State) : Out :=
  s.withVt (.vexpd d a pg) (fun t s => s.withQueues (.vexpd d a pg) [.v a] none (some d) (fun s =>
    let o := s.vop [.v a] 0 t.lmul t.w none
    s.finishMoves t [.v a] d (s.actMask pg (s.vlen t)) ((s.actives pg (s.vlen t)).zipIdx.map (fun ej => (ej.1, moveElt t o s.predErr ej.2)))))

/-- VIOTA (R193): every element below vl is written and counts as active (log 57). -/
def execViota (d : Reg) (pg : BitVec 3) (s : State) : Out :=
  s.withVt (.viota d pg) (fun t s => s.withQueues (.viota d pg) [] none (some d) (fun s =>
    s.finishMoves t [] d (BitVec.ofNat 2048 (2 ^ s.vlen t - 1)) ((List.range (s.vlen t)).map (fun e =>
      (e, if s.predErr then (t.psn, true)
          else ((List.range e).countP (fun x => (s.h.guard pg).getLsbD x) % 2 ^ t.w, false))))))

/-- An element as an s register receives it (R194, R198). -/
def VType.toS (t : VType) (v : Nat) : Word := if t.kind = .int then word ((BitVec.ofNat t.w v).signExtend 64).toNat else word v

/-- VEXTR (R194). -/
def execVextr (d a k : Reg) (fm : BKind) (s : State) : Out :=
  let i := Instr.vextr d a k fm
  let fs : List Fld := .v a :: kFld fm k
  s.withVt i (fun t s => s.withQueues i fs (some d) none (fun s =>
    let o := s.vop fs 0 t.lmul t.w (if t.fp then some t.fmt else none)
    let n := s.kVal fs 1 fm k
    if n < s.vlen t then
      if o.psn n then s.trapV ⟨cPoison, word n, 2⟩
      else s.finishS fs d (t.toS (o.val n)) s.h.regs.psm 0
    else s.finishS fs d 0 s.h.regs.psm 0))

/-- VINS (R194). The scalar is written bit for bit, a poison payload included, and PSM stays as it
is: the model's choice (log 56). -/
def execVins (d a k : Reg) (fm : BKind) (s : State) : Out :=
  let i := Instr.vins d a k fm
  let fs : List Fld := .s a :: kFld fm k
  s.withVt i (fun t s => s.withQueues i fs none (some d) (fun s =>
    let n := s.kVal fs 1 fm k
    let v := (s.fld fs 0).toNat % 2 ^ t.w
    let acc := s.vstartAcc d t.lmul false
    s.finishV fs d ((if n < s.vlen t then acc.put t.w n v false 0 (t.entryPsn v) else acc).mark t
      (BitVec.ofNat 2048 (2 ^ s.vlen t - 1)))))

/-! ### Reductions and scans (R195 to R198) -/

/-- One active element as a reduction reads it: index, value, whether poisoned (R198). -/
abbrev RElt := Nat × Nat × Bool

/-- The active elements of a reduction; a poisoned one stands as the poison NaN on floating-point kinds. -/
def State.redElts (s : State) (t : VType) (pg : BitVec 3) (a : Reg) : List RElt :=
  let o := s.vop [.v a] 0 t.lmul t.w (if t.fp then some t.fmt else none)
  (s.actives pg (s.vlen t)).map (fun e =>
    let p := s.predErr || o.psn e
    (e, if p then t.psn else o.val e, p))

/-- The add of a reduction (R195). -/
def VType.radd (t : VType) (rm : RM) (x y : Nat) : FRes :=
  if t.fp then t.fmt.add (t.vectorRm rm) x y else (t.sati (t.int x + t.int y), 0)

/-- Add in element order: after each element its index, the sum so far, the flags so far, and whether an
add was made there (R195). -/
def foldAdds (t : VType) (rm : RM) : List RElt → Option Nat → Nat → List (Nat × Nat × Nat × Bool)
  | [], _, _ => []
  | x :: rest, none, fl => (x.1, x.2.1, fl, false) :: foldAdds t rm rest (some x.2.1) fl
  | x :: rest, some acc, fl =>
    let r := t.radd rm acc x.2.1
    (x.1, r.1, fl ||| r.2, true) :: foldAdds t rm rest (some r.1) (fl ||| r.2)

/-- One level of the tree: the surviving values with their indices, and the adds made (R196). An add stands at the index
of its right operand (log 79). -/
def treeLevel (t : VType) (rm : RM) : List (Option (Nat × Nat)) → List (Option (Nat × Nat)) × List (Nat × Nat × Nat)
  | x :: y :: rest =>
    let r := treeLevel t rm rest
    match x, y with
    | some p, some q =>
      let v := t.radd rm p.2 q.2
      (some (q.1, v.1) :: r.1, (q.1, v.1, v.2) :: r.2)
    | some p, none => (some p :: r.1, r.2)
    | none, q => (q :: r.1, r.2)
  | xs => (xs, [])

/-- Levels of the tree until one value remains. -/
def treeAdds (t : VType) (rm : RM) : Nat → List (Option (Nat × Nat)) → List (Nat × Nat × Nat) → Option Nat × List (Nat × Nat × Nat)
  | 0, xs, log => (((xs.headD none).map (·.2)), log)
  | n + 1, xs, log =>
    let r := treeLevel t rm xs
    treeAdds t rm n r.1 (log ++ r.2)

/-- The binary tree over element indices below the least power of two not below vl (R196). -/
def treeSum (t : VType) (rm : RM) (vl : Nat) (xs : List RElt) : Option Nat × List (Nat × Nat × Nat) :=
  let levels := if vl ≤ 1 then 0 else Nat.log2 (vl - 1) + 1
  let leaf (i : Nat) : Option (Nat × Nat) := (xs.find? (fun x => x.1 == i)).map (fun x => (i, x.2.1))
  treeAdds t rm levels ((List.range (2 ^ levels)).map leaf) []

/-- The maximum or minimum of the active elements, from the first of them on (R197; log 80). -/
def redExt (t : VType) (mx : Bool) : List RElt → Option Nat → Nat → Option Nat × Nat
  | [], acc, fl => (acc, fl)
  | x :: rest, none, fl => redExt t mx rest (some x.2.1) fl
  | x :: rest, some acc, fl =>
    if t.fp then
      let r := t.fmt.minmax mx acc x.2.1
      redExt t mx rest (some r.1) (fl ||| r.2)
    else redExt t mx rest (some (if (decide (t.int x.2.1 > t.int acc)) == mx && t.int x.2.1 != t.int acc then x.2.1 else acc)) fl

/-- The identity of VREDMAX and VREDMIN (R197). -/
def VType.identity (t : VType) (mx : Bool) : Nat :=
  if t.fp then t.fmt.sgn mx + t.fmt.infCode
  else if mx then t.low t.range.1 else t.low t.range.2

/-- PSM with the poisoned elements set (R198). -/
def redPsm (psm : PReg) (xs : List RElt) : PReg := xs.foldl (fun m x => if x.2.2 then setBit m x.1 true else m) psm

/-- A reduction: on integer kinds a poisoned element raises POISON, but not in VSCAN (`raises`); else `f` gives the
result (R198). -/
def State.reduce (s : State) (i : Instr) (a : Reg) (pg : BitVec 3) (dest : Option Reg) (vdest : Option Reg) (raises : Bool)
    (f : VType → List RElt → State → Out) : Out :=
  s.withVt i (fun t s => s.withQueues i [.v a] dest vdest (fun s =>
    let xs := s.redElts t pg a
    match (if t.fp || !raises then none else xs.find? (·.2.2)) with
    | some x => s.trapV ⟨cPoison, word x.1, 2⟩
    | none => f t xs s))

/-- The add whose shadow diverges in this turn, as its element index and its result (R201). -/
def State.addUpset (s : State) (t : VType) (adds : List (Nat × Nat)) : Option (Nat × Nat) :=
  match (if t.fp then s.shadowAt else none) with
  | some p => adds.find? (fun q => q.1 == p.1 && t.fmt.diverges q.2 p.2)
  | none => none

/-- A reduction that diverges re-executes in full (R202). -/
def State.trapShadow (s : State) (t : VType) (p : Nat × Nat) : Out :=
  let (s1, tr) := s.diverge t.w p.1 p.2
  s1.trapV tr

/-- VREDSUM (R195, R198). -/
def execVredsum (d a : Reg) (pg : BitVec 3) (rm : RM) (s : State) : Out :=
  s.reduce (.vredsum d a pg rm) a pg (some d) none true (fun t xs s =>
    let ys := foldAdds t rm xs none 0
    match s.addUpset t ((ys.filter (·.2.2.2)).map (fun y => (y.1, y.2.1))) with
    | some p => s.trapShadow t p
    | none =>
      match ys.getLast? with
      | some y => s.finishS [.v a] d (t.toS y.2.1) (redPsm s.h.regs.psm xs) y.2.2.1
      | none => s.finishS [.v a] d 0 s.h.regs.psm 0)

/-- VREDTREE (R196, R198). -/
def execVredtree (d a : Reg) (pg : BitVec 3) (rm : RM) (s : State) : Out :=
  s.reduce (.vredtree d a pg rm) a pg (some d) none true (fun t xs s =>
    let r := treeSum t rm (s.vlen t) xs
    match s.addUpset t (r.2.map (fun y => (y.1, y.2.1))) with
    | some p => s.trapShadow t p
    | none => s.finishS [.v a] d (t.toS (r.1.getD 0)) (redPsm s.h.regs.psm xs) (r.2.foldl (fun fl y => fl ||| y.2.2) 0))

/-- VREDMAX and VREDMIN (R197, R198). -/
def State.redMinMax (s : State) (i : Instr) (d a : Reg) (pg : BitVec 3) (mx : Bool) : Out :=
  s.reduce i a pg (some d) none true (fun t xs s =>
    let r := redExt t mx xs none 0
    let v := if xs.any (·.2.2) then t.psn else r.1.getD (t.identity mx)
    s.finishS [.v a] d (t.toS v) (redPsm s.h.regs.psm xs) r.2)

/-- VREDMAX (R197). -/
def execVredmax (d a : Reg) (pg : BitVec 3) (s : State) : Out := s.redMinMax (.vredmax d a pg) d a pg true

/-- VREDMIN (R197). -/
def execVredmin (d a : Reg) (pg : BitVec 3) (s : State) : Out := s.redMinMax (.vredmin d a pg) d a pg false

/-- VSCAN (R195, R198): from the first poisoned element on, every active element receives the poison result. -/
def execVscan (d a : Reg) (pg : BitVec 3) (rm : RM) (s : State) : Out :=
  s.reduce (.vscan d a pg rm) a pg none (some d) false (fun t xs s =>
    let ys := foldAdds t rm xs none 0
    match s.addUpset t ((ys.filter (·.2.2.2)).map (fun y => (y.1, y.2.1))) with
    | some p => s.trapShadow t p
    | none =>
      let a0 := { s.vstartAcc d t.lmul false with psm := redPsm s.h.regs.psm xs }
      let fl := match ys.getLast? with | some y => y.2.2.1 | none => 0
      let zs := ys.map (fun y => (y.1, if !t.fp && xs.any (fun x => x.2.2 && decide (x.1 ≤ y.1)) then 0 else y.2.1))
      s.finishV [.v a] d ((zs.foldl (fun acc z => acc.put t.w z.1 z.2 false fl (t.entryPsn z.2)) a0).mark t (s.actMask pg (s.vlen t))))

/-! ### Predicates (R200) -/

/-- A predicate register as an instruction of OP 0x70 reads it: an uncorrectable error poisons the elements
below X.VL, whose bits read 0 (R205). -/
def State.predOperand (s : State) (p : BitVec 6) : PReg :=
  if s.predErr then s.h.readP p &&& ~~~(BitVec.ofNat 2048 (2 ^ s.h.x.vl - 1)) else s.h.readP p

/-- PSM after such a read. -/
def State.predPsm (s : State) : PReg :=
  if s.predErr then s.h.regs.psm ||| BitVec.ofNat 2048 (2 ^ s.h.x.vl - 1) else s.h.regs.psm

/-- pd := v (R200). -/
def State.plogic (s : State) (i : Instr) (d : BitVec 6) (v : State → PReg) : Out :=
  s.gate i (fun s => (s.modH (fun h => (h.writeP d (v s)).setPsm s.predPsm)).complete)

/-- sd := v (R200). -/
def State.pscalar (s : State) (i : Instr) (d : BitVec 6) (v : State → Word) : Out :=
  s.gate i (fun s => s.withQueues i [] (some (d.setWidth 5)) none (fun s =>
    ((s.modH (fun h => h.setPsm s.predPsm)).writeR (d.setWidth 5) (v s)).complete))

/-- PAND (R200). -/
def execPand (d a b : BitVec 6) (s : State) : Out :=
  s.plogic (.pand d a b) d (fun s => s.predOperand a &&& s.predOperand b)

/-- POR (R200). -/
def execPor (d a b : BitVec 6) (s : State) : Out :=
  s.plogic (.por d a b) d (fun s => s.predOperand a ||| s.predOperand b)

/-- PXOR (R200). -/
def execPxor (d a b : BitVec 6) (s : State) : Out :=
  s.plogic (.pxor d a b) d (fun s => s.predOperand a ^^^ s.predOperand b)

/-- The bits a logic row writes below X.VL when its read meets an error: 0 (R205). -/
def State.clearErr (s : State) (v : PReg) : PReg :=
  if s.predErr then v &&& ~~~(BitVec.ofNat 2048 (2 ^ s.h.x.vl - 1)) else v

/-- PANDN (R200). -/
def execPandn (d a b : BitVec 6) (s : State) : Out :=
  s.plogic (.pandn d a b) d (fun s => s.clearErr (s.h.readP a &&& ~~~(s.h.readP b)))

/-- PNOT (R200). -/
def execPnot (d a : BitVec 6) (s : State) : Out := s.plogic (.pnot d a) d (fun s => s.clearErr (~~~(s.h.readP a)))

/-- PCNT (R200). -/
def execPcnt (d a : BitVec 6) (s : State) : Out :=
  s.pscalar (.pcnt d a) d (fun s => word ((List.range s.h.x.vl).countP (fun e => (s.predOperand a).getLsbD e)))

/-- PFIRST (R200). -/
def execPfirst (d a : BitVec 6) (s : State) : Out :=
  s.pscalar (.pfirst d a) d (fun s =>
    match (List.range s.h.x.vl).find? (fun e => (s.predOperand a).getLsbD e) with
    | some e => word e
    | none => BitVec.allOnes 64)

/-- PSET (R200). -/
def execPset (d : BitVec 6) (s : State) : Out :=
  s.gate (.pset d) (fun s => (s.modH (fun h => h.writeP d (BitVec.allOnes 2048))).complete)

/-- PCLR (R200). -/
def execPclr (d : BitVec 6) (s : State) : Out :=
  s.gate (.pclr d) (fun s => (s.modH (fun h => h.writeP d 0)).complete)

/-- PMOV (R200). -/
def execPmov (d a : BitVec 6) (s : State) : Out := s.plogic (.pmov d a) d (fun s => s.predOperand a)

/-! ### PSM (R207) -/

/-- PSNGET (R207). -/
def execPsnget (d : Reg) (s : State) : Out :=
  s.gate (.psnget d) (fun s => (s.modH (fun h => h.writeP (d.zeroExtend 6) h.regs.psm)).complete)

/-- PSNCLR (R207). -/
def execPsnclr (s : State) : Out := s.gate .psnclr (fun s => (s.modH (fun h => h.setPsm 0)).complete)

end Sys2Proof.Machine
end

