-- ==== Sys2Proof/Machine/Planes.lean ====
section
/-! DEFINITION. Plane operations on registers (07_planes R223 to R225), MX quantisation (R227 to R230),
narrow accumulation and the fused optimiser steps (R231 to R235). -/

namespace Sys2Proof.Machine

/-! ### Plane operations (R223 to R225) -/

/-- The element format of a family. -/
def famFmt (f : Fam) : FFmt :=
  match f with
  | .e8 => fmt32
  | .e11 => fmt64

/-- The element type a plane operation works in: the family's, at VT's LMUL (R223). -/
def planeVt (f : Fam) (t : VType) : VType := { t with kind := .ieee, w := f.width }

/-- canon(x) (R224). -/
def canon (f : FFmt) (x : Nat) : Nat := if (f.dec x).isPsn then f.poison else if (f.dec x).isNan then f.nan else x

/-- Plane `p` of a pattern. -/
def planeOf (f : Fam) (p x : Nat) : Nat := x / 2 ^ f.lo p % 2 ^ f.planeWidth p

/-- A pattern with plane `p` replaced. -/
def setPlane (f : Fam) (p x v : Nat) : Nat := x - planeOf f p x * 2 ^ f.lo p + v % 2 ^ f.planeWidth p * 2 ^ f.lo p

/-- A pattern with the bits below its first `c` planes cleared. -/
def truncPlanes (f : Fam) (c x : Nat) : Nat := x / 2 ^ f.lo (c - 1) * 2 ^ f.lo (c - 1)

/-- VPRND's value and flags for x = canon(a(e)) (R224). -/
def prnd (f : Fam) (c x : Nat) : FRes :=
  let r := roundPlane f c (truncPlanes f c x) (planeOf f c x)
  let fin (v : Nat) : Bool := match (famFmt f).dec v with | .fin .. => true | _ => false
  (r, (if x % 2 ^ f.lo (c - 1) ≠ 0 ∧ fin x then 1 else 0) ||| (if fin x && !fin r then 5 else 0))

/-- The loop of R224: each active element's result, at destination width `wd` in `n` registers. `own` is
the value a poisoned element gives; `payload` tells whether a result's own poison payload marks a pushed
entry (R225). -/
def State.planeOp (s : State) (f : Fam) (t : VType) (fs : List Fld) (d : Reg) (pg : BitVec 3) (wd n : Nat)
    (srcs : List Opnd) (own : Nat) (payload : Bool) (op : List Nat → FRes) : Out :=
  s.finishV fs d ((s.actives pg (s.vlen t)).foldl (fun a e =>
    let p := s.predErr || srcs.any (fun o => o.psn e)
    let r : FRes := if p then (own, 0) else op (srcs.map (fun o => o.val e))
    a.put wd e r.1 p r.2 (p || (payload && ((famFmt f).dec r.1).isPsn))) { s.vstartAcc d n false with pred := s.actMask pg (s.vlen t) })

/-- VPSPLIT (R224). -/
def execVpsplit (d a : Reg) (pg : BitVec 3) (fam : Fam) (n : BitVec 2) (s : State) : Out :=
  s.withVt (.vpsplit d a pg fam n) (fun t0 s => s.withQueues (.vpsplit d a pg fam n) [.v a] none (some d) (fun s =>
    let t := planeVt fam t0
    let wp := fam.planeWidth n.toNat
    s.planeOp fam t [.v a] d pg wp (sideGroup t.lmul wp t.w) [s.vop [.v a] 0 t.lmul t.w (some t.fmt)]
      (planeOf fam n.toNat (famFmt fam).poison) false
      (fun v => (planeOf fam n.toNat (canon (famFmt fam) (v.getD 0 0)), 0))))

/-- VPJOIN (R224): d is also read. -/
def execVpjoin (d a : Reg) (pg : BitVec 3) (fam : Fam) (n : BitVec 2) (s : State) : Out :=
  let fs : List Fld := [.v a, .v d]
  s.withVt (.vpjoin d a pg fam n) (fun t0 s => s.withQueues (.vpjoin d a pg fam n) fs none (some d) (fun s =>
    let t := planeVt fam t0
    let wp := fam.planeWidth n.toNat
    s.planeOp fam t fs d pg t.w t.lmul
      [s.vop fs 0 (sideGroup t.lmul wp t.w) wp none, s.vop fs 1 t.lmul t.w (some t.fmt)]
      (famFmt fam).poison true (fun v => (setPlane fam n.toNat (v.getD 1 0) (v.getD 0 0), 0))))

/-- VPTRUNC (R224). -/
def execVptrunc (d a : Reg) (pg : BitVec 3) (fam : Fam) (n : BitVec 2) (s : State) : Out :=
  s.withVt (.vptrunc d a pg fam n) (fun t0 s => s.withQueues (.vptrunc d a pg fam n) [.v a] none (some d) (fun s =>
    let t := planeVt fam t0
    s.planeOp fam t [.v a] d pg t.w t.lmul [s.vop [.v a] 0 t.lmul t.w (some t.fmt)] (famFmt fam).poison true
      (fun v => (truncPlanes fam (n.toNat + 1) (canon (famFmt fam) (v.getD 0 0)), 0))))

/-- VPRND (R224). -/
def execVprnd (d a : Reg) (pg : BitVec 3) (fam : Fam) (n : BitVec 2) (s : State) : Out :=
  s.withVt (.vprnd d a pg fam n) (fun t0 s => s.withQueues (.vprnd d a pg fam n) [.v a] none (some d) (fun s =>
    let t := planeVt fam t0
    s.planeOp fam t [.v a] d pg t.w t.lmul [s.vop [.v a] 0 t.lmul t.w (some t.fmt)] (famFmt fam).poison true
      (fun v => prnd fam (n.toNat + 1) (canon (famFmt fam) (v.getD 0 0)))))

/-! ### MX (R227 to R230) -/

/-- Magnitude of a finite value. -/
def FVal.abs : FVal → FVal
  | .fin _ m e => .fin false m e
  | .inf _ => .inf false
  | v => v

/-- Whether a value is a NaN or infinite. -/
def FVal.special : FVal → Bool
  | .fin .. => false
  | _ => true

/-- Least s with 2^s ≥ (m 2^e) / 6, for m nonzero (R229). -/
def mxExp (m : Nat) (e : Int) : Int :=
  let l := Nat.log2 m
  if 2 * m ≤ 3 * 2 ^ l then (l : Int) + e - 2 else (l : Int) + e - 1

/-- The block scale exponent for a largest magnitude, clamped (R229). -/
def mxScale (v : FVal) : Int :=
  match v with
  | .fin _ m e => if m = 0 then 0 else max (-127) (min 127 (mxExp m e))
  | _ => 0

/-- The code of an element under a scale (R229). -/
def mxCode (rm : RM) (s : Int) (v : FVal) : FRes :=
  match v with
  | .fin sg m e => fmtE2M1.round rm sg m (e - s)
  | _ => (0, 0)

/-- What VQMX has written so far: codes, scales, PSM and flags. -/
structure MxAcc where
  codes  : VReg
  scales : VReg
  psm    : PReg
  flags  : Nat
deriving DecidableEq, Repr, Inhabited

/-- One block of VQMX (R229): elements as index, value and poison. -/
def mxBlock (rm : RM) (b : Nat) (xs : List (Nat × FVal × Bool)) (a : MxAcc) : MxAcc :=
  if xs.isEmpty then a
  else if xs.any (fun x => x.2.2 || x.2.1.special) then
    { codes := xs.foldl (fun r x => putBits r 4 (4 * x.1) 0) a.codes,
      scales := putBits a.scales 8 (8 * b) 0xFF,
      psm := xs.foldl (fun m x => if x.2.2 then setBit m x.1 true else m) a.psm,
      flags := a.flags ||| (if xs.any (fun x => !x.2.2 && x.2.1.special) then 16 else 0) }
  else
    let amax := xs.foldl (fun m x => if m.lt x.2.1.abs then x.2.1.abs else m) (.fin false 0 0)
    let sc := mxScale amax
    { codes := xs.foldl (fun r x => putBits r 4 (4 * x.1) (mxCode rm sc x.2.1).1) a.codes,
      scales := putBits a.scales 8 (8 * b) (sc + 127).toNat,
      psm := a.psm,
      flags := xs.foldl (fun fl x => fl ||| (mxCode rm sc x.2.1).2) a.flags }

/-- VQMX (R229): codes to v(D), scales to v(D+1). -/
def execVqmx (d a : Reg) (pg : BitVec 3) (s : State) : Out :=
  s.withVt (.vqmx d a pg) (fun t s => s.withQueues (.vqmx d a pg) [.v a] none none (fun s =>
    let o := s.vop [.v a] 0 t.lmul t.w (some t.fmt)
    let vl := s.vlen t
    let act := s.actives pg vl
    let a0 : MxAcc := ⟨(s.h.vGroup d 1).getD 0 0, (s.h.vGroup (d + 1) 1).getD 0 0, s.h.regs.psm, 0⟩
    let r := (List.range ((vl + 31) / 32)).foldl (fun acc b =>
      mxBlock t.rm b ((act.filter (fun e => e / 32 == b)).map (fun e => (e, t.fmt.dec (o.val e), s.predErr || o.psn e))) acc) a0
    ((s.popAll [.v a]).modH (fun h =>
      ((((h.setGroup d [r.codes]).setGroup (d + 1) [r.scales]).setPsm r.psm).orFlags r.flags).xVstart 0)).complete))

/-- An MX value expanded into a format (R230). -/
def mxValue (f : FFmt) (rm : RM) (code scale : Nat) : FRes :=
  if scale = 0xFF then (f.nan, 0)
  else
    match fmtE2M1.dec code with
    | .fin sg m e => f.round rm sg m (e + (scale : Int) - 127)
    | _ => (f.nan, 0)

/-- VDQMX (R230). -/
def execVdqmx (d a b : Reg) (pg : BitVec 3) (s : State) : Out :=
  let fs : List Fld := [.v a, .v b]
  s.withVt (.vdqmx d a b pg) (fun t s => s.withQueues (.vdqmx d a b pg) fs none (some d) (fun s =>
    let oa := s.vop fs 0 1 4 none
    let ob := s.vop fs 1 1 8 none
    s.finishV fs d (((s.actives pg (s.vlen t)).foldl (fun acc e =>
      let p := s.predErr || oa.psn e || ob.psn (e / 32)
      let r : FRes := if p then (t.psn, 0) else mxValue t.fmt t.rm (oa.val e) (ob.val (e / 32))
      acc.put t.w e r.1 p r.2 (t.entryPsn r.1)) (s.vstartAcc d t.lmul false)).mark t (s.actMask pg (s.vlen t)))))

/-! ### Narrow accumulation (R231) -/

/-- The update format for an element width: bfloat16 for 32, binary32 for 64. -/
def accFmt (w : Nat) : FFmt := if w = 32 then fmtBf else fmt32

/-- The family of an element width. -/
def famOf (w : Nat) : Fam := if w = 32 then .e8 else .e11

/-- VPACC (R231): d := d + a, and p(n) the elements whose plane 0 changed. -/
def execVpacc (d a : Reg) (pg : BitVec 3) (n : BitVec 5) (s : State) : Out :=
  let fs : List Fld := [.v a, .v d]
  s.withVt (.vpacc d a pg n) (fun t s => s.withQueues (.vpacc d a pg n) fs none (some d) (fun s =>
    let oa := s.vop fs 0 (max 1 (t.lmul / 2)) (t.w / 2) (some (accFmt t.w))
    let od := s.vop fs 1 t.lmul t.w (some t.fmt)
    let r := (s.actives pg (s.vlen t)).foldl (fun (acc : VAcc × PReg) e =>
      let p := s.predErr || oa.psn e || od.psn e
      let v : FRes := if p then (t.psn, psnFlags (accFmt t.w) s.predErr [oa] e ||| psnFlags t.fmt s.predErr [od] e)
        else t.fmt.addV t.rm (t.fmt.dec (od.val e)) ((accFmt t.w).dec (oa.val e))
      (acc.1.put t.w e v.1 p v.2 (t.entryPsn v.1),
       setBit acc.2 e (planeOf (famOf t.w) 0 v.1 != planeOf (famOf t.w) 0 (od.val e))))
      (s.vstartAcc d t.lmul false, s.h.readP (n.zeroExtend 6))
    (s.modH (fun h => h.writeP (n.zeroExtend 6) r.2)).finishV fs d (r.1.mark t (s.actMask pg (s.vlen t)))))

/-! ### Optimiser steps (R232 to R235) -/

/-- The parameters of an optimiser instruction in the element type (R232). -/
structure OptParams where
  lr   : Nat
  b1   : Nat
  b2   : Nat
  eps  : Nat
  wd   : Nat
  c1   : Nat
  c2   : Nat
  omb1 : Nat
  omb2 : Nat
deriving DecidableEq, Repr, Inhabited

/-- 1 − β in an element format, from the converted β. -/
def oneMinus (f : FFmt) (b : Nat) : Nat := (f.addV .rne (.fin false 1 0) (f.dec b).neg).1

/-- Convert the optimiser CSRs (R232). -/
def Csrs.opt (c : Csrs) (f : FFmt) : OptParams :=
  let k (v : Word) : Nat := (fmt64.cvt f .rne v.toNat).1
  { lr := k c.optlr, b1 := k c.optb1, b2 := k c.optb2, eps := k c.opteps, wd := k c.optwd,
    c1 := (fmt32.cvt f .rne (c.optbc.toNat / 2 ^ 32)).1, c2 := (fmt32.cvt f .rne (c.optbc.toNat % 2 ^ 32)).1,
    omb1 := oneMinus f (k c.optb1), omb2 := oneMinus f (k c.optb2) }

/-- round(±(a × b) + c) on codes. -/
def FFmt.fma (f : FFmt) (neg : Bool) (a b c : Nat) : FRes := f.fmaV .rne neg (f.dec a) (f.dec b) (f.dec c)

/-- One AdamW step: the new weight, first and second moment, and the flags of every step (R233). -/
def adamw (f : FFmt) (p : OptParams) (w g m v : Nat) : (Nat × Nat × Nat) × Nat :=
  let x1 := f.mul .rne p.omb1 g
  let m1 := f.fma false p.b1 m x1.1
  let gg := f.mul .rne g g
  let x2 := f.mul .rne p.omb2 gg.1
  let v1 := f.fma false p.b2 v x2.1
  let mh := f.mul .rne m1.1 p.c1
  let vh := f.mul .rne v1.1 p.c2
  let sq := f.sqrt .rne vh.1
  let den := f.add .rne sq.1 p.eps
  let q : FRes := if den.1 = 0 then (0, 0) else f.div .rne mh.1 den.1
  let u := f.fma false p.wd w q.1
  let w1 := f.fma true p.lr u.1 w
  ((w1.1, m1.1, v1.1), x1.2 ||| m1.2 ||| gg.2 ||| x2.2 ||| v1.2 ||| mh.2 ||| vh.2 ||| sq.2 ||| den.2 ||| q.2 ||| u.2 ||| w1.2)

/-- One SGD step with momentum: the new weight and momentum, and the flags (R234). -/
def sgdm (f : FFmt) (p : OptParams) (w g q : Nat) : (Nat × Nat) × Nat :=
  let g1 := f.fma false p.wd w g
  let q1 := f.fma false p.b1 q g1.1
  let w1 := f.fma true p.lr q1.1 w
  ((w1.1, q1.1), g1.2 ||| q1.2 ||| w1.2)

/-- VADAMW (R233, R235). -/
def execVadamw (d a b : Reg) (pg : BitVec 3) (s : State) : Out :=
  let fs : List Fld := [.v a, .v b, .v d, .v (b + 1)]
  s.withVt (.vadamw d a b pg) (fun t s => s.withQueues (.vadamw d a b pg) fs none (some d) (fun s =>
    let f := t.fmt
    let o (i : Nat) : Opnd := s.vop fs i 1 t.w (some f)
    let og := o 0; let om := o 1; let ow := o 2; let ov := o 3
    let prm := s.h.csr.opt f
    let r := (s.actives pg (s.vlen t)).foldl (fun (acc : VAcc × List VReg × List VReg) e =>
      let p := s.predErr || og.psn e || om.psn e || ow.psn e || ov.psn e
      let x := if p then ((t.psn, t.psn, t.psn), psnFlags f s.predErr [og, om, ow, ov] e) else adamw f prm (ow.val e) (og.val e) (om.val e) (ov.val e)
      (acc.1.put t.w e x.1.1 p x.2 (t.entryPsn x.1.1), vSet acc.2.1 t.w e x.1.2.1, vSet acc.2.2 t.w e x.1.2.2))
      (s.vstartAcc d 1 false, s.h.vGroup b 1, s.h.vGroup (b + 1) 1)
    ((s.popAll fs).modH (fun h => (((((h.writeV d (r.1.mark t (s.actMask pg (s.vlen t)))).setGroup b r.2.1).setGroup (b + 1) r.2.2).setPsm r.1.psm).orFlags
      r.1.flags).xVstart 0)).complete))

/-- VSGDM (R234, R235). -/
def execVsgdm (d a b : Reg) (pg : BitVec 3) (s : State) : Out :=
  let fs : List Fld := [.v a, .v b, .v d]
  s.withVt (.vsgdm d a b pg) (fun t s => s.withQueues (.vsgdm d a b pg) fs none (some d) (fun s =>
    let f := t.fmt
    let o (i : Nat) : Opnd := s.vop fs i 1 t.w (some f)
    let og := o 0; let oq := o 1; let ow := o 2
    let prm := s.h.csr.opt f
    let r := (s.actives pg (s.vlen t)).foldl (fun (acc : VAcc × List VReg) e =>
      let p := s.predErr || og.psn e || oq.psn e || ow.psn e
      let x := if p then ((t.psn, t.psn), psnFlags f s.predErr [og, oq, ow] e) else sgdm f prm (ow.val e) (og.val e) (oq.val e)
      (acc.1.put t.w e x.1.1 p x.2 (t.entryPsn x.1.1), vSet acc.2 t.w e x.1.2))
      (s.vstartAcc d 1 false, s.h.vGroup b 1)
    ((s.popAll fs).modH (fun h => ((((h.writeV d (r.1.mark t (s.actMask pg (s.vlen t)))).setGroup b r.2).setPsm r.1.psm).orFlags r.1.flags).xVstart 0)).complete))

end Sys2Proof.Machine
end

