-- ==== Sys2Proof/Machine/Matrix.lean ====
section
/-! DEFINITION. Matrix instructions (08_matrix R236 to R255). -/

namespace Sys2Proof.Machine

/-! ### Exact steps (R241, R245) -/

/-- An exact product times 2^sh, and whether it is the invalid 0 × ∞; a scale of none is NaN (R242, R245). -/
def prodX (x y : FVal) (sh : Option Int) : FVal × Bool :=
  match sh with
  | none => (.nan false false false, false)
  | some k =>
    match x, y with
    | .nan .., _ => (.nan false false false, false)
    | _, .nan .. => (.nan false false false, false)
    | .inf s, .inf t => (.inf (s != t), false)
    | .inf s, .fin t m _ => if m = 0 then (.nan false false false, true) else (.inf (s != t), false)
    | .fin s m _, .inf t => if m = 0 then (.nan false false false, true) else (.inf (s != t), false)
    | .fin s m e, .fin t n g => (.fin (s != t) (m * n) (e + g + k), false)

/-- Whether a value is −0. -/
def FVal.negZero : FVal → Bool
  | .fin true 0 _ => true
  | _ => false

/-- The exact sum of finite terms. -/
def exactSum (ts : List FVal) : Bool × Nat × Int :=
  ts.foldl (fun acc t => match t with
    | .fin s m e => if m = 0 then acc else if acc.2.1 = 0 then (s, m, e) else dyAdd acc.1 acc.2.1 acc.2.2 s m e
    | _ => acc) (false, 0, 0)

/-- Round the exact sum of a step's terms once (R241, R245). An accumulator of −0 with products of +0 gives +0, as R245
says; R248 says that rows of +0 change not even the sign of an exact zero (log 89). -/
def stepSum (f : FFmt) (ts : List FVal) : FRes :=
  let pos := ts.any (fun t => t == .inf false)
  let neg := ts.any (fun t => t == .inf true)
  if pos && neg then (f.nan, 16)
  else if ts.any FVal.isNan then (f.nan, 0)
  else if pos || neg then (f.sgn neg + f.infCode, 0)
  else
    let r := exactSum ts
    if r.2.1 = 0 then (f.sgn (ts.all FVal.negZero), 0) else f.round .rne r.1 r.2.1 r.2.2

/-- Groups of eight. -/
def eights {α : Type} : Nat → List α → List (List α)
  | 0, _ => []
  | n + 1, xs => xs.take 8 :: eights n (xs.drop 8)

/-- One pass of R241 over a row, a column and the scale shifts, from an accumulator code with flags. -/
def passSum (f : FFmt) (acc : FRes) (xs ys : List FVal) (shs : List (Option Int)) : FRes :=
  (eights (xs.length / 8) ((xs.zip ys).zip shs)).foldl (fun a g =>
    let ps := g.map (fun p => prodX p.1.1 p.1.2 p.2)
    let r := stepSum f (f.dec a.1 :: ps.map (·.1))
    (r.1, a.2 ||| r.2 ||| (if ps.any (·.2) then 16 else 0))) acc

/-- NV for signalling NaNs among the inputs of an element and its accumulator (R180, R245). -/
def snanFlag (vs : List FVal) : Nat := if vs.any FVal.isSnan then 16 else 0

/-! ### Shapes (R236, R242, R244) -/

/-- The formats of A and B, and K, of a 32-bit-accumulating MMA. -/
def mtyShape (t : MTy) : FFmt × FFmt × Nat :=
  match t with
  | .f16 => (fmt16, fmt16, 64)
  | .bf16 => (fmtBf, fmtBf, 64)
  | .e4m3e4m3 => (fmtE4M3, fmtE4M3, 128)
  | .e4m3e5m2 => (fmtE4M3, fmtE5M2, 128)
  | .e5m2e4m3 => (fmtE5M2, fmtE4M3, 128)
  | .e5m2e5m2 => (fmtE5M2, fmtE5M2, 128)
  | .e2m1 => (fmtE2M1, fmtE2M1, 256)
  | .f64 => (fmt64, fmt64, 32)

/-- The format as a poison-carrying one (R205). -/
def psnFmt (f : FFmt) : Option FFmt := if f.hasPoison then some f else none

/-- The shift of a product under two E8M0 scales; none when one is NaN (R242). -/
def mxShift (sa sb : Nat) : Option Int := if sa = 0xFF ∨ sb = 0xFF then none else some ((sa : Int) + sb - 254)

/-- The bfloat16 parts of a binary32 value (R244). -/
def splitHi (x : Nat) : FVal :=
  match fmt32.dec x with
  | .nan s q p => .nan s q p
  | _ => fmtBf.dec (x / 2 ^ 16)

/-- The low part: zero for a NaN or an infinity. -/
def splitLo (x : Nat) : FVal :=
  match fmt32.dec x with
  | .fin s m e => fmtBf.dec (fmtBf.addV .rne (.fin s m e) (fmtBf.dec (x / 2 ^ 16)).neg).1
  | _ => .fin false 0 0

/-! ### The instruction (R237, R246, R247) -/

/-- Which rows are active (R247). -/
def State.mrows (s : State) (pg : BitVec 3) (m : Nat) : List Nat :=
  (List.range m).filter (fun i => (s.h.guard pg).getLsbD i)

/-- The quiet poison NaN. -/
def psnVal : FVal := .nan false false true

/-- An input element as a decoded value; a poisoned one stands as `pv` (R246; log 62). -/
def inputOf (f : Nat → FVal) (o : Opnd) (pv : FVal) (e : Nat) : FVal := if o.psn e then pv else f (o.val e)

/-- An accumulator element as a code; a poisoned one stands as the poison NaN. -/
def accOf (f : FFmt) (o : Opnd) (e : Nat) : Nat := if o.psn e then f.poison else o.val e

/-- Run a tile instruction: `mrow` rows, `k` the shared dimension, `n` columns, C codes of format `cf` in `nc`
registers; `cell i n` gives an element and the flags of its steps, which it sets though it is poisoned (R245; log 62);
`rowPsn` and `colPsn` are the poison of R246. An uncorrectable error in reading the row mask poisons the C elements of the
rows that its stored bits make active (log 60). -/
def State.matrix (s : State) (fs : List Fld) (c : Reg) (pg : BitVec 3) (cf : FFmt) (nc mrow n : Nat) (rowPsn colPsn : Nat → Bool)
    (co : Opnd) (cell : Nat → Nat → FRes) : Out :=
  let bad := (List.range n).map colPsn
  let r := (s.mrows pg mrow).foldl (fun acc i =>
    let rb := s.predErr || rowPsn i
    (List.range n).foldl (fun (acc : VAcc) j =>
      let idx := n * i + j
      let p := rb || bad.getD j false || co.psn idx || (s.own.upset == .acc idx)
      let v : FRes := if p then (cf.poison, (cell i j).2) else cell i j
      { acc with regs := vSet acc.regs cf.width idx v.1, psm := if p then setBit acc.psm idx true else acc.psm,
                 flags := acc.flags ||| v.2 }) acc)
    (⟨s.h.vGroup c nc, 0, 0, s.h.regs.psm, 0⟩ : VAcc)
  ((s.popAll fs).modH (fun h => (((h.setGroup c r.regs).setPsm r.psm).orFlags r.flags).xVstart 0)).complete

/-- Row `i` of A as decoded values. -/
def rowOf (f : Nat → FVal) (o : Opnd) (k i : Nat) (pv : FVal := psnVal) : List FVal :=
  (List.range k).map (fun x => inputOf f o pv (k * i + x))

/-- Column `j` of B (R237). -/
def colOf (f : Nat → FVal) (o : Opnd) (k n : Nat) (pv : FVal) (j : Nat) : List FVal :=
  (List.range k).map (fun x => inputOf f o pv (n * x + j))

/-- Whether some element of row `i` of A is poisoned. -/
def rowBad (o : Opnd) (k i : Nat) : Bool := (List.range k).any (fun x => o.psn (k * i + x))

/-- Whether some element of column `j` of B is poisoned. -/
def colBad (o : Opnd) (k n j : Nat) : Bool := (List.range k).any (fun x => o.psn (n * x + j))

/-- The sources of MMA and MMAP: A, B's tile, C, and the scale register (MX alone). -/
def mmaFlds (a b c : Reg) (mx : Bool) : List Fld := [.v a, .v b, .v c] ++ (if mx then [.v (c + 2)] else [])

/-- MMA with 16-, 8- or 4-bit inputs (R241, R242). -/
def State.mma32 (s : State) (c a b : Reg) (pg : BitVec 3) (t : MTy) : Out :=
  let sh := mtyShape t
  let (fa, fb, k) := (sh.1, sh.2.1, sh.2.2)
  let mx := t == .e2m1
  let fs := mmaFlds a b c mx
  let oa := s.vop fs 0 1 fa.width (psnFmt fa)
  let ob := s.vop fs 1 8 fb.width (psnFmt fb)
  let co := s.vop fs 2 2 32 (some fmt32)
  let sc := s.vop fs 3 1 8 none
  let cols := (List.range 64).map (colOf fb.dec ob k 64 psnVal)
  s.matrix fs c pg fmt32 2 8 64
    (fun i => rowBad oa k i || (mx && (List.range 8).any (fun j => sc.psn (8 * i + j))))
    (fun n => colBad ob k 64 n || (mx && (List.range 8).any (fun j => sc.psn (64 + 64 * j + n))))
    co (fun i n =>
      let xs := rowOf fa.dec oa k i
      let ys := cols.getD n []
      let shs := (List.range k).map (fun x =>
        if mx then mxShift (sc.val (8 * i + x / 32)) (sc.val (64 + 64 * (x / 32) + n)) else some 0)
      let r := passSum fmt32 (accOf fmt32 co (64 * i + n), 0) xs ys shs
      (r.1, r.2 ||| snanFlag (fmt32.dec (accOf fmt32 co (64 * i + n)) :: (xs ++ ys))))

/-- MMA with binary64 inputs: a chain of fused multiply-adds (R243). -/
def State.mma64 (s : State) (c a b : Reg) (pg : BitVec 3) : Out :=
  let fs := mmaFlds a b c false
  let oa := s.vop fs 0 1 64 (some fmt64)
  let ob := s.vop fs 1 8 64 (some fmt64)
  let co := s.vop fs 2 1 64 (some fmt64)
  let cols := (List.range 32).map (colOf fmt64.dec ob 32 32 psnVal)
  s.matrix fs c pg fmt64 1 4 32 (rowBad oa 32) (colBad ob 32 32) co (fun i n =>
    ((rowOf fmt64.dec oa 32 i).zip (cols.getD n [])).foldl (fun a xy =>
      let r := fmt64.fmaV .rne false xy.1 xy.2 (fmt64.dec a.1)
      (r.1, a.2 ||| r.2)) (accOf fmt64 co (32 * i + n), 0))

/-- MMA (R238 to R248). -/
def execMma (c a b : Reg) (pg : BitVec 3) (t : MTy) (s : State) : Out :=
  let i := Instr.mma c a b pg t
  s.gate i (fun s => s.withQueues i [.v a] none none (fun s =>
    match t with
    | .f64 => s.mma64 c a b pg
    | _ => s.mma32 c a b pg t))

/-- MMAP (R244): three passes over the split tiles. -/
def execMmap (c a b : Reg) (pg : BitVec 3) (s : State) : Out :=
  let i := Instr.mmap c a b pg
  s.gate i (fun s => s.withQueues i [.v a] none none (fun s =>
    let fs := mmaFlds a b c false
    let oa := s.vop fs 0 1 32 (some fmt32)
    let ob := s.vop fs 1 8 32 (some fmt32)
    let co := s.vop fs 2 2 32 (some fmt32)
    let his := (List.range 64).map (colOf splitHi ob 32 64 psnVal)
    let los := (List.range 64).map (colOf splitLo ob 32 64 (.fin false 0 0))
    let shs : List (Option Int) := List.replicate 32 (some 0)
    s.matrix fs c pg fmt32 2 8 64 (rowBad oa 32) (colBad ob 32 64) co (fun i n =>
      let ah := rowOf splitHi oa 32 i
      let al := rowOf splitLo oa 32 i (.fin false 0 0)
      let bh := his.getD n []
      let r := passSum fmt32 (passSum fmt32 (passSum fmt32 (accOf fmt32 co (64 * i + n), 0) ah bh shs) ah (los.getD n []) shs) al bh shs
      (r.1, r.2 ||| snanFlag (fmt32.dec (accOf fmt32 co (64 * i + n)) :: (ah ++ bh))))))

/-- MMAZ (R249). -/
def execMmaz (c : Reg) (t : ZTy) (s : State) : Out :=
  s.gate (.mmaz c t) (fun s =>
    (s.modH (fun h => (h.setGroup c (match t with | .f64 => [0] | .f32 => [0, 0])).xVstart 0)).complete)

/-- The poison an element of MTRANS takes when its read meets an error (R250). -/
def ttyPsn (t : TTy) : Nat :=
  match t with
  | .f16 => fmt16.poison
  | .bf16 => fmtBf.poison
  | _ => 0

/-- MTRANS (R250). -/
def execMtrans (c b : Reg) (t : TTy) (s : State) : Out :=
  s.gate (.mtrans c b t) (fun s =>
    let src := s.h.vGroup b 8
    let r := (List.range 4096).foldl (fun (acc : List VReg × PReg) d =>
      let e := 64 * (d % 64) + d / 64
      let bad := s.readErr 0 e
      (vSet acc.1 16 d (if bad then ttyPsn t else vGet src 16 e),
       if bad then setBit acc.2 (d % 512) true else acc.2)) (s.h.vGroup c 8, s.h.regs.psm)
    (s.modH (fun h => ((h.setGroup c r.1).setPsm r.2).xVstart 0)).complete)

end Sys2Proof.Machine
end

