-- ==== Sys2Proof/Machine/Resets.lean ====
section
/-! DEFINITION. Readiness of units (13_device R393, R394), resets and loss of power (12_system R378 to R380,
13_device R387, R397), the watchdog (R399) and the device's number (R400). -/

namespace Sys2Proof.Machine

/-! ### Units (R393, R394) -/

/-- Set or clear a unit's bit of READY. -/
def State.setReady (s : State) (u : RUnit) (b : Bool) : State :=
  let m : Word := 1#64 <<< unitBit u
  { s with dev := { s.dev with ready := if b then s.dev.ready ||| m else s.dev.ready &&& ~~~m } }

/-- Whether a unit can become ready: a compute die after its three stacks and not while it is quiesced, the
command processors only with an image (R393, R397, R399). -/
def State.canReady (s : State) (u : RUnit) : Bool :=
  match u with
  | .cd n => n < 4 && s.unitUp (.hbm (3 * n)) && s.unitUp (.hbm (3 * n + 1)) && s.unitUp (.hbm (3 * n + 2)) && !(s.disp n).quiesced
  | .cps n => n < 2 && s.dev.fwUp
  | .ep n => n < 8
  | .bl n => n < 36
  | .hbm n => n < 12
  | .hostLink n => n < 2

/-- UNIT_READY (R393, R394). -/
def execUnitReady (u : RUnit) (s : State) : Out :=
  if s.canReady u && s.dev.warm.isNone then .next (s.setReady u true).admitPending else .next s

/-- Whether a copy's path crosses a die. -/
def State.crossesDie (s : State) (i : CmdId) (j : CopyJob) (n : Nat) : Bool :=
  (List.range j.blk.rows).any (fun r => (s.pathOf i j r).dies.contains n)

/-- The MOVING copies whose path crosses a die. -/
def State.overDie (s : State) (n : Nat) : List CmdId :=
  s.allCmds.filter (fun i => match s.cmd i with
    | some r => (match r.job with | .copy j => r.st == HState.moving && s.crossesDie i j n | _ => false)
    | none => false)

/-- A compute die is not ready any more: the MOVING copies whose path crossed it, and the QUEUED ones that it leaves
without a path, end FAILED with LINK (R394). -/
def State.failDie (s : State) (n : Nat) : State :=
  let s1 := s.setReady (.cd n) false
  s1.linkDown (s.overDie n ++ s1.stranded)

/-- UNIT_FAILURE (R268, R393, R394). -/
def execUnitFailure (u : RUnit) (s : State) : Out :=
  let s1 := s.setReady u false
  .next (match u with
    | .ep n => s1.failPort (.ep n)
    | .bl n => s1.failPort (.bl n)
    | .hostLink n => s1.failPort (.host n)
    | .cd n => s.failDie n
    | .hbm _ | .cps _ => s1)

/-! ### Warm reset (R378, R379) -/

/-- The pages of a slice's leases that a failed region touches: homed on its die, or for an I/O die host pages whose
accesses take its link, beside the die that homes their region (R139, R379, log 13). -/
def State.slicePages (s : State) (sl : Slice) (r : FailRegion) : List Nat :=
  sl.desc.pages.filter (fun p =>
    let host := match walkFrom s.mem needR (p * 0x10000) walkLevels (s.ctxNo sl.ctx).root with | some a => a.2.1 | none => false
    match r with
    | .compute d => !host && Config.homeDie sl.ctx (p / 32) % 4 == d
    | .io n => host && ioOf (Config.homeDie sl.ctx (p / 32) % 4) == n)

/-- Whether a slice is active: its leases are held. -/
def Slice.active (sl : Slice) : Bool := sl.st == SliceState.ready || sl.st == SliceState.ending

/-- The contexts that fail the test of R379. -/
def State.lost (s : State) (r : FailRegion) : List Nat :=
  ((s.slices.filter (fun p => p.2.active && !(s.slicePages p.2 r).isEmpty)).map (·.2.ctx)).eraseDups

/-- Start a warm reset: every sequencer and engine stops, and the test of R379 is made as things stand. -/
def State.startWarm (s : State) (r : FailRegion) : State :=
  if s.dev.warm.isSome then s else { s with dev := { s.dev with warm := some (r, s.now), failing := s.lost r } }

/-- WARM_RESET (R378). -/
def execWarmReset (r : FailRegion) (s : State) : Out := .next (s.startWarm r)

/-- The indices of a table's entries that are not all zero. -/
def entriesAt (m : List Host.Cell) (table bits : Nat) : List Nat :=
  ((m.filter (fun c => decide (keyHbm table ≤ c.1) && decide (c.1 < keyHbm table + 8 * 2 ^ bits))).map
    (fun c => (c.1 - keyHbm table) / 8)).eraseDups

/-- The device pages that a table maps: virtual address, shift and physical address (R140). -/
def devicePages (m : List Host.Cell) : List (Nat × Nat × Bool × Nat) → Nat → Nat → List (Nat × Nat × Nat)
  | [], _, _ => []
  | (sh, bits, leafOk, _) :: rest, table, va =>
    (entriesAt m table bits).flatMap (fun n =>
      let e := bytesNat (memBytes m (keyHbm (table + 8 * n)) 8)
      let addr := e / 256 % 2 ^ 48 * 256
      if e % 2 = 0 then []
      else if e / 16 % 2 = 1 then (if leafOk && e / 32 % 2 = 0 then [(va + n * 2 ^ sh, sh, addr)] else [])
      else devicePages m rest addr (va + n * 2 ^ sh))

/-- The device pages of a context homed on a die, each as a physical address and a length within one 2 MiB region. -/
def State.homedOn (s : State) (ctx die : Nat) : List (Nat × Nat) :=
  (devicePages s.mem walkLevels (s.ctxNo ctx).root 0).flatMap (fun x =>
    let n := min (2 ^ x.2.1) 0x200000
    ((List.range (2 ^ x.2.1 / n)).filter (fun i => Config.homeDie ctx ((x.1 + i * n) / 0x200000) % 4 == die)).map
      (fun i => (x.2.2 + i * n, n)))

/-- Bytes of HBM that hold free values from now on. -/
def State.loseBytes (s : State) (x : Nat × Nat) : State :=
  s.putBytes ((List.range x.2).map (fun o => (keyHbm (x.1 + o), Config.freeByte (s.own.free * 2 ^ 60 + x.1 + o), false)))

/-- A context fails the test: it is marked, and its device pages in the failed region hold free values (R379, log 24). -/
def State.failCtx (r : FailRegion) (s : State) (ctx : Nat) : State :=
  let s1 := s.setCtx ctx { s.ctxNo ctx with failed := true }
  match r with
  | .compute die => (s1.homedOn ctx die).foldl State.loseBytes s1
  | .io _ => s1

/-- A region after a warm reset: no slice holds a lease or demands it. -/
def Region.afterReset (r : Region) : Region :=
  { st := if r.st = .leased then .device else r.st, leases := 0, queue := r.queue.filter (fun d => d == .host) }

/-- Clear the state that dies lose in a warm reset: caravans with their queues and scratchpads, bookings,
rounds, open meshes, dispatchers' tables, what DBGCTL holds (R371, R378). -/
def State.resetDies (s : State) : State :=
  let s1 := s.cars.foldl (fun t p => t.freeCar p.1 p.2) s
  { s1 with mem := s1.mem.filter (fun c => !keyIsSpad c.1), poison := s1.poison.filter (fun g => !keyIsSpad (4 * g)),
            harts := [], cars := [], books := [], joins := [], legs := [], bazs := [], objs := s1.objs ++ s1.meshes.map (·.2), meshes := [],
            cores := s1.cores.map (fun c => (c.1, { c.2 with dbg := 0 })), disps := [], slices := [], graphs := [], regions := s1.regions.map (fun r => (r.1, r.2.afterReset)) }

/-- End every command ABORTED (R378). -/
def State.abortAll (s : State) : State :=
  let s1 := s.cars.foldl (fun t p => t.abortCar p.1 p.2) s
  s1.allCmds.foldl (fun t i => match t.cmd i with
    | some r => if r.over then t else t.endCmd i 0x06 r.sumNow
    | none => t) s1

/-- The signals of a warm reset: every slice that has not ended, then every submission, FAILED (R378). -/
def State.failAll (s : State) : State :=
  let s1 := s.slices.foldl (fun t p =>
    if p.2.active || p.2.st == .pending then t.writeSignal p.2.ctx p.2.desc.signal p.2.desc.sigval true else t) s
  let s2 := s1.subs.foldl (fun t p => t.writeSignal p.2.ctx p.2.signal p.2.sigval (p.2.fin.getD true)) s1
  { s2 with subs := [] }

/-- A staged image takes effect at a warm reset (R398). -/
def Device.takeStaged (d : Device) : Device :=
  match d.staged with
  | some i =>
    if d.accepts i then
      { (Device.installInactive { d with minSvn := max d.minSvn i.svn } i).swap with staged := none, last := false }
    else { d with staged := none, last := true }
  | none => d

/-- Time within which a warm reset reports ready (R378). -/
def warmLimit : Nat := 50000000

/-- WARM_RESET_READY (R378, R379). -/
def execWarmResetReady (s : State) : Out :=
  match s.dev.warm with
  | some (r, t) =>
    if s.now < t + warmLimit then
      let s1 := ((s.dev.failing.foldl (State.failCtx r) s).abortAll).resetDies
      let s2 := { s1 with slices := s.slices, subs := s.subs }.failAll
      let s3 := { s2 with slices := [], dev := { s2.dev.takeStaged with warm := none, repl := none, failing := [],
                                                                        beats := Vector.replicate 2 s.now } }
      .next (if s3.dev.slotB = s.dev.slotB then s3 else s3.newHandlers)
    else .next s
  | none => .next s

/-! ### Power and cold reset (R380, R387, R397) -/

/-- The module loses power. -/
def State.cut (s : State) : State := { s with dev := { s.dev with off := true, ready := 0 } }

/-- POWER_LOSS (R380). -/
def execPowerLoss (s : State) : Out := .next s.cut

/-- THERMAL_SHUTDOWN (R387). -/
def execThermalShutdown (s : State) : Out := .next s.cut

/-- A core after a cold reset: the record is the nonvolatile one (R380), and what R382 forbids to go back stays. -/
def Core.cold (c : Core) : Core := { Core.reset with lanemap := c.lanemap, wear := c.nvWear, nvWear := c.nvWear, st := c.st, worn := c.capped, lanes4 := c.lanes4, full := c.full }

/-- Whether a key lies outside the device: host memory, peers, and Slorraroth's own space. -/
def keyOutside (key : Nat) : Bool := (spaceSize ≤ key && key < 0x1000 * spaceSize) || 0x100000 * spaceSize ≤ key

/-- The boot ROM starts the active slot, or the other one when that is refused (R397). -/
def Device.boot (d : Device) : Device :=
  let go := fun (x : Device) => { x with svn := x.active.svn, minSvn := max x.minSvn x.active.svn, fwUp := true }
  if d.accepts d.active then go d
  else if d.accepts d.inactive then go { d with slotB := !d.slotB }
  else { d with fwUp := false }

/-- COLD_RESET (R33, R380, R391, R397): the boot ROM reads the two flash slots as they stand. The
row has no operand, so the two places hold nothing. -/
def execColdReset (_slotA _slotB : Unit) (s : State) : Out :=
  let d := { Device.reset with slotB := s.dev.slotB, minSvn := s.dev.minSvn, keyHash := s.dev.keyHash, fuses := s.dev.fuses,
                               imgA := s.dev.imgA, imgB := s.dev.imgB }
  .next { State.reset with own := s.own, mem := s.mem.filter (fun c => keyOutside c.1), cores := s.cores.map (fun c => (c.1, c.2.cold)),
                           dev := d.boot }

/-! ### The watchdog (R399) -/

/-- Time a handler may run, and a held caravan may wait (R399, step 1). -/
def handlerLimit : Nat := 10000000

/-- Whether step 1 applies to a caravan. -/
def State.stuck (s : State) (c : CarId) (v : Caravan) : Bool :=
  (v.st == .held && decide (s.now ≥ v.heldAt + handlerLimit)) ||
    ((v.st == .running || v.st == .stopping) && (carHarts c v.size).any (fun k =>
      (s.hart k).tr.smode && !(s.hart k).tr.halted && decide (s.now ≥ (s.hart k).trapAt + handlerLimit)))

/-- WATCHDOG_END_CARAVAN (R399, step 1). -/
def execWatchdogEndCaravan (c : CarId) (s : State) : Out :=
  match kvGet s.cars c with
  | some v =>
    if s.stuck c v && s.dev.warm.isNone then
      .next ((s.setSlice v.slice { s.sliceNo v.slice with dogged := true }).endSlice v.slice)
    else .next s
  | none => .next s

/-- Time a slice may be ENDING (R399, step 2). -/
def endingLimit : Nat := 20000000

/-- Whether step 2 applies to a slice: it has been ENDING too long, or step 1 has not brought it to its end within that
step's own limit (R399). -/
def Slice.overdue (sl : Slice) (now : Nat) : Bool :=
  sl.st == .ending && (decide (now ≥ sl.endAt + endingLimit) || (sl.dogged && decide (now ≥ sl.endAt + handlerLimit)))

/-- WATCHDOG_END_SLICE (R399, step 2). -/
def execWatchdogEndSlice (i : SliceId) (s : State) : Out :=
  match s.findSlice i (fun sl => sl.overdue s.now) with
  | some n =>
    if s.dev.warm.isSome then .next s
    else
      let t := s.failEnd n
      let die := (s.sliceNo n).die
      .next (t.setDisp die { t.disp die with swept := true })
  | none => .next s

/-- Time within which a heartbeat comes (R399, step 3). -/
def beatLimit : Nat := 50000000

/-- Limit of step 3, and of step 4 (R399). -/
def restartLimit : Nat := 100000000

/-- Whether step 3 applies: the watchdog of an I/O die has missed the heartbeat of its command processors, or step 2 has
not brought a slice to its end within that step's own limit (R399). -/
def State.beatLost (s : State) : Bool :=
  s.dev.beats.toList.any (fun t => decide (s.now ≥ t + beatLimit)) ||
    s.slices.any (fun p => p.2.st == .ending && decide (s.now ≥ p.2.endAt + 2 * endingLimit))

/-- CP_RESTART (R398, R399, step 3): the other slot's image starts, when R397 accepts it, with the state saved. -/
def execCpRestart (s : State) : Out :=
  if s.beatLost && s.dev.warm.isNone then
    let d := if s.dev.accepts s.dev.inactive then s.dev.swap else s.dev
    let s1 := { s with dev := { d with minSvn := max d.minSvn d.svn, restarts := (s.now :: d.restarts).take 2 } }
    let s2 := match s.dev.repl with | some r => s1.readSaved r.saved | none => s1
    .next s2.newHandlers.cpsBack
  else .next s

/-- Whether step 4 applies to a die: its dispatcher or engines do not answer after step 2, or no heartbeat has come since
step 3 within that step's limit (R399). -/
def State.quiesceDue (s : State) (die : Nat) : Bool :=
  decide (die < 4) && ((s.disp die).swept || (match s.dev.restarts with
    | t :: _ => decide (s.now ≥ t + restartLimit) && s.dev.beats.toList.any (fun b => decide (b ≤ t))
    | [] => false))

/-- DIE_QUIESCE (R393, R399, step 4): every slice of the die ends FAILED and its CD bit falls. A turn that defers is one
in which the die still does not answer: its slices stay ENDING, and step 4 is not complete until they have ended (log 28). -/
def execDieQuiesce (die : Nat) (s : State) : Out :=
  if s.quiesceDue die && s.dev.warm.isNone then
    let ns := (s.slices.filter (fun p => p.2.die == die && (p.2.active || p.2.st == .pending))).map (·.1)
    let s1 := s.failDie die
    let d := s1.disp die
    let s2 := s1.setDisp die { d with quiesced := true, quietAt := if d.quiesced then d.quietAt else s.now }
    let s3 := ns.foldl State.endSlice s2
    .next (if s.own.defer then s3 else ns.foldl State.failEnd s3)
  else .next s

/-- Whether step 4 is not complete within its limit: a slice of a die quiesced that long ago has not ended (R399). -/
def State.unquiet (s : State) : Bool :=
  s.disps.any (fun d => d.2.quiesced && decide (s.now ≥ d.2.quietAt + restartLimit) &&
    s.slices.any (fun p => p.2.die == d.1 && p.2.active))

/-- Whether step 5 applies: step 3 taken twice within 1 000 000 000 tk, or step 4 not complete (R399). -/
def State.warmDue (s : State) : Bool :=
  (match s.dev.restarts with | a :: b :: _ => decide (a ≤ b + 1000000000) | _ => false) || s.unquiet

/-- WATCHDOG_WARM_RESET (R399, step 5). -/
def execWatchdogWarmReset (r : FailRegion) (s : State) : Out := .next (if s.warmDue then s.startWarm r else s)

/-- COLD_RESET_REQUEST (R399, step 6): READY reads 0, and both functions raise an MSI-X vector and report completion
errors from then on. -/
def execColdResetRequest (s : State) : Out :=
  match s.dev.warm with
  | some (_, t) => if s.now ≥ t + warmLimit then .next { s with dev := { s.dev with ready := 0, coldReq := true, msix := true } } else .next s
  | none => .next s

/-- DEVICE_NUMBER_ASSIGN (R400). -/
def execDeviceNumberAssign (n : Nat) (s : State) : Out :=
  .next (if n < 288 then { s with dev := { s.dev with number := n } } else s)

end Sys2Proof.Machine
end

