-- ==== Sys2Proof/Machine/Sync.lean ====
section
/-! DEFINITION. The caravan barrier, signal words and YIELD (11_tasks R325 to R331, R344). -/

namespace Sys2Proof.Machine

/-- The word of BARQ (R329). -/
def Caravan.barqWord (c : Caravan) : Word :=
  word (c.size * 2 ^ 9 + c.ended.toNat * 2 ^ 5 + (if c.phase then 2 ^ 4 else 0) + c.arrived.toNat)

/-- The limit of a wait: b tk, or QWAIT when B names a0 (R328, R331). -/
def State.barLimit (s : State) (b : Reg) : Nat := if b = 0 then s.h.qwaitOf else (s.h.readA b).toNat

/-- The running hart arrives (R327). -/
def State.arriveBarrier (s : State) : State :=
  let k := s.own.cur
  let c := s.caravan k
  (s.modH (fun h => { h with wph := !c.phase })).setBarrier (carKey k) { c with arrived := c.arrived ||| hartBit k.idx }

/-- BARA (R327): its arrival is a release (R165). -/
def execBara (s : State) : Out :=
  s.gate .bara (fun s =>
    let c := s.caravan s.own.cur
    if c.arrived &&& hartBit s.own.cur.idx ≠ 0 then s.waitOr .bara s.h.qwaitOf c.barqWord
    else if s.mustWait [] true then .next (s.waitOn .bara none none)
    else s.arriveBarrier.complete)

/-- BARW (R328). -/
def execBarw (b : Reg) (s : State) : Out :=
  s.gate (.barw b) (fun s =>
    let c := s.caravan s.own.cur
    if c.phase = s.h.wph then s.complete else s.waitOr (.barw b) (s.barLimit b) c.barqWord)

/-- BARQ (R329). -/
def execBarq (d : Reg) (s : State) : Out :=
  s.gate (.barq d) (fun s => (s.modH (fun h => h.writeA d (s.caravan s.own.cur).barqWord)).complete)

/-- Sleep in a SIGW, or raise WAITTIME (R331); the home of a host page notifies nobody. -/
def State.sigwSleep (s : State) (i : Instr) (limit : Nat) (g : Word) (key : Nat) : Out :=
  match s.expired i with
  | some l => s.raise cWaittime (word l) g
  | none => .next (s.sleepOn i none (some limit) (if keyIsHost key then none else some (key / 64 * 64)))

/-- SIGW (R331). -/
def execSigw (d a b : Reg) (s : State) : Out :=
  let i := Instr.sigw d a b
  s.gate i (fun s =>
    let g := s.h.readA a
    if winClass s s.own.cur g = 6 then s.raise cWindow g 6
    else
      match checkElem s s.own.cur g 8 needR 0 with
      | .error t => s.trap t
      | .ok p =>
        if s.mustWait [(p, 8)] false then .next (s.waitOn i none none)
        else
          let r := s.readAs s.own.cur p.key 8
          let x := bytesNat r.1
          if r.2 then s.raise cPoison g 0
          else if x ≥ 2 ^ 63 ∨ x ≥ (s.h.readA d).toNat % 2 ^ 63 then (s.modH (fun h => h.writeA d (word x))).complete
          else s.sigwSleep i (s.barLimit b) g p.key)

/-- YIELD (R344): a yield point of both sides. -/
def execYield (s : State) : Out :=
  s.gate .yield (fun s =>
    (s.setSeq (yieldStop s.h s.seq.advance true)).stepTrap s.seq.pc)

end Sys2Proof.Machine
end

