-- ==== Sys2Proof/Machine/Waits.lean ====
section
/-! DEFINITION. The events of waits and stalls (01_machine R15, R23, 09_copy R272, 11_tasks R331), entries and
stores that arrive or are performed later (04_access R124, R145, R147), and ILLEGAL_WORD (02_words R62). -/

namespace Sys2Proof.Machine

/-! ### Waits (R23) -/

/-- Run a waiting instruction again: it continues when what it awaits has come, raises WAITTIME when its
limit has passed, and goes on waiting otherwise. -/
def State.rerun (s : State) (i : Instr) : Out :=
  match i with
  | .bara => execBara s
  | .barw b => execBarw b s
  | .sigw d a b => execSigw d a b s
  | .waitab a b => execWaitab a b s
  | .waitd a => execWaitd a s
  | .waith a b => execWaith a b s
  | .wfe => execWfe s
  | .fence p q sc => execFence p q sc s
  | .fencei => execFencei s
  | .launch d a => execLaunch d a s
  | .cpy d a => execCpy d a s
  | .madapt d a b => execMadapt d a b s
  | .mcut d a b => execMcut d a b s
  | .mmig d a b => execMmig d a b s
  | .mhalo d a b => execMhalo d a b s
  | .bhist d a => execBhist d a s
  | .bscan d a => execBscan d a s
  | .btopk d a => execBtopk d a s
  | .broute d a => execBroute d a s
  | .bcolor d a => execBcolor d a s
  | .bseg d a => execBseg d a s
  | _ => .next s

/-- Act as the A side of a hart in the wait it is in, when a test admits that wait. `late`: also where a trap of that wait
has come by the time the caravan's budget ran out (R364). -/
def State.inWait (s : State) (k : HartKey) (late : Bool) (sel : State → Wait → Bool) (f : State → Wait → Out) : Out :=
  if s.canRun k .A || (late && (s.outOf k).any (s.waitDue k)) then
    let s1 := s.actAs k .A
    match s1.seq.wait with
    | some w => if sel s1 w then f { s1 with own := { s1.own with ir := encode w.instr } } w else .next s
    | none => .next s
  else .next s

/-- WAIT_END (R23): the awaited event has come, and the instruction continues; a wait whose limit has
passed ends by WAITTIME instead. -/
def execWaitEnd (k : HartKey) (s : State) : Out :=
  s.inWait k false (fun s w => w.queue.isNone && (s.expired w.instr).isNone) (fun s w => s.rerun w.instr)

/-- WAITTIME (R23): the limit of a bounded wait has passed. -/
def execWaittime (k : HartKey) (s : State) : Out :=
  s.inWait k true (fun s w => w.queue.isNone && (s.expired w.instr).isSome) (fun s w => s.rerun w.instr)

/-- SIGW_RECHECK (R331): a sleeping SIGW reads its word again. -/
def execSigwRecheck (k : HartKey) (s : State) : Out :=
  s.inWait k false (fun _ w => match w.instr with | .sigw _ _ _ => true | _ => false) (fun s w => s.rerun w.instr)

/-- OVERDUE (R272): a WAITD has reached the due date with its copy not landed. -/
def execOverdue (k : HartKey) (s : State) : Out :=
  s.inWait k true (fun s w => match w.instr with
    | .waitd a => (match s.lookup (s.h.readA a) with
      | .ok (some r) => !r.over && decide (s.now ≥ r.due)
      | _ => false)
    | _ => false) (fun s w => s.rerun w.instr)

/-- QSTALL (R15, R135): a stall of this side has lasted longer than QWAIT and counts. -/
def execQstall (k : HartKey) (side : Side) (s : State) : Out :=
  if (s.canRun k side || (s.outOf k).any (s.stallDue k side)) && (s.hart k).calm .X then
    match (s.hart k).stallOver s.now side with
    | some q => let s1 := s.actAs k side; s1.stallTrap (s1.h.qstallTrap side q.1 q.2)
    | none => .next s
  else .next s

/-! ### Entries that arrive (R124, R301) -/

/-- MNBR_ENTRY_DELIVERY (R301): an MNBR or MCELL in progress pushes its next entry, or stalls. -/
def execMnbrEntryDelivery (k : HartKey) (s : State) : Out :=
  s.inWait k false (fun _ w => match w.instr with | .mnbr _ _ _ => true | .mcell _ _ _ => true | _ => false) (fun s w =>
    match w.instr with
    | .mnbr d a b => execMnbr d a b s
    | .mcell d a b => execMcell d a b s
    | _ => .next s)

/-- Make the first entry that has not arrived visible. -/
def showFirst : List Entry → List Entry
  | [] => []
  | e :: t => if e.visible then e :: showFirst t else { e with visible := true } :: t

/-- LOAD_ENTRY_ARRIVAL (R124). -/
def execLoadEntryArrival (k : HartKey) (q : Nat) (s : State) : Out :=
  match kvGet s.harts k with
  | none => .next s
  | some h =>
    let v := h.q.vload[four q]
    .next (s.setHart k { h with q := { h.q with vload := h.q.vload.set (four q) { v with items := showFirst v.items } } })

/-! ### Stores performed later (R145, R147, R163) -/

/-- Whether a pending store may be performed before the stores that stand before it: it touches none of
their bytes, a release and a store to an SC lease wait for all of them, and none passes a store to an SC lease (R144, R163,
R165). -/
def PendStore.free (p : PendStore) (before : List PendStore) : Bool :=
  if p.rel || p.sc then before.isEmpty else !before.any (fun o => o.sc || p.meets o)

/-- Whether a store may not be performed at all yet: its block is not whole (R152), a load before it has not been
performed (log 11), or it is a release before which a command has not ended (R164). -/
def Hart.bars (h : Hart) (p : PendStore) : Bool :=
  p.more.isSome || !h.overAll p.cmds || (match h.mem.pendLoad with | some l => decide (l.after ≤ p.id) | none => false)

/-- Perform a hart's pending store `n`. -/
def State.performPend (s : State) (k : HartKey) (n : Nat) (rd : Bool) : State :=
  let pend := (s.hart k).mem.pend
  match pend.find? (fun p => p.id == n && p.rd.isSome == rd) with
  | none => s
  | some p =>
    if p.free (pend.takeWhile (fun o => o.id != n)) && !(s.hart k).bars p && s.dev.warm.isNone then
      (s.performStore p).modHart k (fun h => { h with mem := { h.mem with pend := h.mem.pend.filter (fun o => o.id != n) } })
    else s

/-- STORE_PERFORMED (R147). -/
def execStorePerformed (k : HartKey) (n : Nat) (s : State) : Out :=
  match kvGet s.harts k with
  | none => .next s
  | some _ => .next (s.performPend k n false)

/-- RD_INVALIDATION_ACK (R145). -/
def execRdInvalidationAck (k : HartKey) (n : Nat) (s : State) : Out :=
  match kvGet s.harts k with
  | none => .next s
  | some _ => .next (s.performPend k n true)

/-! ### Words that are no instruction (R62) -/

/-- ILLEGAL_WORD (R62, R63): the running side has fetched a word that the tables do not hold. -/
def execIllegalWord (w : BitVec 32) (s : State) : Out :=
  match decode w with
  | .ok _ => .next s
  | .error _ =>
    if s.canRun s.own.cur s.own.side && s.h.calm s.own.side then State.illegal { s with own := { s.own with ir := w } } 0 else .next s

end Sys2Proof.Machine
end

