-- ==== Sys2Proof/Machine/Wear.lean ====
section
/-! DEFINITION. Wear and the charge of contexts (12_system R380 to R383), and clocks that sag or heat stretches
(13_device R386, R387). -/

namespace Sys2Proof.Machine

/-! ### Slowed cores (R274) -/

/-- Whether a booking is on a core's scratchpad port. -/
def Booking.onPort (b : Booking) (core : Nat) : Bool := match b.res with | .port c _ => c == core | _ => false

/-- A core's clock is stretched, or no longer, by a sag or by heat. What a stretch that ends has kept from being served
is known: the slots that it met (R274). -/
def State.stretch (s : State) (core : Nat) (f : Core → Core) : State :=
  let c := s.coreNo core
  let c1 := f c
  match c.slowAt with
  | some t =>
    if c1.sag || c1.heat then s.setCore core c1
    else (s.setCore core { c1 with slowAt := none }).slowBooked 1
      (fun b => b.onPort core && decide (t / 64 ≤ b.slot ∧ b.slot ≤ s.now / 64))
  | none => s.setCore core { c1 with slowAt := if c1.sag || c1.heat then some s.now else none }

/-- SUPPLY_SAG (R386). -/
def execSupplySag (core : Nat) (s : State) : Out := .next (s.stretch core (fun c => { c with sag := true }))

/-- SUPPLY_RECOVERY (R386). -/
def execSupplyRecovery (core : Nat) (s : State) : Out := .next (s.stretch core (fun c => { c with sag := false }))

/-- The cores of a die. -/
def dieCores (die : Nat) : List Nat := List.range' (128 * die) 128

/-- THERMAL_THROTTLE (R387). -/
def execThermalThrottle (die : Nat) (s : State) : Out :=
  .next ((dieCores die).foldl (fun t n => t.stretch n (fun c => { c with heat := true })) s)

/-- THERMAL_RECOVERY (R387). -/
def execThermalRecovery (die : Nat) (s : State) : Out :=
  .next ((dieCores die).foldl (fun t n => t.stretch n (fun c => { c with heat := false })) s)

/-! ### Accrual (R380 to R383) -/

/-- A core's record after an interval, with the state that it comes to (R381, R382). -/
def Core.accrue (c : Core) (a : Nat) : Core :=
  if c.st = .retired then c
  else
    let w := c.wear + a
    let c := { c with worn := c.worn || decide (w ≥ wornAt) }
    if w ≥ 220000000000000 then { c with wear := w, st := .drained, full := true }
    else if w ≥ 209000000000000 then { c with wear := w, st := .drained }
    else if w ≥ wornAt ∧ c.st = .nominal then { c with wear := w, st := .derated }
    else { c with wear := w }

/-- Ticks that an occupation shares with the interval from `lo`. -/
def overlapTk (lo a b : Nat) : Nat := min b (lo + accrualTk) - max a lo

/-- Who occupied a core, the caravan on it now included. -/
def State.occupants (s : State) (core : Nat) : List (Nat × Nat × Nat) :=
  (match s.onCore core with
   | some (_, v, _) => [((s.sliceNo v.slice).ctx, v.placedAt, s.now)]
   | none => []) ++ (s.coreNo core).occ

/-- Charge the contexts that occupied a core in the interval from `lo` their share of `a` µWU (R383). -/
def State.charge (s : State) (core lo a : Nat) : State :=
  let occ := s.occupants core
  ((occ.map (·.1)).eraseDups).foldl (fun t ctx =>
    let tk := (occ.filter (fun o => o.1 == ctx)).foldl (fun n o => n + overlapTk lo o.2.1 o.2.2) 0
    { t with ctxs := kvSet t.ctxs ctx { t.ctxNo ctx with charge := (t.ctxNo ctx).charge + a * tk / accrualTk } }) s

/-- The rate of a core's scratchpad port has fallen: of the slots not yet over, those booked for more than it now takes
are not served in full (R274). -/
def State.overbooked (s : State) (core : Nat) : State :=
  s.slowBooked 1 (fun b => b.onPort core && decide (s.now / 64 ≤ b.slot) &&
    decide (((s.books.filter (fun x => x.res == b.res && x.slot == b.slot)).foldl (fun n x => n + x.bytes) 0) > s.capOf b.res))

/-- One core's part of an accrual: `rates` gives its two factors (R380). -/
def State.accrueCore (s : State) (lo core bti em : Nat) : State :=
  let c := s.coreNo core
  if c.st = .retired then s
  else
    let a := max bti em
    let s1 := s.charge core lo a
    let c1 := { c.accrue a with occ := c.occ.filter (fun o => decide (o.2.2 > lo + accrualTk)) }
    let s2 := s1.setCore core c1
    let s3 := if !c.capped && c1.capped then s2.overbooked core else s2
    if c1.full then s3.evict core else s3

/-- The cores of the device. -/
def allCores : List Nat := List.range 512

/-- The two factors of a core in an interval: those given, the first that names it, or what the core measures. -/
def State.rateOf (s : State) (rates : List (Nat × Nat × Nat)) (core : Nat) : Nat × Nat :=
  ((rates.find? (fun r => r.1 == core)).map (·.2)).getD (Config.wearRate s.own.free core)

/-- WEAR_ACCRUAL (R380 to R383): every core adds its share for the interval that ended at the last multiple of
1 000 000 tk not yet accrued; `rates` holds core, A_bti and A_em, and a core it does not name has free ones (log 26). -/
def execWearAccrual (rates : List (Nat × Nat × Nat)) (s : State) : Out :=
  let lo := s.dev.accrued
  if s.now < lo + accrualTk then .next s
  else
    let s1 := allCores.foldl (fun t c => t.accrueCore lo c (s.rateOf rates c).1 (s.rateOf rates c).2) s
    .next { s1 with ctxs := s1.ctxs.map (fun c => (c.1, c.2.show)), dev := { s1.dev with accrued := lo + accrualTk } }

/-- WEAR_RECORD_SAVE (R380). -/
def execWearRecordSave (s : State) : Out := .next s.saveWear

/-- ORDERLY_SHUTDOWN (R380). -/
def execOrderlyShutdown (s : State) : Out := .next s.saveWear

end Sys2Proof.Machine
end

