-- ==== Sys2Proof/Machine/Dispatch.lean ====
section
/-! DEFINITION. One arm per constructor: the meaning of every instruction word and event. -/

namespace Sys2Proof.Machine

/-- What an instruction or event does. -/
def exec (i : Instr) (s : State) : Host.Outcome State Fault Refusal :=
  match i with
  | .add d a b => Sys2Proof.Machine.execAdd d a b s
  | .sub d a b => Sys2Proof.Machine.execSub d a b s
  | .and d a b => Sys2Proof.Machine.execAnd d a b s
  | .or d a b => Sys2Proof.Machine.execOr d a b s
  | .xor d a b => Sys2Proof.Machine.execXor d a b s
  | .sll d a b => Sys2Proof.Machine.execSll d a b s
  | .srl d a b => Sys2Proof.Machine.execSrl d a b s
  | .sra d a b => Sys2Proof.Machine.execSra d a b s
  | .slt d a b => Sys2Proof.Machine.execSlt d a b s
  | .sltn d a b => Sys2Proof.Machine.execSltn d a b s
  | .min d a b => Sys2Proof.Machine.execMin d a b s
  | .max d a b => Sys2Proof.Machine.execMax d a b s
  | .minn d a b => Sys2Proof.Machine.execMinn d a b s
  | .maxn d a b => Sys2Proof.Machine.execMaxn d a b s
  | .mul d a b => Sys2Proof.Machine.execMul d a b s
  | .mulh d a b => Sys2Proof.Machine.execMulh d a b s
  | .mulhn d a b => Sys2Proof.Machine.execMulhn d a b s
  | .div d a b => Sys2Proof.Machine.execDiv d a b s
  | .divn d a b => Sys2Proof.Machine.execDivn d a b s
  | .rem d a b => Sys2Proof.Machine.execRem d a b s
  | .remn d a b => Sys2Proof.Machine.execRemn d a b s
  | .clz d a => Sys2Proof.Machine.execClz d a s
  | .ctz d a => Sys2Proof.Machine.execCtz d a s
  | .popc d a => Sys2Proof.Machine.execPopc d a s
  | .brev d a => Sys2Proof.Machine.execBrev d a s
  | .addi d a imm => Sys2Proof.Machine.execAddi d a imm s
  | .andi d a imm => Sys2Proof.Machine.execAndi d a imm s
  | .ori d a imm => Sys2Proof.Machine.execOri d a imm s
  | .xori d a imm => Sys2Proof.Machine.execXori d a imm s
  | .slli d a sh => Sys2Proof.Machine.execSlli d a sh s
  | .srli d a sh => Sys2Proof.Machine.execSrli d a sh s
  | .srai d a sh => Sys2Proof.Machine.execSrai d a sh s
  | .slti d a imm => Sys2Proof.Machine.execSlti d a imm s
  | .lih d imm => Sys2Proof.Machine.execLih d imm s
  | .beq a b off => Sys2Proof.Machine.execBeq a b off s
  | .bne a b off => Sys2Proof.Machine.execBne a b off s
  | .blt a b off => Sys2Proof.Machine.execBlt a b off s
  | .bge a b off => Sys2Proof.Machine.execBge a b off s
  | .bltn a b off => Sys2Proof.Machine.execBltn a b off s
  | .bgen a b off => Sys2Proof.Machine.execBgen a b off s
  | .jal d off => Sys2Proof.Machine.execJal d off s
  | .jalr d a imm => Sys2Proof.Machine.execJalr d a imm s
  | .loop a e => Sys2Proof.Machine.execLoop a e s
  | .loopi count e => Sys2Proof.Machine.execLoopi count e s
  | .lidx d l => Sys2Proof.Machine.execLidx d l s
  | .lbrk l => Sys2Proof.Machine.execLbrk l s
  | .csrr d c => Sys2Proof.Machine.execCsrr d c s
  | .csrw d a c => Sys2Proof.Machine.execCsrw d a c s
  | .csrs d a c => Sys2Proof.Machine.execCsrs d a c s
  | .csrc d a c => Sys2Proof.Machine.execCsrc d a c s
  | .ecall => Sys2Proof.Machine.execEcall s
  | .eret => Sys2Proof.Machine.execEret s
  | .brk => Sys2Proof.Machine.execBrk s
  | .wfe => Sys2Proof.Machine.execWfe s
  | .fence pred succ scope => Sys2Proof.Machine.execFence pred succ scope s
  | .fencei => Sys2Proof.Machine.execFencei s
  | .fadd t rm d a b => Sys2Proof.Machine.execFadd t rm d a b s
  | .fsub t rm d a b => Sys2Proof.Machine.execFsub t rm d a b s
  | .fmul t rm d a b => Sys2Proof.Machine.execFmul t rm d a b s
  | .fdiv t rm d a b => Sys2Proof.Machine.execFdiv t rm d a b s
  | .fsqrt t rm d a => Sys2Proof.Machine.execFsqrt t rm d a s
  | .ffma t rm d a b => Sys2Proof.Machine.execFfma t rm d a b s
  | .fmin t d a b => Sys2Proof.Machine.execFmin t d a b s
  | .fmax t d a b => Sys2Proof.Machine.execFmax t d a b s
  | .fcmp t c d a b => Sys2Proof.Machine.execFcmp t c d a b s
  | .fcvt t k rm d a => Sys2Proof.Machine.execFcvt t k rm d a s
  | .ldb d a imm => Sys2Proof.Machine.execLdb d a imm s
  | .ldbn d a imm => Sys2Proof.Machine.execLdbn d a imm s
  | .ldh d a imm => Sys2Proof.Machine.execLdh d a imm s
  | .ldhn d a imm => Sys2Proof.Machine.execLdhn d a imm s
  | .ldw d a imm => Sys2Proof.Machine.execLdw d a imm s
  | .ldwn d a imm => Sys2Proof.Machine.execLdwn d a imm s
  | .ldd d a imm => Sys2Proof.Machine.execLdd d a imm s
  | .stb d a imm => Sys2Proof.Machine.execStb d a imm s
  | .sth d a imm => Sys2Proof.Machine.execSth d a imm s
  | .stw d a imm => Sys2Proof.Machine.execStw d a imm s
  | .std d a imm => Sys2Proof.Machine.execStd d a imm s
  | .sptest d a => Sys2Proof.Machine.execSptest d a s
  | .spcast d a => Sys2Proof.Machine.execSpcast d a s
  | .pushs q a => Sys2Proof.Machine.execPushs q a s
  | .pops d q => Sys2Proof.Machine.execPops d q s
  | .strip d a b n lmul sew => Sys2Proof.Machine.execStrip d a b n lmul sew s
  | .setvl d a => Sys2Proof.Machine.execSetvl d a s
  | .vltake d => Sys2Proof.Machine.execVltake d s
  | .lchk d a b => Sys2Proof.Machine.execLchk d a b s
  | .vld q b acq nt e => Sys2Proof.Machine.execVld q b acq nt e s
  | .vlds q b r acq nt e => Sys2Proof.Machine.execVlds q b r acq nt e s
  | .vldx q b x acq nt dedup e => Sys2Proof.Machine.execVldx q b x acq nt dedup e s
  | .vldff q b acq nt e => Sys2Proof.Machine.execVldff q b acq nt e s
  | .vldp q b r pl acq nt rnd fam => Sys2Proof.Machine.execVldp q b r pl acq nt rnd fam s
  | .vst q b rel nt e => Sys2Proof.Machine.execVst q b rel nt e s
  | .vsts q b r rel nt e => Sys2Proof.Machine.execVsts q b r rel nt e s
  | .vstx q b x rel nt e => Sys2Proof.Machine.execVstx q b x rel nt e s
  | .vstxadd q b x rel nt fp e => Sys2Proof.Machine.execVstxadd q b x rel nt fp e s
  | .vstp q b r pl rel nt zlow fam => Sys2Proof.Machine.execVstp q b r pl rel nt zlow fam s
  | .amoadd d a b acq rel sc w64 => Sys2Proof.Machine.execAmoadd d a b acq rel sc w64 s
  | .amoand d a b acq rel sc w64 => Sys2Proof.Machine.execAmoand d a b acq rel sc w64 s
  | .amoor d a b acq rel sc w64 => Sys2Proof.Machine.execAmoor d a b acq rel sc w64 s
  | .amoxor d a b acq rel sc w64 => Sys2Proof.Machine.execAmoxor d a b acq rel sc w64 s
  | .amomin d a b acq rel sc w64 => Sys2Proof.Machine.execAmomin d a b acq rel sc w64 s
  | .amomax d a b acq rel sc w64 => Sys2Proof.Machine.execAmomax d a b acq rel sc w64 s
  | .amominn d a b acq rel sc w64 => Sys2Proof.Machine.execAmominn d a b acq rel sc w64 s
  | .amomaxn d a b acq rel sc w64 => Sys2Proof.Machine.execAmomaxn d a b acq rel sc w64 s
  | .amoswap d a b acq rel sc w64 => Sys2Proof.Machine.execAmoswap d a b acq rel sc w64 s
  | .amocas d a b acq rel sc w64 => Sys2Proof.Machine.execAmocas d a b acq rel sc w64 s
  | .amofadd d a b acq rel sc w64 => Sys2Proof.Machine.execAmofadd d a b acq rel sc w64 s
  | .vfadd d a b fm pg rm => Sys2Proof.Machine.execVfadd d a b fm pg rm s
  | .vfsub d a b fm pg rm => Sys2Proof.Machine.execVfsub d a b fm pg rm s
  | .vfmul d a b fm pg rm => Sys2Proof.Machine.execVfmul d a b fm pg rm s
  | .vfdiv d a b fm pg rm => Sys2Proof.Machine.execVfdiv d a b fm pg rm s
  | .vfsqrt d a pg rm => Sys2Proof.Machine.execVfsqrt d a pg rm s
  | .vfma d a b fm pg rm => Sys2Proof.Machine.execVfma d a b fm pg rm s
  | .vfms d a b fm pg rm => Sys2Proof.Machine.execVfms d a b fm pg rm s
  | .vfnma d a b fm pg rm => Sys2Proof.Machine.execVfnma d a b fm pg rm s
  | .vfnms d a b fm pg rm => Sys2Proof.Machine.execVfnms d a b fm pg rm s
  | .vfmin d a b fm pg => Sys2Proof.Machine.execVfmin d a b fm pg s
  | .vfmax d a b fm pg => Sys2Proof.Machine.execVfmax d a b fm pg s
  | .vfabs d a pg => Sys2Proof.Machine.execVfabs d a pg s
  | .vfneg d a pg => Sys2Proof.Machine.execVfneg d a pg s
  | .vfrcp d a pg rm => Sys2Proof.Machine.execVfrcp d a pg rm s
  | .vfrsq d a pg rm => Sys2Proof.Machine.execVfrsq d a pg rm s
  | .vfcmp d a b fm pg c => Sys2Proof.Machine.execVfcmp d a b fm pg c s
  | .vadd d a b fm pg => Sys2Proof.Machine.execVadd d a b fm pg s
  | .vsub d a b fm pg => Sys2Proof.Machine.execVsub d a b fm pg s
  | .vmul d a b fm pg => Sys2Proof.Machine.execVmul d a b fm pg s
  | .vmulh d a b fm pg => Sys2Proof.Machine.execVmulh d a b fm pg s
  | .vand d a b fm pg => Sys2Proof.Machine.execVand d a b fm pg s
  | .vor d a b fm pg => Sys2Proof.Machine.execVor d a b fm pg s
  | .vxor d a b fm pg => Sys2Proof.Machine.execVxor d a b fm pg s
  | .vsll d a b fm pg => Sys2Proof.Machine.execVsll d a b fm pg s
  | .vsrl d a b fm pg => Sys2Proof.Machine.execVsrl d a b fm pg s
  | .vsra d a b fm pg => Sys2Proof.Machine.execVsra d a b fm pg s
  | .vmin d a b fm pg => Sys2Proof.Machine.execVmin d a b fm pg s
  | .vmax d a b fm pg => Sys2Proof.Machine.execVmax d a b fm pg s
  | .vminn d a b fm pg => Sys2Proof.Machine.execVminn d a b fm pg s
  | .vmaxn d a b fm pg => Sys2Proof.Machine.execVmaxn d a b fm pg s
  | .vcmp d a b fm pg c => Sys2Proof.Machine.execVcmp d a b fm pg c s
  | .vcvt d a rm pg t => Sys2Proof.Machine.execVcvt d a rm pg t s
  | .vmv d a pg => Sys2Proof.Machine.execVmv d a pg s
  | .vbcast d b fm pg => Sys2Proof.Machine.execVbcast d b fm pg s
  | .vmerge d a b fm pg => Sys2Proof.Machine.execVmerge d a b fm pg s
  | .vslideup d a k fm pg => Sys2Proof.Machine.execVslideup d a k fm pg s
  | .vslidedn d a k fm pg => Sys2Proof.Machine.execVslidedn d a k fm pg s
  | .vperm d a b pg => Sys2Proof.Machine.execVperm d a b pg s
  | .vcomp d a pg => Sys2Proof.Machine.execVcomp d a pg s
  | .vexpd d a pg => Sys2Proof.Machine.execVexpd d a pg s
  | .vextr d a k fm => Sys2Proof.Machine.execVextr d a k fm s
  | .vins d a k fm => Sys2Proof.Machine.execVins d a k fm s
  | .viota d pg => Sys2Proof.Machine.execViota d pg s
  | .vredsum d a pg rm => Sys2Proof.Machine.execVredsum d a pg rm s
  | .vredtree d a pg rm => Sys2Proof.Machine.execVredtree d a pg rm s
  | .vredmax d a pg => Sys2Proof.Machine.execVredmax d a pg s
  | .vredmin d a pg => Sys2Proof.Machine.execVredmin d a pg s
  | .vscan d a pg rm => Sys2Proof.Machine.execVscan d a pg rm s
  | .pand d a b => Sys2Proof.Machine.execPand d a b s
  | .por d a b => Sys2Proof.Machine.execPor d a b s
  | .pxor d a b => Sys2Proof.Machine.execPxor d a b s
  | .pandn d a b => Sys2Proof.Machine.execPandn d a b s
  | .pnot d a => Sys2Proof.Machine.execPnot d a s
  | .pcnt d a => Sys2Proof.Machine.execPcnt d a s
  | .pfirst d a => Sys2Proof.Machine.execPfirst d a s
  | .pset d => Sys2Proof.Machine.execPset d s
  | .pclr d => Sys2Proof.Machine.execPclr d s
  | .pmov d a => Sys2Proof.Machine.execPmov d a s
  | .vpsplit d a pg fam n => Sys2Proof.Machine.execVpsplit d a pg fam n s
  | .vpjoin d a pg fam n => Sys2Proof.Machine.execVpjoin d a pg fam n s
  | .vptrunc d a pg fam n => Sys2Proof.Machine.execVptrunc d a pg fam n s
  | .vprnd d a pg fam n => Sys2Proof.Machine.execVprnd d a pg fam n s
  | .vqmx d a pg => Sys2Proof.Machine.execVqmx d a pg s
  | .vdqmx d a b pg => Sys2Proof.Machine.execVdqmx d a b pg s
  | .vpacc d a pg n => Sys2Proof.Machine.execVpacc d a pg n s
  | .vadamw d a b pg => Sys2Proof.Machine.execVadamw d a b pg s
  | .vsgdm d a b pg => Sys2Proof.Machine.execVsgdm d a b pg s
  | .mma c a b pg t => Sys2Proof.Machine.execMma c a b pg t s
  | .mmap c a b pg => Sys2Proof.Machine.execMmap c a b pg s
  | .mmaz c t => Sys2Proof.Machine.execMmaz c t s
  | .mtrans c b t => Sys2Proof.Machine.execMtrans c b t s
  | .psnget d => Sys2Proof.Machine.execPsnget d s
  | .psnclr => Sys2Proof.Machine.execPsnclr s
  | .cpy d a => Sys2Proof.Machine.execCpy d a s
  | .due d a => Sys2Proof.Machine.execDue d a s
  | .waitd a => Sys2Proof.Machine.execWaitd a s
  | .waith a b => Sys2Proof.Machine.execWaith a b s
  | .cpyst d a => Sys2Proof.Machine.execCpyst d a s
  | .abinit d a b => Sys2Proof.Machine.execAbinit d a b s
  | .waitab a b => Sys2Proof.Machine.execWaitab a b s
  | .mopen d a => Sys2Proof.Machine.execMopen d a s
  | .mnbr d a b => Sys2Proof.Machine.execMnbr d a b s
  | .mcell d a b => Sys2Proof.Machine.execMcell d a b s
  | .mmark a b => Sys2Proof.Machine.execMmark a b s
  | .madapt d a b => Sys2Proof.Machine.execMadapt d a b s
  | .mcut d a b => Sys2Proof.Machine.execMcut d a b s
  | .mmig d a b => Sys2Proof.Machine.execMmig d a b s
  | .mhalo d a b => Sys2Proof.Machine.execMhalo d a b s
  | .bhist d a => Sys2Proof.Machine.execBhist d a s
  | .bscan d a => Sys2Proof.Machine.execBscan d a s
  | .btopk d a => Sys2Proof.Machine.execBtopk d a s
  | .broute d a => Sys2Proof.Machine.execBroute d a s
  | .bcolor d a => Sys2Proof.Machine.execBcolor d a s
  | .bseg d a => Sys2Proof.Machine.execBseg d a s
  | .barw b => Sys2Proof.Machine.execBarw b s
  | .bara => Sys2Proof.Machine.execBara s
  | .barq d => Sys2Proof.Machine.execBarq d s
  | .sigw d a b => Sys2Proof.Machine.execSigw d a b s
  | .yield => Sys2Proof.Machine.execYield s
  | .launch d a => Sys2Proof.Machine.execLaunch d a s
  | .illegalWord w => Sys2Proof.Machine.execIllegalWord w s
  | .qstall k side => Sys2Proof.Machine.execQstall k side s
  | .waittime k => Sys2Proof.Machine.execWaittime k s
  | .waitEnd k => Sys2Proof.Machine.execWaitEnd k s
  | .sigwRecheck k => Sys2Proof.Machine.execSigwRecheck k s
  | .overdue k => Sys2Proof.Machine.execOverdue k s
  | .budgetExhausted c => Sys2Proof.Machine.execBudgetExhausted c s
  | .budgetExtension c => Sys2Proof.Machine.execBudgetExtension c s
  | .dispatcherDecision die pick => Sys2Proof.Machine.execDispatcherDecision die pick s
  | .forcedStop c => Sys2Proof.Machine.execForcedStop c s
  | .caravanSave c => Sys2Proof.Machine.execCaravanSave c s
  | .saveImageWritten c => Sys2Proof.Machine.execSaveImageWritten c s
  | .caravanRetire c => Sys2Proof.Machine.execCaravanRetire c s
  | .sliceFailedEnd n => Sys2Proof.Machine.execSliceFailedEnd n s
  | .endReport n => Sys2Proof.Machine.execEndReport n s
  | .copyChunkLanding n => Sys2Proof.Machine.execCopyChunkLanding n s
  | .copyCompletion n => Sys2Proof.Machine.execCopyCompletion n s
  | .linkFailure p => Sys2Proof.Machine.execLinkFailure p s
  | .linkRetransmission p => Sys2Proof.Machine.execLinkRetransmission p s
  | .remoteAccessRequest r => Sys2Proof.Machine.execRemoteAccessRequest r s
  | .remoteRefusal n => Sys2Proof.Machine.execRemoteRefusal n s
  | .mnbrEntryDelivery k => Sys2Proof.Machine.execMnbrEntryDelivery k s
  | .loadEntryArrival k q => Sys2Proof.Machine.execLoadEntryArrival k q s
  | .storePerformed k n => Sys2Proof.Machine.execStorePerformed k n s
  | .rdInvalidationAck k n => Sys2Proof.Machine.execRdInvalidationAck k n s
  | .topologyCommandCompletion n => Sys2Proof.Machine.execTopologyCommandCompletion n s
  | .collectTimeout die mesh => Sys2Proof.Machine.execCollectTimeout die mesh s
  | .generationCommit die mesh => Sys2Proof.Machine.execGenerationCommit die mesh s
  | .bazaarCommandCompletion cluster => Sys2Proof.Machine.execBazaarCommandCompletion cluster s
  | .hostDemand ctx region => Sys2Proof.Machine.execHostDemand ctx region s
  | .regionMoveComplete ctx region => Sys2Proof.Machine.execRegionMoveComplete ctx region s
  | .submissionSlotRead fn q pick => Sys2Proof.Machine.execSubmissionSlotRead fn q pick s
  | .submissionEnd n => Sys2Proof.Machine.execSubmissionEnd n s
  | .nodeLaunch g pick => Sys2Proof.Machine.execNodeLaunch g pick s
  | .nodeCopy g => Sys2Proof.Machine.execNodeCopy g s
  | .nodeSignal g => Sys2Proof.Machine.execNodeSignal g s
  | .nodeWait g => Sys2Proof.Machine.execNodeWait g s
  | .nodeCond g => Sys2Proof.Machine.execNodeCond g s
  | .nodeLoop g => Sys2Proof.Machine.execNodeLoop g s
  | .nodeEnd g => Sys2Proof.Machine.execNodeEnd g s
  | .qtailWrite fn q v => Sys2Proof.Machine.execQtailWrite fn q v s
  | .qbaseWrite fn q v => Sys2Proof.Machine.execQbaseWrite fn q v s
  | .qsizeWrite fn q v => Sys2Proof.Machine.execQsizeWrite fn q v s
  | .ctxctlWrite ctx v => Sys2Proof.Machine.execCtxctlWrite ctx v s
  | .ctxrootWrite ctx v => Sys2Proof.Machine.execCtxrootWrite ctx v s
  | .featreqWrite v => Sys2Proof.Machine.execFeatreqWrite v s
  | .fwstageWrite fn v => Sys2Proof.Machine.execFwstageWrite fn v s
  | .fwReplacementComplete => Sys2Proof.Machine.execFwReplacementComplete s
  | .fwReplacementTimeout => Sys2Proof.Machine.execFwReplacementTimeout s
  | .dbgctlHaltreq core => Sys2Proof.Machine.execDbgctlHaltreq core s
  | .hartHalted core => Sys2Proof.Machine.execHartHalted core s
  | .dbgctlResume core => Sys2Proof.Machine.execDbgctlResume core s
  | .debugBlockAccess core off wr => Sys2Proof.Machine.execDebugBlockAccess core off wr s
  | .queueIndexWordWrite k code v => Sys2Proof.Machine.execQueueIndexWordWrite k code v s
  | .stickyClear k v => Sys2Proof.Machine.execStickyClear k v s
  | .registerWrite t v => Sys2Proof.Machine.execRegisterWrite t v s
  | .coreError core => Sys2Proof.Machine.execCoreError core s
  | .warmReset r => Sys2Proof.Machine.execWarmReset r s
  | .warmResetReady => Sys2Proof.Machine.execWarmResetReady s
  | .wearAccrual rates => Sys2Proof.Machine.execWearAccrual rates s
  | .wearRecordSave => Sys2Proof.Machine.execWearRecordSave s
  | .coreFuse core => Sys2Proof.Machine.execCoreFuse core s
  | .supplySag core => Sys2Proof.Machine.execSupplySag core s
  | .supplyRecovery core => Sys2Proof.Machine.execSupplyRecovery core s
  | .thermalThrottle die => Sys2Proof.Machine.execThermalThrottle die s
  | .thermalRecovery die => Sys2Proof.Machine.execThermalRecovery die s
  | .thermalShutdown => Sys2Proof.Machine.execThermalShutdown s
  | .coldReset slotA slotB => Sys2Proof.Machine.execColdReset slotA slotB s
  | .unitReady u => Sys2Proof.Machine.execUnitReady u s
  | .unitFailure u => Sys2Proof.Machine.execUnitFailure u s
  | .watchdogEndCaravan c => Sys2Proof.Machine.execWatchdogEndCaravan c s
  | .watchdogEndSlice n => Sys2Proof.Machine.execWatchdogEndSlice n s
  | .cpRestart => Sys2Proof.Machine.execCpRestart s
  | .dieQuiesce die => Sys2Proof.Machine.execDieQuiesce die s
  | .watchdogWarmReset r => Sys2Proof.Machine.execWatchdogWarmReset r s
  | .coldResetRequest => Sys2Proof.Machine.execColdResetRequest s
  | .deviceNumberAssign n => Sys2Proof.Machine.execDeviceNumberAssign n s
  | .getVersion fn => Sys2Proof.Machine.execGetVersion fn s
  | .getCapabilities fn => Sys2Proof.Machine.execGetCapabilities fn s
  | .negotiateAlgorithms fn p521 sha512 => Sys2Proof.Machine.execNegotiateAlgorithms fn p521 sha512 s
  | .getDigests fn => Sys2Proof.Machine.execGetDigests fn s
  | .getCertificate fn slot => Sys2Proof.Machine.execGetCertificate fn slot s
  | .challenge fn nonce => Sys2Proof.Machine.execChallenge fn nonce s
  | .getMeasurements fn index => Sys2Proof.Machine.execGetMeasurements fn index s
  | .loadPerformed k => Sys2Proof.Machine.execLoadPerformed k s
  | .powerLoss => Sys2Proof.Machine.execPowerLoss s
  | .orderlyShutdown => Sys2Proof.Machine.execOrderlyShutdown s
  | .nodeLimitExpired g => Sys2Proof.Machine.execNodeLimitExpired g s
  | .operatorRetireRequest core => Sys2Proof.Machine.execOperatorRetireRequest core s

end Sys2Proof.Machine
end

