-- ==== Sys2Proof/Machine/Ahead.lean ====
section
/-! DEFINITION. The turn of one side of a hart (log 1): it runs its instruction; while a load or AMO of the A side has
not been performed, the A side may run later instructions that do not name its d (05_order R157), and a trap
waits for it and for a vector access that is under way (12_system R361). -/

namespace Sys2Proof

/-- An A-side register that a field names; an index source of 28 to 31 names a queue (R57). -/
def idxReg (x : Reg) : List Reg := if isQ x then [] else [x]

/-- The A-side registers that a word names, for the words that may run ahead of a load or AMO: scalar arithmetic,
branches, jumps, loops, accesses, scalar queues, lengths and CSRs (log 11). -/
def Instr.ahead? (i : Instr) : Option (List Reg) :=
  match i with
  | .add d a b | .sub d a b | .and d a b | .or d a b | .xor d a b | .sll d a b | .srl d a b | .sra d a b
  | .slt d a b | .sltn d a b | .min d a b | .max d a b | .minn d a b | .maxn d a b | .mul d a b | .mulh d a b
  | .mulhn d a b | .div d a b | .divn d a b | .rem d a b | .remn d a b | .lchk d a b => some [d, a, b]
  | .clz d a | .ctz d a | .popc d a | .brev d a | .sptest d a | .spcast d a => some [d, a]
  | .addi d a _ | .andi d a _ | .ori d a _ | .xori d a _ | .slti d a _ | .jalr d a _ => some [d, a]
  | .slli d a _ | .srli d a _ | .srai d a _ => some [d, a]
  | .lih d _ | .jal d _ | .lidx d _ | .csrr d _ | .barq d | .pops d _ => some [d]
  | .beq a b _ | .bne a b _ | .blt a b _ | .bge a b _ | .bltn a b _ | .bgen a b _ => some [a, b]
  | .loop a _ | .pushs _ a => some [a]
  | .loopi .. | .lbrk .. => some []
  | .csrw d a _ | .csrs d a _ | .csrc d a _ => some [d, a]
  | .strip d a b n _ _ => some (d :: a :: (List.range n.toNat).map (fun k => b + BitVec.ofNat 5 k))
  | .ldb d a _ | .ldbn d a _ | .ldh d a _ | .ldhn d a _ | .ldw d a _ | .ldwn d a _ | .ldd d a _ => some [d, a]
  | .stb d a _ | .sth d a _ | .stw d a _ | .std d a _ => some [d, a]
  | .vld _ b _ _ _ | .vldff _ b _ _ _ | .vst _ b _ _ _ => some [b]
  | .vlds _ b r _ _ _ | .vsts _ b r _ _ _ | .vldp _ b r _ _ _ _ _ | .vstp _ b r _ _ _ _ _ => some [b, r]
  | .vldx _ b x _ _ _ _ | .vstx _ b x _ _ _ | .vstxadd _ b x _ _ _ _ => some (b :: idxReg x)
  | _ => none

end Sys2Proof

namespace Sys2Proof.Machine

/-- The register that a deferred load or AMO will write. -/
def PendLoad.dest (l : PendLoad) : Reg :=
  match l.instr.amo?, l.instr.load? with
  | some m, _ => m.d
  | none, some (d, _) => d
  | none, none => 0

/-- Whether an instruction may run while a load or AMO is outstanding: it neither reads nor writes its d (R157). -/
def PendLoad.lets (l : PendLoad) (i : Instr) : Bool :=
  match i.ahead? with
  | some rs => l.dest == 0 || !rs.contains l.dest
  | none => false

/-- The A side moves past its outstanding load, keeping how the hart stood there. -/
def Hart.past (h : Hart) (l : PendLoad) : Hart :=
  match l.ahead with
  | some _ => h
  | none => { h with a := h.a.advance, mem := { h.mem with pendLoad := some { l with ahead := some ⟨h.a, h.x, h.regs, h.q, h.csr, h.mem.got⟩ } } }

/-- Whether an instruction has run with no trap, stop or effect outside its hart; it may stall on a queue. -/
def State.quietly (s t : State) (k : HartKey) : Bool :=
  decide ((t.hart k).tr = (s.hart k).tr ∧ t.cars = s.cars ∧ t.slices = s.slices) &&
    (t.hart k).a.wait.all (fun w => w.queue.isSome) && (t.hart k).a.stop.isNone && !(t.hart k).a.ended

/-- The A side runs an instruction past its outstanding load or AMO (R157), where that instruction stays inside its hart
and does not stop; not past a load that stands at a yield point with PREQ pending, and not in single steps (log 11). -/
def State.runAhead (s : State) (k : HartKey) (l : PendLoad) : Out :=
  let s1 := s.modHart k (fun h => h.past l)
  if !s.awake k .A || (l.ahead.isNone && atEnd (s.hart k).a && (s.hart k).csr.preq && !(s.hart k).tr.smode) ||
      (s.hart k).tr.stepa then .next s
  else
    match s1.fetchAt k .A with
    | .error _ => .next s
    | .ok (i, s2) =>
      if l.lets i then
        match exec i s2 with
        | .next t => if s.quietly t k then .next t else .next s
        | _ => .next s
      else .next s

/-- A trap of a hart waits until the A side stands where it can stop (R361). -/
def State.settled (s : State) (k : HartKey) (sd : Side) (o : Out) : Out :=
  if (s.hart k).calm sd then o
  else match o with
    | .next t => if (t.hart k).tr = (s.hart k).tr then o else .next s
    | _ => o

/-- One side of a hart runs. -/
def State.runSide (s : State) (k : HartKey) (sd : Side) : Out :=
  match sd, (s.hart k).mem.pendLoad with
  | .A, some l => s.runAhead k l
  | _, _ =>
    s.settled k sd (match s.issueOf k sd with
      | .ok (i, s1) => exec i s1
      | .error o => o)

end Sys2Proof.Machine
end

