-- ==== Sys2Proof/Machine/Bar.lean ====
section
/-! DEFINITION. BAR0 of a function as the host accesses it: offsets, reads and writes (13_device R390 to R395, R401). -/

namespace Sys2Proof.Machine

/-- The registers of BAR0 (R390). `w` is the word of an entry of four words. -/
inductive BarReg where
  | ready | featoff | featreq | fwslot | fwstage
  | qbase (q : Nat) | qsize (q : Nat) | qtail (q : Nat) | qhead (q : Nat)
  | ctxctl (c : Nat) | ctxroot (c : Nat) | ctxallow (c : Nat) | rwin (c k w : Nat) | exprt (c k w : Nat)
deriving DecidableEq, Repr, Inhabited

/-- A register of a queue, by its offset in the block of 0x40 bytes. -/
def barQueue (q o : Nat) : Option BarReg :=
  if o = 0x00 then some (.qbase q) else if o = 0x08 then some (.qsize q)
  else if o = 0x10 then some (.qtail q) else if o = 0x18 then some (.qhead q) else none

/-- A register of a context, by its offset in the block of 0x1000 bytes. -/
def barCtx (c o : Nat) : Option BarReg :=
  if o = 0x000 then some (.ctxctl c) else if o = 0x008 then some (.ctxroot c) else if o = 0x010 then some (.ctxallow c)
  else if 0x100 ≤ o ∧ o < 0x300 then some (.rwin c ((o - 0x100) / 0x20) ((o - 0x100) % 0x20 / 8))
  else if 0x400 ≤ o ∧ o < 0x600 then some (.exprt c ((o - 0x400) / 0x20) ((o - 0x400) % 0x20 / 8))
  else none

/-- The register at an offset of BAR0 (R390): registers are 8 bytes and stand at multiples of 8. -/
def barReg (off : Nat) : Option BarReg :=
  if off % 8 ≠ 0 then none
  else if off = 0x00 then some .ready else if off = 0x08 then some .featoff else if off = 0x10 then some .featreq
  else if off = 0x18 then some .fwslot else if off = 0x20 then some .fwstage
  else if 0x10000 ≤ off ∧ off < 0x10000 + 0x40 * 32 then barQueue ((off - 0x10000) / 0x40) ((off - 0x10000) % 0x40)
  else if 0x100000 ≤ off ∧ off < 0x100000 + 0x1000 * contexts then
    barCtx ((off - 0x100000) / 0x1000) ((off - 0x100000) % 0x1000)
  else none

/-- FWSLOT (R390): the active slot, whether the last replacement failed, and the active image's SVN. -/
def Device.fwslot (d : Device) : Word :=
  BitVec.ofNat 64 ((if d.slotB then 1 else 0) + (if d.last then 2 else 0) + 2 ^ 16 * (d.svn % 2 ^ 16))

/-- A word of a four-word entry, zero where nothing was written. -/
def entryWord (l : List (Nat × Vector Word 4)) (k w : Nat) : Word := (kvGetD l k (Vector.replicate 4 0)).get (four w)

/-- What a register of BAR0 reads as (R7, R8, R390). -/
def State.barValue (s : State) (fn : Nat) (r : BarReg) : Word :=
  match r with
  | .ready => s.dev.ready
  | .featoff => s.dev.featoff.setWidth 64
  | .featreq => s.dev.featreq.setWidth 64
  | .fwslot => s.dev.fwslot
  | .fwstage => s.dev.fwstage.get (function fn)
  | .qbase q => word (s.queue fn q).base
  | .qsize q => word (s.queue fn q).lsize
  | .qtail q => (s.queue fn q).tail.setWidth 64
  | .qhead q => (s.queue fn q).head.setWidth 64
  | .ctxctl c => word ((if (s.ctxNo c).valid then 1 else 0) + (if (s.ctxNo c).failed then 2 else 0))
  | .ctxroot c => word (s.ctxNo c).root
  | .ctxallow c => word (s.ctxNo c).allow
  | .rwin c k w => entryWord (s.ctxNo c).rwins k w
  | .exprt c k w => entryWord (s.ctxNo c).expts k w

/-- A write of a register of BAR0: the event of that register; read-only registers ignore it (R7). -/
def State.barWrite (s : State) (fn : Nat) (r : BarReg) (v : Word) : Out :=
  match r with
  | .ready | .featoff | .fwslot | .qhead _ => .next s
  | .featreq => execFeatreqWrite v s
  | .fwstage => execFwstageWrite fn v s
  | .qbase q => execQbaseWrite fn q v s
  | .qsize q => execQsizeWrite fn q v s
  | .qtail q => execQtailWrite fn q v s
  | .ctxctl c => execCtxctlWrite c v s
  | .ctxroot c => execCtxrootWrite c v s
  | .ctxallow c => execRegisterWrite (.ctxallow c) v s
  | .rwin c k w => execRegisterWrite (.rwin c k w) v s
  | .exprt c k w => execRegisterWrite (.exprt c k w) v s

/-- The host reads BAR0: zero where the size is not 8 or no register stands; after a request for a cold reset it gets a
completion error instead (R399). -/
def State.barLoad (s : State) (fn off size : Nat) : Option Word :=
  if s.dev.coldReq then none
  else
    match size == 8, barReg off with
    | true, some r => some (s.barValue fn r)
    | _, _ => some 0

/-- The host accesses BAR0 of a function (R390): an access that is not of 8 bytes is ignored. -/
def State.barAccess (s : State) (fn off size : Nat) (w : Option Word) : Out :=
  if fn ≥ 2 then .next s
  else
    match w with
    | none => .next { s with dev := { s.dev with barRead := s.barLoad fn off size } }
    | some v =>
      match size == 8 && !s.dev.coldReq, barReg off with
      | true, some r => s.barWrite fn r v
      | _, _ => .next s

end Sys2Proof.Machine
end

