-- ==== Sys2Proof/Machine/CpUnit.lean ====
section
/-! DEFINITION. The privileged state of a command processor (13_device R396). The spec names the registers and points to
the RISC-V privileged architecture, version 1.12, for them: their fields, Sv48, traps and returns are that
architecture's (log 69). -/

namespace Sys2Proof.Machine

/-! ### Registers -/

/-- The lowest mode that reaches a register: machine registers 3, supervisor registers 1, the clock and fcsr 0. -/
def CpCsr.mode (c : CpCsr) : Nat :=
  match c with
  | .mstatus | .mtvec | .mepc | .mcause | .mtval | .mie | .mip => 3
  | .satp | .sstatus | .stvec | .sepc | .scause | .stval | .sie | .sip => 1
  | .time | .fcsr => 0

/-- Fields of mstatus that software writes: SIE, MIE, SPIE, MPIE, SPP, MPP, FS, MPRV, SUM, MXR, TVM, TW, TSR. -/
def mstatusMask : Word := 0x7E79AA

/-- Fields of mstatus that sstatus shows. -/
def sstatusMask : Word := 0x80000003000DE762

/-- The supervisor's bits of mie and mip. -/
def supMask : Word := 0x222

/-- Replace the bits of a mask. -/
def masked (old v mask : Word) : Word := (old &&& ~~~mask) ||| (v &&& mask)

/-- mstatus as it reads: SD (bit 63) says that FS is dirty. -/
def CpRegs.status (c : CpRegs) : Word := if c.mstatus.extractLsb' 13 2 == 3 then c.mstatus ||| 0x8000000000000000 else c.mstatus

/-- Write mstatus; MPP keeps its value where 2, which names no mode, is written. -/
def CpRegs.setStatus (c : CpRegs) (v mask : Word) : CpRegs :=
  let m := if v.extractLsb' 11 2 == 2 then mask &&& ~~~0x1800#64 else mask
  { c with mstatus := masked c.mstatus v m }

/-- The schemes that satp selects: none, Sv39 and Sv48. A write of another changes nothing. -/
def satpMode (v : Word) : Bool := v.extractLsb' 60 4 == 0 || v.extractLsb' 60 4 == 8 || v.extractLsb' 60 4 == 9

/-- Read a register; the time CSR reads the almanac (R396). -/
def CpRegs.read (c : CpRegs) (now : Nat) (r : CpCsr) : Word :=
  match r with
  | .mstatus => c.status
  | .mtvec => c.mtvec
  | .mepc => c.mepc
  | .mcause => c.mcause
  | .mtval => c.mtval
  | .mie => c.mie
  | .mip => c.mip
  | .satp => c.satp
  | .sstatus => c.status &&& sstatusMask
  | .stvec => c.stvec
  | .sepc => c.sepc
  | .scause => c.scause
  | .stval => c.stval
  | .sie => c.mie &&& supMask
  | .sip => c.mip &&& supMask
  | .time => word now
  | .fcsr => c.fcsr.setWidth 64

/-- Write a register. -/
def CpRegs.put (c : CpRegs) (r : CpCsr) (v : Word) : CpRegs :=
  match r with
  | .mstatus => c.setStatus v mstatusMask
  | .mtvec => { c with mtvec := v &&& ~~~2#64 }
  | .mepc => { c with mepc := v &&& ~~~1#64 }
  | .mcause => { c with mcause := v }
  | .mtval => { c with mtval := v }
  | .mie => { c with mie := v &&& 0xAAA }
  | .mip => { c with mip := masked c.mip v supMask }
  | .satp => if satpMode v then { c with satp := v } else c
  | .sstatus => c.setStatus v (mstatusMask &&& sstatusMask)
  | .stvec => { c with stvec := v &&& ~~~2#64 }
  | .sepc => { c with sepc := v &&& ~~~1#64 }
  | .scause => { c with scause := v }
  | .stval => { c with stval := v }
  | .sie => { c with mie := masked c.mie v supMask }
  | .sip => { c with mip := masked c.mip v 0x2 }
  | .time => c
  | .fcsr => { c with fcsr := v.setWidth 8 }

/-- Write a register of RV64GC; x0 stays 0. -/
def CpRegs.setX (c : CpRegs) (d : Fin 32) (v : Word) : CpRegs := if d = 0 then c else { c with x := c.x.set d v }

/-- The next instruction. -/
def CpRegs.next (c : CpRegs) : CpRegs := { c with pc := c.pc + 4 }

/-! ### Traps and returns -/

/-- The target of a trap: BASE, or for an interrupt in vectored mode BASE + 4 × cause. -/
def cpVector (tvec cause : Word) : Word :=
  let base := tvec &&& ~~~3#64
  if tvec.getLsbD 0 && cause.getLsbD 63 then base + 4 * cause else base

/-- One bit of mstatus as a word. -/
def bitAt (b : Bool) (n : Nat) : Word := if b then BitVec.twoPow 64 n else 0

/-- A trap into machine mode, or into supervisor mode where it is taken there from that mode or user mode. -/
def CpRegs.trap (c : CpRegs) (cause tval : Word) (toS : Bool) : CpRegs :=
  if toS && c.mode ≠ 3 then
    { c with sepc := c.pc, scause := cause, stval := tval, mode := 1, pc := cpVector c.stvec cause,
             mstatus := masked c.mstatus (bitAt (c.mstatus.getLsbD 1) 5 ||| bitAt (c.mode = 1) 8) 0x122 }
  else
    { c with mepc := c.pc, mcause := cause, mtval := tval, mode := 3, pc := cpVector c.mtvec cause,
             mstatus := masked c.mstatus (bitAt (c.mstatus.getLsbD 3) 7 ||| (c.mode.setWidth 64 <<< 11)) 0x1888 }

/-- An illegal instruction. -/
def CpRegs.illegal (c : CpRegs) : CpRegs := c.trap 2 0 false

/-- MRET: MIE takes MPIE, MPIE becomes 1, the mode is MPP, and MPP the lowest mode. -/
def CpRegs.mret (c : CpRegs) : CpRegs :=
  let mpp := c.mstatus.extractLsb' 11 2
  if c.mode ≠ 3 then c.illegal
  else
    { c with mode := mpp, pc := c.mepc,
             mstatus := masked c.mstatus (bitAt (c.mstatus.getLsbD 7) 3 ||| 0x80) (if mpp = 3 then 0x1888 else 0x21888) }

/-- SRET; TSR makes it an illegal instruction in supervisor mode. -/
def CpRegs.sret (c : CpRegs) : CpRegs :=
  if c.mode = 0 ∨ (c.mode = 1 ∧ c.mstatus.getLsbD 22) then c.illegal
  else
    { c with mode := if c.mstatus.getLsbD 8 then 1 else 0, pc := c.sepc,
             mstatus := masked c.mstatus (bitAt (c.mstatus.getLsbD 5) 1 ||| 0x20) 0x20122 }

/-! ### Memory -/

/-- The mode whose rights a load has: with MPRV in machine mode, MPP's. -/
def CpRegs.memMode (c : CpRegs) : BitVec 2 :=
  if c.mode = 3 ∧ c.mstatus.getLsbD 17 then c.mstatus.extractLsb' 11 2 else c.mode

/-- What an access is: a fetch, a load, or a store. -/
inductive CpAcc where
  | fetch | load | store
deriving DecidableEq, Repr, Inhabited

/-- The cause of a misaligned access. -/
def CpAcc.misaligned : CpAcc → Word
  | .fetch => 0
  | .load => 4
  | .store => 6

/-- The cause of a page fault. -/
def CpAcc.fault : CpAcc → Word
  | .fetch => 12
  | .load => 13
  | .store => 15

/-- The mode whose rights an access has: a fetch the processor's own. -/
def CpRegs.modeFor (c : CpRegs) (k : CpAcc) : BitVec 2 := if k = .fetch then c.mode else c.memMode

/-- Whether a leaf lets a mode make an access: A, with D for a store; X, or R (X too with MXR), or W; and U as the mode
and SUM ask. -/
def CpRegs.leafOk (c : CpRegs) (k : CpAcc) (e : Nat) : Bool :=
  let b := fun n => e.testBit n
  let right := match k with
    | .fetch => b 3
    | .load => b 1 || (c.mstatus.getLsbD 19 && b 3)
    | .store => b 2 && b 7
  b 6 && right && (if b 4 then c.modeFor k = 0 ∨ (k ≠ .fetch ∧ c.mstatus.getLsbD 18) else c.modeFor k ≠ 0)

/-- The walk of Sv39 and Sv48, by the levels that remain, from a table's physical address. -/
def CpRegs.walk (c : CpRegs) (m : List Host.Cell) (k : CpAcc) (va : Nat) : Nat → Nat → Option Nat
  | 0, _ => none
  | n + 1, table =>
    let e := bytesNat (memBytes m (keyHbm (table + 8 * (va / 2 ^ (12 + 9 * n) % 512))) 8)
    let ppn := e / 2 ^ 10 % 2 ^ 44
    if e % 2 = 0 ∨ (e.testBit 2 ∧ !e.testBit 1) ∨ e / 2 ^ 54 ≠ 0 then none
    else if e.testBit 1 || e.testBit 3 then
      if ppn % 2 ^ (9 * n) = 0 ∧ c.leafOk k e then some (ppn * 2 ^ 12 + va % 2 ^ (12 + 9 * n)) else none
    else if e.testBit 4 || e.testBit 6 || e.testBit 7 then none
    else c.walk m k va n (ppn * 2 ^ 12)

/-- Levels of the scheme that satp selects. -/
def CpRegs.levels (c : CpRegs) : Nat := if c.satp.extractLsb' 60 4 == 9 then 4 else 3

/-- Whether the bits above a virtual address repeat its highest bit. -/
def cpCanonical (va levels : Nat) : Bool :=
  let b := 12 + 9 * levels
  va / 2 ^ (b - 1) == 0 || va / 2 ^ (b - 1) == 2 ^ (65 - b) - 1

/-- The physical address of an access. -/
def CpRegs.phys (c : CpRegs) (m : List Host.Cell) (k : CpAcc) (va : Nat) : Option Nat :=
  if c.modeFor k = 3 ∨ c.satp.extractLsb' 60 4 == 0 then some va
  else if cpCanonical va c.levels then c.walk m k va c.levels ((c.satp.extractLsb' 0 44).toNat * 2 ^ 12) else none

/-- A load of 8 bytes; a failed walk is a load page fault. -/
def CpRegs.load (c : CpRegs) (m : List Host.Cell) (va : Nat) (d : Fin 32) : CpRegs :=
  if va % 8 ≠ 0 then c.trap 4 (word va) false
  else
    match c.phys m .load va with
    | some a => (c.setX d (word (bytesNat (memBytes m (keyHbm a) 8)))).next
    | none => c.trap 13 (word va) false

/-! ### The processor acts -/

/-- Whether the mode reaches a register; TVM keeps supervisor mode from satp. -/
def CpRegs.reaches (c : CpRegs) (r : CpCsr) : Bool :=
  decide (r.mode ≤ c.mode.toNat) && !(r == .satp && c.mode == 1 && c.mstatus.getLsbD 20)

/-- What an act other than running a word does to the processor's registers. -/
def CpRegs.act (c : CpRegs) (now : Nat) (m : List Host.Cell) (op : CpOp) : CpRegs :=
  match op with
  | .write r v => if c.reaches r && r != .time then (c.put r v).next else c.illegal
  | .read r d => if c.reaches r then (c.setX d (c.read now r)).next else c.illegal
  | .mtime d => (c.setX d (word now)).next
  | .load va d => c.load m (va % 2 ^ 64) d
  | .trap cause tval toS => c.trap cause tval toS
  | .mret => c.mret
  | .sret => c.sret
  | .beat | .run => c
  | .irq n b => { c with mip := if b then c.mip ||| BitVec.twoPow 64 n.val else c.mip &&& ~~~BitVec.twoPow 64 n.val }

/-- The interrupts in order of priority: external, software and timer of machine mode, then of supervisor mode. -/
def irqOrder : List Nat := [11, 3, 7, 9, 1, 5]

/-- The interrupt that a processor takes before its next word: pending and enabled, below machine mode or with MIE. -/
def CpRegs.irq (c : CpRegs) : Option Nat :=
  if c.mode ≠ 3 ∨ c.mstatus.getLsbD 3 then irqOrder.find? (fun n => c.mip.getLsbD n && c.mie.getLsbD n) else none

/-- Whether an act is a word of the processor's, or an effect of one. -/
def CpOp.isWord (op : CpOp) : Bool :=
  match op with
  | .trap .. | .irq .. | .beat => false
  | .write .. | .read .. | .mtime .. | .load .. | .mret | .sret | .run => true

end Sys2Proof.Machine
end

