-- ==== Sys2Proof/Machine/CpRun.lean ====
section
/-! DEFINITION. A command processor runs the words of RV64GC from memory (13_device R396). The spec names the
instruction set; its words, their operands and their effects are those of the published RISC-V architecture (log 69). -/

namespace Sys2Proof.Machine

/-! ### Immediates and words -/

/-- A field sign-extended from `b` bits. -/
def rvSx (b n : Nat) : Word := (BitVec.ofNat b n).signExtend 64

/-- The immediate of a load, of JALR and of an operation with a constant. -/
def rvImmI (w : Nat) : Word := rvSx 12 (bitsOf w 31 20)

/-- The immediate of a store. -/
def rvImmS (w : Nat) : Word := rvSx 12 (bitsOf w 31 25 * 2 ^ 5 + bitsOf w 11 7)

/-- The offset of a branch. -/
def rvImmB (w : Nat) : Word :=
  rvSx 13 (bitsOf w 31 31 * 2 ^ 12 + bitsOf w 7 7 * 2 ^ 11 + bitsOf w 30 25 * 2 ^ 5 + bitsOf w 11 8 * 2)

/-- The immediate of LUI and AUIPC. -/
def rvImmU (w : Nat) : Word := rvSx 32 (bitsOf w 31 12 * 2 ^ 12)

/-- The offset of JAL. -/
def rvImmJ (w : Nat) : Word :=
  rvSx 21 (bitsOf w 31 31 * 2 ^ 20 + bitsOf w 19 12 * 2 ^ 12 + bitsOf w 20 20 * 2 ^ 11 + bitsOf w 30 21 * 2)

/-- A word with a 12-bit immediate. -/
def rvI (imm rs1 f3 rd op : Nat) : Nat := imm % 2 ^ 12 * 2 ^ 20 + rs1 * 2 ^ 15 + f3 * 2 ^ 12 + rd * 2 ^ 7 + op

/-- A word with two source registers. -/
def rvR (f7 rs2 rs1 f3 rd op : Nat) : Nat := f7 * 2 ^ 25 + rs2 * 2 ^ 20 + rs1 * 2 ^ 15 + f3 * 2 ^ 12 + rd * 2 ^ 7 + op

/-- A store's word. -/
def rvS (imm rs2 rs1 f3 op : Nat) : Nat := rvR (bitsOf imm 11 5) rs2 rs1 f3 (bitsOf imm 4 0) op

/-- A branch's word. -/
def rvB (imm rs1 f3 : Nat) : Nat :=
  rvR (bitsOf imm 12 12 * 2 ^ 6 + bitsOf imm 10 5) 0 rs1 f3 (bitsOf imm 4 1 * 2 + bitsOf imm 11 11) 0x63

/-- JAL's word. -/
def rvJ (imm rd : Nat) : Nat :=
  bitsOf imm 20 20 * 2 ^ 31 + bitsOf imm 10 1 * 2 ^ 21 + bitsOf imm 11 11 * 2 ^ 20 + bitsOf imm 19 12 * 2 ^ 12 + rd * 2 ^ 7 + 0x6F

/-! ### Compressed words -/

/-- The words of quadrant 0 as words of 32 bits. -/
def rvc0 (h : Nat) : Option Nat :=
  let b := bitsOf h
  let d := 8 + b 4 2
  let a := 8 + b 9 7
  let i4 := b 12 10 * 8 + b 6 6 * 4 + b 5 5 * 64
  let i8 := b 12 10 * 8 + b 6 5 * 64
  match b 15 13 with
  | 0 =>
    let imm := b 10 7 * 64 + b 12 11 * 16 + b 5 5 * 8 + b 6 6 * 4
    if imm = 0 then none else some (rvI imm 2 0 d 0x13)
  | 1 => some (rvI i8 a 3 d 0x07)
  | 2 => some (rvI i4 a 2 d 0x03)
  | 3 => some (rvI i8 a 3 d 0x03)
  | 5 => some (rvS i8 d a 3 0x27)
  | 6 => some (rvS i4 d a 2 0x23)
  | 7 => some (rvS i8 d a 3 0x23)
  | _ => none

/-- The arithmetic words of quadrant 1. -/
def rvc1Alu (h : Nat) : Option Nat :=
  let b := bitsOf h
  let a := 8 + b 9 7
  let sh := b 12 12 * 32 + b 6 2
  match b 11 10 with
  | 0 => some (rvI sh a 5 a 0x13)
  | 1 => some (rvI (0x400 + sh) a 5 a 0x13)
  | 2 => some (rvI (rvSx 6 sh).toNat a 7 a 0x13)
  | _ =>
    let r := fun (f7 f3 op : Nat) => some (rvR f7 (8 + b 4 2) a f3 a op)
    match b 12 12, b 6 5 with
    | 0, 0 => r 0x20 0 0x33
    | 0, 1 => r 0 4 0x33
    | 0, 2 => r 0 6 0x33
    | 0, _ => r 0 7 0x33
    | _, 0 => r 0x20 0 0x3B
    | _, 1 => r 0 0 0x3B
    | _, _ => none

/-- The words of quadrant 1. -/
def rvc1 (h : Nat) : Option Nat :=
  let b := bitsOf h
  let d := b 11 7
  let imm := (rvSx 6 (b 12 12 * 32 + b 6 2)).toNat
  let off := (rvSx 9 (b 12 12 * 256 + b 6 5 * 64 + b 2 2 * 32 + b 11 10 * 8 + b 4 3 * 2)).toNat
  match b 15 13 with
  | 0 => some (rvI imm d 0 d 0x13)
  | 1 => if d = 0 then none else some (rvI imm d 0 d 0x1B)
  | 2 => some (rvI imm 0 0 d 0x13)
  | 3 =>
    if d = 2 then
      let n := rvSx 10 (b 12 12 * 512 + b 4 3 * 128 + b 5 5 * 64 + b 2 2 * 32 + b 6 6 * 16)
      if n = 0 then none else some (rvI n.toNat 2 0 2 0x13)
    else if imm = 0 then none
    else some (imm % 2 ^ 20 * 2 ^ 12 + d * 2 ^ 7 + 0x37)
  | 4 => rvc1Alu h
  | 5 =>
    let n := rvSx 12 (b 12 12 * 2048 + b 8 8 * 1024 + b 10 9 * 256 + b 6 6 * 128 + b 7 7 * 64 + b 2 2 * 32 + b 11 11 * 16 + b 5 3 * 2)
    some (rvJ n.toNat 0)
  | 6 => some (rvB off (8 + b 9 7) 0)
  | _ => some (rvB off (8 + b 9 7) 1)

/-- The words of quadrant 2. -/
def rvc2 (h : Nat) : Option Nat :=
  let b := bitsOf h
  let d := b 11 7
  let r := b 6 2
  let i4 := b 12 12 * 32 + b 6 4 * 4 + b 3 2 * 64
  let i8 := b 12 12 * 32 + b 6 5 * 8 + b 4 2 * 64
  match b 15 13 with
  | 0 => some (rvI (b 12 12 * 32 + r) d 1 d 0x13)
  | 1 => some (rvI i8 2 3 d 0x07)
  | 2 => if d = 0 then none else some (rvI i4 2 2 d 0x03)
  | 3 => if d = 0 then none else some (rvI i8 2 3 d 0x03)
  | 4 =>
    if b 12 12 = 0 then
      if r ≠ 0 then some (rvR 0 r 0 0 d 0x33) else if d = 0 then none else some (rvI 0 d 0 0 0x67)
    else if r ≠ 0 then some (rvR 0 r d 0 d 0x33)
    else if d = 0 then some (rvI 1 0 0 0 0x73)
    else some (rvI 0 d 0 1 0x67)
  | 5 => some (rvS (b 12 10 * 8 + b 9 7 * 64) r 2 3 0x27)
  | 6 => some (rvS (b 12 9 * 4 + b 8 7 * 64) r 2 2 0x23)
  | _ => some (rvS (b 12 10 * 8 + b 9 7 * 64) r 2 3 0x23)

/-- A compressed word as a word of 32 bits. -/
def rvExpand (h : Nat) : Option Nat :=
  match h % 4 with
  | 0 => rvc0 h
  | 1 => rvc1 h
  | 2 => rvc2 h
  | _ => none

/-! ### Integer operations -/

/-- A register number. -/
def rvReg (n : Nat) : Fin 32 := ⟨n % 32, Nat.mod_lt _ (by decide)⟩

/-- Read a register. -/
def CpRegs.xr (c : CpRegs) (n : Nat) : Word := c.x.get (rvReg n)

/-- The operations of OP and OP-IMM; `alt` is bit 30. -/
def rvAlu (f3 : Nat) (alt : Bool) (x y : Word) : Word :=
  match f3 with
  | 0 => if alt then x - y else x + y
  | 1 => x <<< (y.toNat % 64)
  | 2 => bit (x.slt y)
  | 3 => bit (x.ult y)
  | 4 => x ^^^ y
  | 5 => if alt then x.sshiftRight (y.toNat % 64) else x >>> (y.toNat % 64)
  | 6 => x ||| y
  | _ => x &&& y

/-- The operations of M. -/
def rvMul (f3 : Nat) (x y : Word) : Word :=
  match f3 with
  | 0 => x * y
  | 1 => mulhS x y
  | 2 => BitVec.ofInt 64 (x.toInt * (y.toNat : Int) / 2 ^ 64)
  | 3 => mulhU x y
  | 4 => divS x y
  | 5 => divU x y
  | 6 => remS x y
  | _ => remU x y

/-- The low 32 bits, sign-extended or not. -/
def rvLow (signed : Bool) (x : Word) : Word := if signed then rvSx 32 x.toNat else word (x.toNat % 2 ^ 32)

/-- The operations on 32 bits; none where there is no such word. -/
def rvAluW (f3 f7 : Nat) (x y : Word) : Option Word :=
  let sh := word (y.toNat % 32)
  match f7, f3 with
  | 0, 0 => some (rvLow true (x + y))
  | 0x20, 0 => some (rvLow true (x - y))
  | 0, 1 => some (rvLow true (x <<< sh.toNat))
  | 0, 5 => some (rvLow true (rvLow false x >>> sh.toNat))
  | 0x20, 5 => some (rvLow true ((rvLow true x).sshiftRight sh.toNat))
  | 1, 0 => some (rvLow true (x * y))
  | 1, 4 => some (rvLow true (divS (rvLow true x) (rvLow true y)))
  | 1, 5 => some (rvLow true (divU (rvLow false x) (rvLow false y)))
  | 1, 6 => some (rvLow true (remS (rvLow true x) (rvLow true y)))
  | 1, 7 => some (rvLow true (remU (rvLow false x) (rvLow false y)))
  | _, _ => none

/-- Whether a branch is taken; none where there is no such word. -/
def rvTaken (f3 : Nat) (x y : Word) : Option Bool :=
  match f3 with
  | 0 => some (x == y)
  | 1 => some (x != y)
  | 4 => some (x.slt y)
  | 5 => some (!x.slt y)
  | 6 => some (x.ult y)
  | 7 => some (!x.ult y)
  | _ => none

/-! ### Memory -/

/-- What a word comes to: the registers, and the bytes that it writes with their keys. -/
abbrev CpEff := CpRegs × List (Nat × Byte)

/-- Run on the physical address of an aligned access, or trap. -/
def CpRegs.withPhys (c : CpRegs) (m : List Host.Cell) (k : CpAcc) (va : Word) (n : Nat) (f : Nat → CpEff) : CpEff :=
  if va.toNat % n ≠ 0 then (c.trap k.misaligned va false, [])
  else
    match c.phys m k va.toNat with
    | some a => f a
    | none => (c.trap k.fault va false, [])

/-- A little-endian number of memory, sign-extended when asked. -/
def rvLoad (m : List Host.Cell) (a n : Nat) (signed : Bool) : Word :=
  let v := bytesNat (memBytes m (keyHbm a) n)
  if signed then rvSx (8 * n) v else word v

/-- The bytes that a store writes. -/
def rvStore (a n : Nat) (v : Word) : List (Nat × Byte) := (natBytes v.toNat n).zipIdx.map (fun b => (keyHbm a + b.2, b.1))

/-- Go on `n` bytes further. -/
def CpRegs.skip (c : CpRegs) (n : Nat) : CpRegs := { c with pc := c.pc + word n }

/-- Write a register and go on. -/
def CpRegs.done (c : CpRegs) (rd len : Nat) (v : Word) : CpEff := ((c.setX (rvReg rd) v).skip len, [])

/-- The atomic operations. -/
def rvAmo (f5 : Nat) (old v : Word) (signedLt unsignedLt : Bool) : Option Word :=
  match f5 with
  | 0x01 => some v
  | 0x00 => some (old + v)
  | 0x04 => some (old ^^^ v)
  | 0x0C => some (old &&& v)
  | 0x08 => some (old ||| v)
  | 0x10 => some (if signedLt then old else v)
  | 0x14 => some (if signedLt then v else old)
  | 0x18 => some (if unsignedLt then old else v)
  | 0x1C => some (if unsignedLt then v else old)
  | _ => none

/-- LR, SC and the atomic operations. -/
def CpRegs.amo (c : CpRegs) (m : List Host.Cell) (w : Nat) : CpEff :=
  let f5 := bitsOf w 31 27
  let rd := bitsOf w 11 7
  let va := c.xr (bitsOf w 19 15)
  let v := c.xr (bitsOf w 24 20)
  let n := if bitsOf w 14 12 = 2 then 4 else 8
  if bitsOf w 14 12 ≠ 2 ∧ bitsOf w 14 12 ≠ 3 then (c.illegal, [])
  else if f5 = 0x02 then
    if bitsOf w 24 20 ≠ 0 then (c.illegal, [])
    else c.withPhys m .load va n (fun a =>
      let x := rvLoad m a n true
      ({ c with resv := some (a, n, x) }).done rd 4 x)
  else if f5 = 0x03 then
    c.withPhys m .store va n (fun a =>
      let ok := c.resv == some (a, n, rvLoad m a n true)
      let r := ({ c with resv := none }).done rd 4 (bit !ok)
      (r.1, if ok then rvStore a n v else []))
  else
    c.withPhys m .store va n (fun a =>
      let x := rvLoad m a n true
      let y := if n = 4 then rvLow true v else v
      let z := fun (u : Word) => if n = 4 then rvLow false u else u
      match rvAmo f5 x y (x.slt y) ((z x).ult (z y)) with
      | some r => ((c.done rd 4 x).1, rvStore a n r)
      | none => (c.illegal, []))

/-! ### Floating point -/

/-- Whether floating-point state is on (FS of mstatus). -/
def CpRegs.fpOn (c : CpRegs) : Bool := c.mstatus.extractLsb' 13 2 != 0

/-- The format of a word's fmt field. -/
def rvFmt (n : Nat) : Option FFmt :=
  match n with
  | 0 => some fmt32
  | 1 => some fmt64
  | _ => none

/-- A NaN that the device reads as poison is a quiet NaN here. -/
def rvPlain (f : FFmt) (x : Nat) : Nat := if (f.dec x).isPsn then f.nan else x

/-- A register as a format reads it: a number of 32 bits stands below 32 ones, and anything else reads as the NaN. -/
def CpRegs.fr (c : CpRegs) (f : FFmt) (n : Nat) : Nat :=
  let x := (c.f.get (rvReg n)).toNat
  if f = fmt64 then x else if x / 2 ^ 32 = 2 ^ 32 - 1 then x % 2 ^ 32 else fmt32.nan

/-- A register's bits with the device's poison read as a quiet NaN. -/
def CpRegs.fv (c : CpRegs) (f : FFmt) (n : Nat) : Nat := rvPlain f (c.fr f n)

/-- Write a floating-point register; the state is dirty. -/
def CpRegs.setF (c : CpRegs) (f : FFmt) (n v : Nat) : CpRegs :=
  { c with f := c.f.set (rvReg n) (word (if f = fmt64 then v else v + 2 ^ 64 - 2 ^ 32)), mstatus := c.mstatus ||| 0x6000 }

/-- Raise exception flags. -/
def CpRegs.flag (c : CpRegs) (n : Nat) : CpRegs :=
  if n = 0 then c else { c with fcsr := c.fcsr ||| BitVec.ofNat 8 n, mstatus := c.mstatus ||| 0x6000 }

/-- A rounding mode by its code. -/
def rvRound (n : Nat) : Option RM :=
  match n with
  | 0 => some .rne
  | 1 => some .rtz
  | 2 => some .rdn
  | 3 => some .rup
  | 4 => some .rna
  | _ => none

/-- The rounding mode of a word: its own, or frm's. -/
def CpRegs.rm (c : CpRegs) (n : Nat) : Option RM := rvRound (if n = 7 then c.fcsr.toNat / 32 else n)

/-- FCLASS. -/
def rvClass (f : FFmt) (x : Nat) : Nat :=
  match f.dec x with
  | .nan _ sg _ => if sg then 2 ^ 8 else 2 ^ 9
  | .inf s => if s then 1 else 2 ^ 7
  | .fin s m _ =>
    if m = 0 then (if s then 2 ^ 3 else 2 ^ 4)
    else if x / 2 ^ f.fb % 2 ^ f.eb = 0 then (if s then 2 ^ 2 else 2 ^ 5)
    else if s then 2 else 2 ^ 6

/-- A sign taken from `b`, its opposite, or the exclusive or of both. -/
def rvSgnj (f : FFmt) (f3 a b : Nat) : Option Nat :=
  let sa := a / 2 ^ f.mag % 2 = 1
  let sb := b / 2 ^ f.mag % 2 = 1
  match f3 with
  | 0 => some (a % 2 ^ f.mag + f.sgn sb)
  | 1 => some (a % 2 ^ f.mag + f.sgn (!sb))
  | 2 => some (a % 2 ^ f.mag + f.sgn (sa != sb))
  | _ => none

/-- Width and signedness of an integer operand of FCVT. -/
def rvInt (n : Nat) : Option (Nat × Bool) :=
  match n with
  | 0 => some (32, true)
  | 1 => some (32, false)
  | 2 => some (64, true)
  | 3 => some (64, false)
  | _ => none

/-- A conversion to an integer: a NaN gives the largest number. -/
def rvToInt (f : FFmt) (rm : RM) (w : Nat) (signed : Bool) (x : Nat) : FRes :=
  if (f.dec x).isNan then (if signed then 2 ^ (w - 1) - 1 else 2 ^ w - 1, 16) else f.toInt rm signed w x

/-- The result of a floating-point operation: a NaN is the canonical one. -/
def CpRegs.fdone (c : CpRegs) (f : FFmt) (rd : Nat) (r : FRes) : CpEff :=
  (((c.setF f rd (if (f.dec r.1).isNan then f.nan else r.1)).flag r.2).skip 4, [])

/-- The fused operations: `neg` negates the product, `sub` the addend. -/
def CpRegs.fma (c : CpRegs) (f : FFmt) (rm : RM) (neg sub : Bool) (w : Nat) : CpEff :=
  let v := fun (n : Nat) => f.dec (c.fv f n)
  let z := v (bitsOf w 31 27)
  c.fdone f (bitsOf w 11 7) (f.fmaV rm neg (v (bitsOf w 19 15)) (v (bitsOf w 24 20)) (if sub then z.neg else z))

/-- The words of OP-FP that round. -/
def CpRegs.fround (c : CpRegs) (f : FFmt) (rm : RM) (w : Nat) : CpEff :=
  let rd := bitsOf w 11 7
  let n := bitsOf w 24 20
  let a := c.fv f (bitsOf w 19 15)
  let b := c.fv f n
  match bitsOf w 31 27 with
  | 0x00 => c.fdone f rd (f.add rm a b)
  | 0x01 => c.fdone f rd (f.sub rm a b)
  | 0x02 => c.fdone f rd (f.mul rm a b)
  | 0x03 => c.fdone f rd (f.div rm a b)
  | 0x0B => if n = 0 then c.fdone f rd (f.sqrt rm a) else (c.illegal, [])
  | 0x08 =>
    match rvFmt n with
    | some g => if g = f then (c.illegal, []) else c.fdone f rd (g.cvt f rm (c.fv g (bitsOf w 19 15)))
    | none => (c.illegal, [])
  | 0x18 =>
    match rvInt n with
    | some (k, sg) =>
      let r := rvToInt f rm k sg a
      (c.flag r.2).done rd 4 (rvSx k r.1)
    | none => (c.illegal, [])
  | 0x1A =>
    match rvInt n with
    | some (k, sg) => c.fdone f rd (f.ofInt rm sg k ((c.xr (bitsOf w 19 15)).toNat % 2 ^ k))
    | none => (c.illegal, [])
  | _ => (c.illegal, [])

/-- The words of OP-FP whose bits 14 to 12 select an operation; none for the others. -/
def CpRegs.fpick (c : CpRegs) (f : FFmt) (w : Nat) : Option CpEff :=
  let f3 := bitsOf w 14 12
  let rd := bitsOf w 11 7
  let n := bitsOf w 24 20
  let ra := bitsOf w 19 15
  let raw := (c.f.get (rvReg ra)).toNat
  let bad := (c.illegal, [])
  match bitsOf w 31 27 with
  | 0x04 =>
    some (match rvSgnj f f3 (c.fr f ra) (c.fr f n) with
      | some v => ((c.setF f rd v).skip 4, [])
      | none => bad)
  | 0x05 => some (if f3 < 2 then c.fdone f rd (f.minmax (f3 = 1) (c.fv f ra) (c.fv f n)) else bad)
  | 0x14 =>
    some (match f3 with
      | 0 => let r := f.cmp .le (c.fv f ra) (c.fv f n); (c.flag r.2).done rd 4 (bit r.1)
      | 1 => let r := f.cmp .lt (c.fv f ra) (c.fv f n); (c.flag r.2).done rd 4 (bit r.1)
      | 2 => let r := f.cmp .eq (c.fv f ra) (c.fv f n); (c.flag r.2).done rd 4 (bit r.1)
      | _ => bad)
  | 0x1C =>
    some (if n ≠ 0 then bad
      else match f3 with
        | 0 => c.done rd 4 (rvSx f.width (raw % 2 ^ f.width))
        | 1 => c.done rd 4 (word (rvClass f (c.fr f ra)))
        | _ => bad)
  | 0x1E => some (if n = 0 ∧ f3 = 0 then ((c.setF f rd ((c.xr ra).toNat % 2 ^ f.width)).skip 4, []) else bad)
  | _ => none

/-- OP-FP and the fused words. -/
def CpRegs.fp (c : CpRegs) (w : Nat) : CpEff :=
  let bad := (c.illegal, [])
  match c.fpOn, rvFmt (bitsOf w 26 25) with
  | true, some f =>
    let r := c.rm (bitsOf w 14 12)
    match w % 128 with
    | 0x43 => (r.map (fun rm => c.fma f rm false false w)).getD bad
    | 0x47 => (r.map (fun rm => c.fma f rm false true w)).getD bad
    | 0x4B => (r.map (fun rm => c.fma f rm true false w)).getD bad
    | 0x4F => (r.map (fun rm => c.fma f rm true true w)).getD bad
    | _ => (c.fpick f w).getD ((r.map (fun rm => c.fround f rm w)).getD bad)
  | _, _ => bad

/-! ### Loads, stores and system words -/

/-- The format that a floating-point load or store moves. -/
def rvFmem (f3 : Nat) : Option FFmt :=
  match f3 with
  | 2 => some fmt32
  | 3 => some fmt64
  | _ => none

/-- A load. -/
def CpRegs.loadWord (c : CpRegs) (m : List Host.Cell) (w len : Nat) : CpEff :=
  let f3 := bitsOf w 14 12
  let va := c.xr (bitsOf w 19 15) + rvImmI w
  if f3 = 7 then (c.illegal, [])
  else
    let n := 2 ^ (f3 % 4)
    c.withPhys m .load va n (fun a => c.done (bitsOf w 11 7) len (rvLoad m a n (f3 < 4)))

/-- A store. -/
def CpRegs.storeWord (c : CpRegs) (m : List Host.Cell) (w len : Nat) : CpEff :=
  let f3 := bitsOf w 14 12
  let va := c.xr (bitsOf w 19 15) + rvImmS w
  if f3 > 3 then (c.illegal, [])
  else c.withPhys m .store va (2 ^ f3) (fun a => (c.skip len, rvStore a (2 ^ f3) (c.xr (bitsOf w 24 20))))

/-- A floating-point load. -/
def CpRegs.floadWord (c : CpRegs) (m : List Host.Cell) (w len : Nat) : CpEff :=
  match c.fpOn, rvFmem (bitsOf w 14 12) with
  | true, some f =>
    let n := f.width / 8
    c.withPhys m .load (c.xr (bitsOf w 19 15) + rvImmI w) n (fun a =>
      ((c.setF f (bitsOf w 11 7) (rvLoad m a n false).toNat).skip len, []))
  | _, _ => (c.illegal, [])

/-- A floating-point store. -/
def CpRegs.fstoreWord (c : CpRegs) (m : List Host.Cell) (w len : Nat) : CpEff :=
  match c.fpOn, rvFmem (bitsOf w 14 12) with
  | true, some f =>
    let n := f.width / 8
    c.withPhys m .store (c.xr (bitsOf w 19 15) + rvImmS w) n (fun a =>
      (c.skip len, rvStore a n (c.f.get (rvReg (bitsOf w 24 20)))))
  | _, _ => (c.illegal, [])

/-- A register by its number: which, and the lowest of its bits that the number names, with their count. -/
def rvCsr (n : Nat) : Option (CpCsr × Nat × Nat) :=
  match n with
  | 0x001 => some (.fcsr, 0, 5)
  | 0x002 => some (.fcsr, 5, 3)
  | 0x003 => some (.fcsr, 0, 8)
  | 0xC01 => some (.time, 0, 64)
  | 0x100 => some (.sstatus, 0, 64)
  | 0x104 => some (.sie, 0, 64)
  | 0x105 => some (.stvec, 0, 64)
  | 0x141 => some (.sepc, 0, 64)
  | 0x142 => some (.scause, 0, 64)
  | 0x143 => some (.stval, 0, 64)
  | 0x144 => some (.sip, 0, 64)
  | 0x180 => some (.satp, 0, 64)
  | 0x300 => some (.mstatus, 0, 64)
  | 0x304 => some (.mie, 0, 64)
  | 0x305 => some (.mtvec, 0, 64)
  | 0x341 => some (.mepc, 0, 64)
  | 0x342 => some (.mcause, 0, 64)
  | 0x343 => some (.mtval, 0, 64)
  | 0x344 => some (.mip, 0, 64)
  | _ => none

/-- The words that read and write a register. -/
def CpRegs.csrWord (c : CpRegs) (now w : Nat) : CpEff :=
  let f3 := bitsOf w 14 12
  let ra := bitsOf w 19 15
  let v := if f3 ≥ 4 then word ra else c.xr ra
  let writes := decide (f3 % 4 = 1) || ra != 0
  match rvCsr (bitsOf w 31 20) with
  | none => (c.illegal, [])
  | some (r, lo, n) =>
    if !c.reaches r ∨ (writes ∧ r = .time) ∨ (r = .fcsr ∧ !c.fpOn) then (c.illegal, [])
    else
      let all := c.read now r
      let mask := word (2 ^ n - 1)
      let old := (all >>> lo) &&& mask
      let new := match f3 % 4 with
        | 1 => v
        | 2 => old ||| v
        | _ => old &&& ~~~v
      let c1 := if writes then c.put r ((all &&& ~~~(mask <<< lo)) ||| ((new &&& mask) <<< lo)) else c
      let c2 := if writes ∧ r = .fcsr then { c1 with mstatus := c1.mstatus ||| 0x6000 } else c1
      c2.done (bitsOf w 11 7) 4 old

/-- ECALL, EBREAK, returns, WFI, which goes on at once, and SFENCE.VMA. -/
def CpRegs.systemWord (c : CpRegs) (now w len : Nat) : CpEff :=
  if bitsOf w 14 12 = 4 then (c.illegal, [])
  else if bitsOf w 14 12 ≠ 0 then c.csrWord now w
  else if bitsOf w 31 25 = 9 ∧ bitsOf w 11 7 = 0 then
    (if c.mode = 0 ∨ (c.mode = 1 ∧ c.mstatus.getLsbD 20) then c.illegal else c.skip len, [])
  else
    (match bitsOf w 31 7 with
     | 0x0 => c.trap (word (8 + c.mode.toNat)) 0 false
     | 0x2000 => c.trap 3 0 false
     | 0x604000 => c.mret
     | 0x204000 => c.sret
     | 0x20A000 => if c.mode ≠ 3 ∧ c.mstatus.getLsbD 21 then c.illegal else c.skip len
     | _ => c.illegal, [])

/-- An operation with a constant. -/
def CpRegs.immWord (c : CpRegs) (w len : Nat) : CpEff :=
  let f3 := bitsOf w 14 12
  let f6 := bitsOf w 31 26
  let x := c.xr (bitsOf w 19 15)
  if f3 = 1 ∧ f6 ≠ 0 ∨ f3 = 5 ∧ f6 ≠ 0 ∧ f6 ≠ 0x10 then (c.illegal, [])
  else c.done (bitsOf w 11 7) len (rvAlu f3 (f3 = 5 ∧ f6 = 0x10) x (rvImmI w))

/-- An operation on registers. -/
def CpRegs.opWord (c : CpRegs) (w len : Nat) : CpEff :=
  let f3 := bitsOf w 14 12
  let x := c.xr (bitsOf w 19 15)
  let y := c.xr (bitsOf w 24 20)
  match bitsOf w 31 25 with
  | 0 => c.done (bitsOf w 11 7) len (rvAlu f3 false x y)
  | 1 => c.done (bitsOf w 11 7) len (rvMul f3 x y)
  | 0x20 => if f3 = 0 ∨ f3 = 5 then c.done (bitsOf w 11 7) len (rvAlu f3 true x y) else (c.illegal, [])
  | _ => (c.illegal, [])

/-- An operation on 32 bits, with a constant (`imm`) or on registers. -/
def CpRegs.opWordW (c : CpRegs) (imm : Bool) (w len : Nat) : CpEff :=
  let f3 := bitsOf w 14 12
  let x := c.xr (bitsOf w 19 15)
  let r :=
    if !imm then rvAluW f3 (bitsOf w 31 25) x (c.xr (bitsOf w 24 20))
    else if f3 = 0 then rvAluW 0 0 x (rvImmI w)
    else if f3 = 1 ∧ bitsOf w 31 25 = 0 ∨ f3 = 5 ∧ (bitsOf w 31 25 = 0 ∨ bitsOf w 31 25 = 0x20) then
      rvAluW f3 (bitsOf w 31 25) x (word (bitsOf w 24 20))
    else none
  match r with
  | some v => c.done (bitsOf w 11 7) len v
  | none => (c.illegal, [])

/-! ### Running -/

/-- Perform a word that takes `len` bytes of code. -/
def CpRegs.perform (c : CpRegs) (now : Nat) (m : List Host.Cell) (w len : Nat) : CpEff :=
  let rd := bitsOf w 11 7
  let x := c.xr (bitsOf w 19 15)
  let link := c.pc + word len
  match w % 128 with
  | 0x37 => c.done rd len (rvImmU w)
  | 0x17 => c.done rd len (c.pc + rvImmU w)
  | 0x6F => ({ c.setX (rvReg rd) link with pc := c.pc + rvImmJ w }, [])
  | 0x67 => if bitsOf w 14 12 = 0 then ({ c.setX (rvReg rd) link with pc := (x + rvImmI w) &&& ~~~1#64 }, []) else (c.illegal, [])
  | 0x63 =>
    match rvTaken (bitsOf w 14 12) x (c.xr (bitsOf w 24 20)) with
    | some b => (if b then { c with pc := c.pc + rvImmB w } else c.skip len, [])
    | none => (c.illegal, [])
  | 0x03 => c.loadWord m w len
  | 0x23 => c.storeWord m w len
  | 0x13 => c.immWord w len
  | 0x33 => c.opWord w len
  | 0x1B => c.opWordW true w len
  | 0x3B => c.opWordW false w len
  | 0x0F => (if bitsOf w 14 12 ≤ 1 then c.skip len else c.illegal, [])
  | 0x73 => c.systemWord now w len
  | 0x2F => c.amo m w
  | 0x07 => c.floadWord m w len
  | 0x27 => c.fstoreWord m w len
  | 0x43 | 0x47 | 0x4B | 0x4F | 0x53 => c.fp w
  | _ => (c.illegal, [])

/-- The halfword of code at a virtual address. -/
def CpRegs.half (c : CpRegs) (m : List Host.Cell) (va : Word) : Option Nat :=
  (c.phys m .fetch va.toNat).map (fun a => bytesNat (memBytes m (keyHbm a) 2))

/-- Fetch the word at the pc and perform it. -/
def CpRegs.fetchRun (c : CpRegs) (now : Nat) (m : List Host.Cell) : CpEff :=
  match c.half m c.pc with
  | none => (c.trap 12 c.pc false, [])
  | some h =>
    if h % 4 ≠ 3 then
      match rvExpand h with
      | some w => c.perform now m w 2
      | none => (c.illegal, [])
    else
      match c.half m (c.pc + 2) with
      | none => (c.trap 12 (c.pc + 2) false, [])
      | some g => c.perform now m (g * 2 ^ 16 + h) 4

/-- What an act comes to: an enabled interrupt that is pending goes before a word or an effect of one. -/
def CpRegs.runAct (c : CpRegs) (now : Nat) (m : List Host.Cell) (op : CpOp) : CpEff :=
  match op.isWord, c.irq with
  | true, some n => (c.trap (word (2 ^ 63 + n)) 0 false, [])
  | _, _ =>
    match op with
    | .run => c.fetchRun now m
    | _ => (c.act now m op, [])

/-- A reservation is lost to a write of its bytes. -/
def CpRegs.lose (c : CpRegs) (out : List (Nat × Byte)) : CpRegs :=
  match c.resv with
  | some (a, n, _) => if out.any (fun b => decide (keyHbm a ≤ b.1) && decide (b.1 < keyHbm a + n)) then { c with resv := none } else c
  | none => c

/-- What the watchdogs see of an act: a heartbeat of the processor's I/O die (R399). -/
def Device.hears (d : Device) (n : Fin 8) (now : Nat) (op : CpOp) : Device :=
  match op with
  | .beat => { d with beats := d.beats.set (n.val / 4) now (by omega) }
  | _ => d

/-- A command processor acts. -/
def State.cpAct (s : State) (n : Fin 8) (op : CpOp) : Out :=
  let r := (s.cps.get n).runAct s.now s.mem op
  let s1 := s.putBytes (r.2.map (fun b => (b.1, b.2, false)))
  .next { s1 with cps := (s1.cps.map (fun c => c.lose r.2)).set n r.1, dev := s1.dev.hears n s.now op }

end Sys2Proof.Machine
end

