-- ==== Sys2Proof/Machine/Handler.lean ====
section
/-! DEFINITION. Slorraroth's core handler in one action (12_system R363, R367, R368): reflection, the services
of ECALL, the emulation of misaligned accesses (04_access R112), and the end of the slice otherwise. -/

namespace Sys2Proof.Machine

/-! ### Returning -/

/-- ERET to a given address of the A side. -/
def Hart.eretTo (h : Hart) (pc : Word) : Hart := { h with tr := { h.tr with epc := pc } }.eret

/-- Return past the trapped A-side instruction (R112, R272). -/
def Hart.eretPast (h : Hart) : Hart := h.eretTo (h.tr.epc + 4)

/-- Return to the trapped vector access at its next element (R112). -/
def Hart.eretAt (h : Hart) (e : Nat) : Hart := (h.aVstart e).eret

/-- Slorraroth ends the slice of the running hart (R337). -/
def State.giveUp (s : State) : Out := .next (s.endSlice (s.caravan s.own.cur).slice)

/-- A trap of the handler itself (R362). -/
def State.nested (s : State) (t : Trap) : Out := .next (s.takeTrap t s.h.a.pc)

/-! ### Reflection (R368) -/

/-- Whether a mask selects a cause. -/
def selects (mask : Word) (cause : Nat) : Bool := mask.getLsbD cause

/-- CAUSE as it reads (R359). -/
def Traps.cause (t : Traps) : Nat := t.code.toNat + (if t.causeX then 2 ^ 31 else 0)

/-- The 64 bytes of the record (R368). -/
def Hart.reflRecord (h : Hart) : List Byte :=
  natBytes h.tr.cause 8 ++ natBytes h.tr.epc.toNat 8 ++ natBytes h.tr.xepc.toNat 8 ++ natBytes h.tr.tval.toNat 8 ++
    natBytes h.tr.tval2.toNat 8 ++ natBytes ((h.aside.getD []).length) 8 ++ natBytes 0 16

/-- Reflect the trap of the running hart to a registration (R368). -/
def State.reflect (s : State) (handler record : Word) : Out :=
  match checkElem s s.own.cur record 64 needW 0 with
  | .error t => s.nested t
  | .ok p =>
    if s.mustWait [(p, 64)] false then .next s
    else
      .next ((s.storePlace p (whole s.h.reflRecord) .clear .plain false s.own.defer).modH (fun h =>
        { h with eng := { h.eng with refl := none } }.eretTo handler))

/-- The registration that reflects a cause of the running hart. -/
def State.reflects (s : State) (cause : Nat) : Option (Word × Word) :=
  match s.h.eng.refl with
  | some (handler, mask, record) => if selects mask cause && !s.h.tr.causeX then some (handler, record) else none
  | none => none

/-- A POISON that the handler delivers for a scalar load or an AMO (R112). -/
def State.deliverPoison (s : State) (g : Word) : Out :=
  let s1 := s.modH (fun h => { h with tr := { h.tr with code := BitVec.ofNat 8 cPoison, tval := g, tval2 := 0 } })
  match s1.reflects cPoison with
  | some (handler, record) => s1.reflect handler record
  | none => s1.giveUp

/-! ### ECALL (R367) -/

/-- Causes that can be reflected (R367). -/
def reflectable : Word := 0x45BA8

/-- SETHND's result (R367). -/
def State.sethndResult (s : State) (handler mask record : Word) : Nat :=
  if handler = 0 then 0
  else if handler.toNat % 4 ≠ 0 ∨ !s.inCode s.own.cur handler then 1
  else if winClass s s.own.cur record ≠ 1 ∨ record.toNat % 64 ≠ 0 then 2
  else if mask &&& ~~~reflectable ≠ 0 then 3
  else 0

/-- The service that a8 names, and a1 on return (R367). -/
def State.service (s : State) : State :=
  let h := s.h
  let handler := h.readA 1
  if h.readA 8 = 1 then
    let r := s.sethndResult handler (h.readA 2) (h.readA 3)
    let reg := if r ≠ 0 then h.eng.refl else if handler = 0 then none else some (handler, h.readA 2, h.readA 3)
    s.setH ({ h with eng := { h.eng with refl := reg } }.writeA 1 (word r))
  else s.setH (h.writeA 1 (word (2 ^ 64 - 1)))

/-! ### Emulating a misaligned access byte by byte (R112) -/

/-- The word of the trapped A-side instruction, as its fetch read it. -/
def Hart.trappedWord (h : Hart) : BitVec 32 :=
  match h.icache.find? (fun e => e.1 == .A && e.2.1 == h.tr.epc) with
  | some e => e.2.2
  | none => 0

/-- The single-byte pieces of pieces, in order. -/
def splitBytes (ps : List Piece) : List Piece :=
  ps.flatMap (fun p => (List.range p.n).map (fun i => ⟨p.g + word i, 1, none⟩))

/-- Read checked bytes: their values, and whether some granule is poisoned. -/
def State.readBytes (s : State) (ps : List (Place × Piece)) : List Byte × Bool :=
  ps.foldr (fun p acc => let r := s.readAs s.own.cur p.1.key 1; (r.1 ++ acc.1, r.2 || acc.2)) ([], false)

/-- What the byte stored at a key does to poison, among the keys that its element covers: a poisoned byte poisons its
granule, and a granule that the element covers whole is cleared with its last byte (R112, R126; log 77). -/
def byteAct (keys : List Nat) (key : Nat) (psn : Bool) : PoisonAct :=
  if psn then .set
  else if key % 4 = 3 ∧ [key - 1, key - 2, key - 3].all keys.contains then .clear
  else .keep

/-- Write checked bytes one by one. -/
def State.writeBytes (s : State) (ps : List (Place × Piece)) (bs : List Byte) (psn : Bool) : State :=
  let keys := ps.map (fun p => p.1.key)
  (ps.zip bs).foldl (fun t x =>
    t.storePlace x.1.1 (whole [x.2]) (byteAct keys x.1.1.key psn) .plain false s.own.defer) s

/-- Places with their sizes. -/
def sized (ps : List (Place × Piece)) : List (Place × Nat) := ps.map (fun p => (p.1, 1))

/-- Run on the checked bytes of an access; a check that fails is a trap of the handler. -/
def State.withBytes (s : State) (ps : List Piece) (need : Need) (f : List (Place × Piece) → Out) : Out :=
  match s.checkPieces need 0 (splitBytes ps) with
  | .error t => s.nested t
  | .ok places => if s.mustWait (sized places) false then .next s else f places

/-- Emulate a scalar load. -/
def State.emuLoad (s : State) (d : Reg) (n : Nat) (signed : Bool) : Out :=
  let g := s.h.tr.tval
  s.withBytes [⟨g, n, none⟩] needR (fun places =>
    let r := s.readBytes places
    if r.2 then s.deliverPoison g
    else .next (s.modH (fun h => (h.writeA d (extend signed r.1)).eretPast)))

/-- Emulate a scalar store. -/
def State.emuStore (s : State) (d : Reg) (n : Nat) : Out :=
  s.withBytes [⟨s.h.tr.tval, n, none⟩] needW (fun places =>
    .next ((s.writeBytes places (lowBytes (s.h.readA d) n) false).modH Hart.eretPast))

/-- Emulate an AMO (R156). -/
def State.emuAmo (s : State) (m : Amo) : Out :=
  let g := s.h.tr.tval
  s.withBytes [⟨g, m.w, none⟩] needRW (fun places =>
    let r := s.readBytes places
    if r.2 then s.deliverPoison g
    else
      let old := bytesNat r.1
      let lim := 2 ^ (8 * m.w)
      let s1 := match m.f old ((s.h.readA m.b).toNat % lim) ((s.h.readA m.d).toNat % lim) with
        | some v => s.writeBytes places (natBytes v m.w) false
        | none => s
      .next (s1.modH (fun h => (h.writeA m.d (amoResult m.w old)).eretPast)))

/-- The values of pieces from their bytes. -/
def pieceVals : List Piece → List Byte → List Nat
  | [], _ => []
  | p :: t, bs => bytesNat (bs.take p.n) :: pieceVals t (bs.drop p.n)

/-- Put an element into the entry that the trapped load holds reserved. -/
def Hart.fillReserved (h : Hart) (q : Fin 4) (w pos v : Nat) (psn : Bool) : Hart :=
  { h with q := { h.q with vload := h.q.vload.set q { h.q.vload[q] with
      resv := (h.q.vload[q]).resv.map (fun r => { r with entry := { r.entry with
        data := putBits r.entry.data w (w * pos) (if psn then 0 else v), psn := setBit r.entry.psn pos psn } }) } } }

/-- Emulate element `e` of a vector load. -/
def State.emuVload (s : State) (q : Fin 4) (w e : Nat) (elt : Elt) (build : List Nat → Nat) : Out :=
  match elt with
  | .pieces ps =>
    s.withBytes ps needR (fun places =>
      let r := s.readBytes places
      .next (s.modH (fun h => (h.fillReserved q w (e % perReg w) (build (pieceVals ps r.1)) r.2).eretAt (e + 1))))
  | _ => s.giveUp

/-- Write the pieces of an element byte by byte, from the highest plane (R216); an add reads them first
(R130). -/
def State.emuWrites (s : State) (kind : StoreKind) (psn : Bool) : List (List (Place × Piece) × List Byte) → State
  | [] => s
  | (ps, v) :: t =>
    let r := s.readBytes ps
    match kind with
    | .add fp => (s.writeBytes ps (addBytes fp r.1 v) (psn || r.2)).emuWrites kind psn t
    | _ => (s.writeBytes ps v psn).emuWrites kind psn t

/-- Group checked bytes by the pieces they came from. -/
def byPiece : List Piece → List (Place × Piece) → List (List (Place × Piece))
  | [], _ => []
  | p :: t, bs => bs.take p.n :: byPiece t (bs.drop p.n)

/-- Return to a trapped store at the element after `e`; an entry whose last element that was leaves the queue, since
the store resumes at the entry after it (log 77). -/
def Hart.eretStore (h : Hart) (q : Fin 4) (w e : Nat) : Hart :=
  (if (e + 1) % perReg w = 0 then h.popStores q 1 else h).eretAt (e + 1)

/-- Emulate element `e` of a vector store from the head entry of its queue. -/
def State.emuVstore (s : State) (q : Fin 4) (need : Need) (w e : Nat) (kind : StoreKind) (elt : Elt)
    (split : Nat → Bool → List Nat) : Out :=
  match elt, (s.h.q.vstore[q]).items.head? with
  | .pieces ps, some en =>
    let pos := e % perReg w
    let psn := en.psn.getLsbD pos
    let vals := split (vGet [en.data] w pos) psn
    if !en.pred.getLsbD pos then .next (s.modH (fun h => h.eretStore q w e))
    else
      s.withBytes ps need (fun places =>
        match (if psn then places.find? (fun p => keyIsHost p.1.key) else none) with
        | some p => s.nested ⟨cPoison, p.2.g, 1⟩
        | none =>
          .next ((s.emuWrites kind psn ((byPiece ps places).zip ((ps.zip vals).map (fun x => natBytes x.2 x.1.n))).reverse).modH
            (fun h => h.eretStore q w e)))
  | _, _ => s.giveUp

/-- The index entries that the trapped access holds (R128, log 74). -/
def Hart.heldIndex (h : Hart) (x : Reg) : List Entry :=
  if isQ x then (h.q.vstore[qNo x]).heldAt h.tr.epc else []

/-- Emulate the vector access of an instruction at element `e` (R112, R213); other accesses end the slice. -/
def State.emuVector (s : State) (i : Instr) (e : Nat) : Out :=
  match i with
  | .vld q b _ _ z => s.emuVload (qNo q) z.width e (s.eltUnit b z.width e) one
  | .vldff q b _ _ z => s.emuVload (qNo q) z.width e (s.eltUnit b z.width e) one
  | .vlds q b r _ _ z => s.emuVload (qNo q) z.width e (s.eltStride b r z.width e) one
  | .vldx q b x _ _ _ z => s.emuVload (qNo q) z.width e (s.eltIndex b x (s.h.heldIndex x) z.width false e) one
  | .vldp q b r pl _ _ rnd fam =>
    let k := pl.toNat + 1
    s.emuVload (qNo q) fam.width e (s.eltPlanes b r fam.planeWidth (if rnd then k else k - 1) e) (joinPlanes fam k rnd)
  | .vst q b _ _ z => s.emuVstore (qNo q) needW z.width e .plain (s.eltUnit b z.width e) whole1
  | .vsts q b r _ _ z => s.emuVstore (qNo q) needW z.width e .plain (s.eltStride b r z.width e) whole1
  | .vstx q b x _ _ z => s.emuVstore (qNo q) needW z.width e .plain (s.eltIndex b x (s.h.heldIndex x) z.width true e) whole1
  | .vstxadd q b x _ _ fp z => s.emuVstore (qNo q) needRW z.width e (.add fp) (s.eltIndex b x (s.h.heldIndex x) z.width true e) whole1
  | .vstp q b r pl _ _ zlow fam =>
    let k := pl.toNat + 1
    let top := if zlow then fam.planes - 1 else k - 1
    s.emuVstore (qNo q) needW fam.width e .plain (s.eltPlanes b r fam.planeWidth top e) (splitPlanes fam k top)
  | _ => s.giveUp

/-- The source register of a scalar store and its bytes (R113). -/
def scalarStoreOf (i : Instr) : Option (Reg × Nat) :=
  match i with
  | .sth d _ _ => some (d, 2)
  | .stw d _ _ => some (d, 4)
  | .std d _ _ => some (d, 8)
  | _ => none

/-- Bytes of a scalar load that can be misaligned (R113). -/
def scalarLoadBytes (i : Instr) : Nat :=
  match i with
  | .ldh .. | .ldhn .. => 2
  | .ldw .. | .ldwn .. => 4
  | .ldd .. => 8
  | _ => 1

/-- Emulate the trapped instruction (R112). -/
def State.emulate (s : State) : Out :=
  match decode s.h.trappedWord with
  | .error _ => s.giveUp
  | .ok i =>
    match i.amo?, i.load?, scalarStoreOf i with
    | some m, _, _ => s.emuAmo m
    | none, some (d, sg), _ => s.emuLoad d (scalarLoadBytes i) sg
    | none, none, some (d, n) => s.emuStore d n
    | none, none, none => s.emuVector i s.h.tr.tval2.toNat

/-! ### The handler -/

/-- OVERDUE: wait for the copy of TVAL's handle as WAITH does, then resume past the WAITD (R272, R363); past QWAIT the
wait is a WAITTIME of the handler. -/
def State.awaitOverdue (s : State) : Out :=
  match s.lookup s.h.tr.tval with
  | .error t => s.nested t
  | .ok none => .next (s.modH Hart.eretPast)
  | .ok (some r) =>
    if !r.over then s.waitOr (.overdue s.own.cur) s.h.qwaitOf s.h.tr.tval
    else if r.st = .done then .next (s.modH Hart.eretPast)
    else s.nested (endedTrap s.h.tr.tval r)

/-- The action of R363 for a trap that is not reflected. -/
def State.shipped (s : State) : Out :=
  let c := s.h.tr.code.toNat
  if c = cEcall then .next ((if s.h.tr.causeX then s else s.service).modH Hart.eret)
  else if c = cShadow then .next (s.modH Hart.eret)
  else if c = cOverdue then s.awaitOverdue
  else if c = cMisalign then s.emulate
  else s.giveUp

/-- The core handler of a hart acts. -/
def State.handlerAct (s : State) (k : HartKey) : Out :=
  if s.canRun k .A && (s.hart k).tr.smode then
    let s1 := s.actAs k .A
    match s1.reflects s1.h.tr.code.toNat with
    | some (handler, record) => s1.reflect handler record
    | none => s1.shipped
  else .next s

end Sys2Proof.Machine
end

