-- ==== Sys2Proof/Machine/Step.lean ====
section
/-! DEFINITION. One step of the device: the next turn begins and its action is performed (log 1); and the
state in which the next step runs a given word. -/

namespace Sys2Proof.Machine

/-- Perform an action. -/
def act (a : Act) (s : State) : Out :=
  match a with
  | .run k sd => s.runSide k sd
  | .event i => exec i s
  | .handler k => s.handlerAct k
  | .bar fn off size w => s.barAccess fn off size w
  | .cp n op => s.cpAct n op

/-- One step. Without power nothing acts until a cold reset (R387, R397). -/
def step (s : State) : Host.Outcome State Fault Refusal :=
  match s.dev.off, s.turn.act with
  | true, .event (.coldReset a b) => act (.event (.coldReset a b)) s.begin
  | true, _ => .fault .poweredOff
  | false, a => act a s.begin

/-! ### Running one word -/

/-- The hart that `withFetchWord` uses: die 0, slot tag 1, hart 0. -/
def demoHart : HartKey := ⟨0, 1, 0⟩

/-- The code address that `withFetchWord` uses. -/
def demoPc : Nat := 0x10000

/-- Table entries that map the page of `demoPc`, executable, at physical address 0x40000 (R140, R141). -/
def demoTables : List (Nat × Nat) :=
  [(0x100000, 0x110001), (0x110000, 0x120001), (0x120000, 0x130001), (0x130008, 0x4001B)]

/-- The side that runs a word: the X side for X-only words. -/
def demoSide (nbits w : Nat) : Side :=
  match decodeTableWord nbits w with
  | some i => (i.onSide).getD .A
  | none => .A

/-- A sequencer that is about to run the word. -/
def demoSeq (q : Seq) : Seq := { q with pc := word demoPc, ended := false, stop := none, wait := none }

/-- The hart with that sequencer ready in U mode. -/
def demoReady (h : Hart) (sd : Side) : Hart :=
  { h.setSeq sd (demoSeq (h.seq sd)) with
    tr := { h.tr with smode := false, xpause := false, halted := false, haltreq := false },
    icache := [], mem := { h.mem with pendLoad := none, mid := none, fence := [] } }

/-- `s` with a word of `nbits` bits where the next step fetches, and that fetch the next turn: a context
whose tables map the code page, a slice with the code range, a caravan of one hart on core 0 (log 1). -/
def State.withFetchWord (s : State) (nbits w : Nat) : State :=
  let k := demoHart
  let sl := s.sliceNo 1
  let c := s.carOf ⟨0, 1⟩
  let mem := demoTables.foldl (fun m e => memPut m (keyHbm e.1) (whole (natBytes e.2 8))) s.mem
  { s with
    own := { s.own with turns := [{ elapsed := 0, act := .run k (demoSide nbits w), defer := false, upset := .none }] },
    mem := memPut mem (keyHbm 0x40000) (whole (natBytes w 4)),
    ctxs := kvSet s.ctxs 1 { s.ctxNo 1 with valid := true, failed := false, root := 0x100000 },
    slices := kvSet s.slices 1 { sl with num := 1, ctx := 1, st := .ready,
                                         desc := { sl.desc with codebase := demoPc, codelen := 0x10000, count := 1, shape := 1 } },
    cars := kvSet s.cars ⟨0, 1⟩ { c with slice := 1, size := 1, cores := [0], st := .running, budget := none },
    harts := kvSet s.harts k (demoReady (s.hart k) (demoSide nbits w)),
    dev := { s.dev with off := false, warm := none } }

end Sys2Proof.Machine
end

