-- ==== Sys2Proof/Safety.lean ====
section
/-! DEFINITION. What claims are stated in terms of: the canonical forms that every step keeps, when an instruction
has what it needs to complete, and what a frame leaves alone. -/

namespace Sys2Proof.Machine

/-- The poison list holds granule numbers, strictly rising. -/
def Poison.wf (p : List Nat) : Bool := match p with
  | [] => true
  | a :: t => (match t with | [] => true | b :: _ => decide (a < b)) && Poison.wf t

/-- Memory and the poison list are in their canonical forms. -/
def State.Inv (s : State) : Prop := Memory.wf s.mem = true ∧ Poison.wf s.poison = true

/-! ### When an instruction completes -/

/-- The running side is not single-stepped (R374). -/
def State.unstepped (s : State) : Bool :=
  s.h.tr.smode || !(match s.own.side with | .A => s.h.tr.stepa | .X => s.h.tr.stepx)

/-- The word is legal where it stands (R61 to R63), every queue that it pops and pushes is ready (R42), and the
side is not single-stepped. -/
def State.ready (s : State) (i : Instr) (fs : List Fld) (sd vd : Option Reg) : Prop :=
  s.illegalSub i = none ∧ (s.own.side = .X → s.h.blocked fs sd vd = none) ∧ s.unstepped = true

/-- The fields are taken, d receives a value, and the instruction completes. -/
def State.wrote (s : State) (fs : List Fld) (d : Reg) (v : Word) : Out :=
  .next ((s.popAll fs).writeR d v).advance

/-! ### When the core handler acts -/

/-- The A side of a hart runs, in S mode: its core handler acts (R360, R363). -/
def State.handles (s : State) (k : HartKey) : Prop := s.canRun k .A = true ∧ (s.hart k).tr.smode = true

/-- No registration reflects the trap of the running hart (R368). -/
def State.unreflected (s : State) : Prop :=
  ∀ r, s.h.eng.refl = some r → s.h.tr.causeX = false → r.2.1.getLsbD s.h.tr.code.toNat = false

/-- The running hart of `t` has returned from the handler that ran in `s`: U mode, the set-aside loop stack, the A side at
`pc` and the X side at XEPC (R365). -/
def State.returned (s t : State) (pc : Word) : Prop :=
  t.h.tr.smode = false ∧ t.h.tr.xpause = false ∧ t.h.a.pc = pc ∧ t.h.x.pc = s.h.tr.xepc ∧
  t.h.a.loops = s.h.aside.getD [] ∧ t.h.a.ended = s.h.a.ended ∧ t.h.x.ended = s.h.x.ended ∧ t.h.csr = s.h.csr

/-- The handler of the running hart emulates the instruction `i`, whose trap is a MISALIGN that no registration reflects;
the `n` bytes at `g` pass the checks of single bytes and lie at `places` (R112). -/
def State.emulates (s : State) (i : Instr) (g : Word) (n : Nat) (need : Need) (places : List (Place × Piece)) : Prop :=
  s.h.tr.code = 0x02 ∧ s.unreflected ∧ decode s.h.trappedWord = .ok i ∧
  s.checkPieces need 0 ((List.range n).map (fun j => ⟨g + word j, 1, none⟩)) = .ok places ∧
  s.h.mem.pend = [] ∧ s.own.defer = false ∧ (∀ p ∈ places, p.1.cls ≠ 6 ∧ p.1.rd = none) ∧
  (places.map (fun p => p.1.key)).Nodup

/-- The bytes at the places, and whether one is poisoned. -/
def State.bytesOf (s : State) (places : List (Place × Piece)) : List Byte × Bool :=
  (places.map (fun p => memGet s.mem p.1.key), places.any (fun p => keyHoldsPoison p.1.key && poisoned s.poison p.1.key 1))

/-- Memory holds the bytes at the places, and is as it was elsewhere. -/
def State.putAt (s t : State) (places : List (Place × Piece)) (bs : List Byte) : Prop :=
  (∀ x ∈ places.zip bs, memGet t.mem x.1.1.key = x.2) ∧ ∀ a, (∀ p ∈ places, p.1.key ≠ a) → memGet t.mem a = memGet s.mem a

/-- The running hart with a POISON at `g` in place of its trap (R112). -/
def State.withPoison (s : State) (g : Word) : State :=
  s.modH (fun h => { h with tr := { h.tr with code := 0x05, tval := g, tval2 := 0 } })

/-! ### Atomic memory operations (R154, R156) -/

/-- The AMOs with what each writes, from the old value, the operand of b and, for AMOCAS, the value of d: a number, or
nothing for a comparison that fails. -/
def amoRows (d a b : Reg) (acq rel : Bool) (sc : Scope) (q : Bool) (old v c : Nat) : List (Instr × Option Nat) :=
  let n := if q then 8 else 4
  let si := fun (x : Nat) => (BitVec.ofNat (8 * n) x).toInt
  [(.amoadd d a b acq rel sc q, some ((old + v) % 2 ^ (8 * n))), (.amoand d a b acq rel sc q, some (old &&& v)),
   (.amoor d a b acq rel sc q, some (old ||| v)), (.amoxor d a b acq rel sc q, some (old ^^^ v)),
   (.amomin d a b acq rel sc q, some (if si old ≤ si v then old else v)),
   (.amomax d a b acq rel sc q, some (if si old ≤ si v then v else old)),
   (.amominn d a b acq rel sc q, some (min old v)), (.amomaxn d a b acq rel sc q, some (max old v)),
   (.amoswap d a b acq rel sc q, some v), (.amocas d a b acq rel sc q, if old = c then some v else none),
   (.amofadd d a b acq rel sc q, some (amoFadd n old v))]

/-! ### When an access completes -/

/-- Every earlier access of the running hart has been performed. -/
def State.quiet (s : State) : Prop := s.h.mem.pend = [] ∧ s.h.mem.pendLoad = none

/-- An access of `n` bytes at `g` may be performed at once: its checks pass, it names no device register, and every
earlier access of the hart has been performed. -/
def State.reaches (s : State) (g : Word) (n : Nat) (need : Need) (p : Place) : Prop :=
  checkElem s s.own.cur g n need 0 = .ok p ∧ p.cls ≠ 6 ∧ p.rd = none ∧ s.quiet ∧ s.own.defer = false

/-- Whether some granule of the bytes at a place is poisoned (R114, R155). -/
def State.psnAt (s : State) (p : Place) (n : Nat) : Bool := keyHoldsPoison p.key && poisoned s.poison p.key n

/-- A vector load of `vl` elements of width `w` completes in one turn: it starts anew, its queue has room for every
entry, every earlier access has been performed and every element passes its checks. -/
def State.loadable (s : State) (i : Instr) (q : Reg) (w vl : Nat) (elt : Nat → Elt) : Prop :=
  s.illegalSub i = none ∧ s.unstepped = true ∧ s.h.a.vstart = 0 ∧ (s.h.q.vload[qNo q]).resv = none ∧
  s.quiet ∧ s.h.mem.got = none ∧ s.own.cut = none ∧ (s.h.q.vload[qNo q]).items.length + entries vl w ≤ Config.vqDepth ∧
  ∀ e < vl, ∃ ps, s.checkElt needR e (elt e) = .ok ps ∧ ∀ p ∈ ps, p.1.cls ≠ 6

/-- What a vector load delivers (R124, R126): its entries at the tail of its queue, element e at position e mod m of
entry e / m, an element of poisoned bytes 0 with its poison bit set, and nothing at or above `vl`. -/
def State.loads (s t : State) (q : Reg) (w vl : Nat) (elt : Nat → Elt) (build : List Nat → Nat) : Prop :=
  ∃ new : List Entry,
    (t.h.q.vload[qNo q]).items = (s.h.q.vload[qNo q]).items ++ new ∧ new.length = entries vl w ∧
    (∀ e < vl, ∀ ps, elt e = .pieces ps → ∃ places vs bad,
      s.checkPieces needR e ps = .ok places ∧ s.readPieces places = (vs, bad) ∧
      vGet [(new.getD (e / perReg w) Entry.zero).data] w (e % perReg w) = (if bad then 0 else build vs % 2 ^ w) ∧
      (new.getD (e / perReg w) Entry.zero).psn.getLsbD (e % perReg w) = bad) ∧
    (∀ e, vl ≤ e → e < new.length * perReg w →
      vGet [(new.getD (e / perReg w) Entry.zero).data] w (e % perReg w) = 0 ∧
      (new.getD (e / perReg w) Entry.zero).psn.getLsbD (e % perReg w) = false) ∧
    t.mem = s.mem ∧ t.poison = s.poison ∧ t.h.a.vstart = 0 ∧ t.h.regs = s.h.regs ∧ t.h.csr = s.h.csr

/-- The elements that a vector store of one entry writes: those below `vl` whose predicate bit is set and whose
index makes them active (R125, R128). -/
def storedElts (w vl : Nat) (en : Entry) (elt : Nat → Elt) : List Nat :=
  (List.range vl).filter (fun e => en.pred.getLsbD (e % perReg w) && elt e != .skip)

/-- A vector store of one entry completes: it starts anew, nothing of it is deferred, `en` stands behind the `skip` index
entries of the access, and every element that it writes passes its checks; `xs` are those elements with their checked
places and values. -/
def State.storable (s : State) (i : Instr) (q : Reg) (need : Need) (w vl skip : Nat) (elt : Nat → Elt)
    (split : Nat → Bool → List Nat) (en : Entry) (xs : List StElt) : Prop :=
  s.illegalSub i = none ∧ s.unstepped = true ∧ s.h.a.vstart = 0 ∧ s.quiet ∧ s.own.defer = false ∧ vl ≤ perReg w ∧
  (s.h.q.vstore[qNo q]).items[skip]? = some en ∧
  (storedElts w vl en elt).map (fun e => s.stElt need w elt split en e) = xs.map Except.ok ∧
  ∀ x ∈ xs, ∀ p ∈ x.ps, p.1.cls ≠ 6 ∧ p.1.rd = none

/-- Whether a byte belongs to a piece of an element. -/
def StElt.holds (x : StElt) (p : Place × Piece × Nat) (a : Nat) : Prop := p ∈ x.ps ∧ p.1.key ≤ a ∧ a < p.1.key + p.2.1.n

/-- What a vector store of one entry leaves (R124 to R126): its entry and the `skip` index entries before it gone, every
byte outside its pieces as it was, and a whole-byte piece that no other piece overlaps holding `val` of its old bytes
and its value. -/
def State.stores (s t : State) (q : Reg) (skip : Nat) (xs : List StElt) (val : List Byte → List Byte → List Byte) : Prop :=
  (t.h.q.vstore[qNo q]).items = (s.h.q.vstore[qNo q]).items.drop (skip + 1) ∧ t.h.a.vstart = 0 ∧
  t.h.regs = s.h.regs ∧ t.h.csr = s.h.csr ∧
  (∀ a, (∀ x ∈ xs, ∀ p, ¬x.holds p a) → memGet t.mem a = memGet s.mem a) ∧
  (∀ x ∈ xs, ∀ p ∈ x.ps, p.2.1.nib = none →
    (∀ y ∈ xs, ∀ r, (y, r) ≠ (x, p) → ∀ a, ¬(x.holds p a ∧ y.holds r a)) →
    memBytes t.mem p.1.key p.2.1.n = val (memBytes s.mem p.1.key p.2.1.n) (natBytes p.2.2 p.2.1.n))

/-! ### Rounding (R181) -/

/-- What one rounding of the exact value (-1)^s m 2^e gives, in a format whose largest binade is 2^emax and whose overflow
result is `ovf`: the neighbour that the mode names, ties as RNE or RNA says, NX where it is not exact, and at overflow
`ovf` with OF and NX. -/
def FFmt.rounds (f : FFmt) (emax : Int) (ovf : Nat) (rm : RM) (s : Bool) (m : Nat) (e : Int) (r : FRes) : Prop :=
  let down := rm = .rtz ∨ (rm = .rup ∧ s = true) ∨ (rm = .rdn ∧ s = false)
  let up := (rm = .rup ∧ s = false) ∨ (rm = .rdn ∧ s = true)
  (emax < Nat.log2 m + e → r.2 = 5) ∧ (r.2 = 5 → emax ≤ Nat.log2 m + e ∧ r.1 = f.sgn s + ovf) ∧
  (r.2 ≠ 5 → ∃ n g, f.dec r.1 = .fin s n g ∧ ∀ lo : Int, lo ≤ e → lo ≤ g →
    let M := m * 2 ^ (e - lo).toNat
    let N := n * 2 ^ (g - lo).toNat
    let U := 2 ^ (g - lo).toNat
    (down → N ≤ M ∧ M < N + U) ∧ (up → M ≤ N ∧ N < M + U) ∧
    (¬down → ¬up → 2 * M ≤ 2 * N + U ∧ 2 * N ≤ 2 * M + U) ∧
    (rm = .rne → 2 * M = 2 * N + U ∨ 2 * N = 2 * M + U → n % 2 = 0) ∧ (rm = .rna → 2 * M ≠ 2 * N + U) ∧
    (r.2 % 2 = 1 ↔ M ≠ N))

/-! ### What a command of an engine leaves -/

/-- Bytes that a command writes: where each lands, if it has a translation, and its value, if the spec gives it one. -/
abbrev Outs := List (Option Nat × Option Byte)

/-- No translation reads a byte that lies under these writes. -/
def State.steady (s : State) (outs : Outs) : Prop :=
  ∀ m, (∀ y, (∀ o ∈ outs, o.1 ≠ some y) → memGet m y = memGet s.mem y) →
    ∀ ctx va need, translate { s with mem := m } ctx va need = translate s ctx va need

/-- Memory holds what was written where all writes to a byte agree, and is as it was elsewhere. -/
def State.leaves (s t : State) (outs : Outs) : Prop :=
  (∀ o ∈ outs, ∀ y v, o = (some y, some v) → (∀ p ∈ outs, p.1 = some y → p.2 = some v) → memGet t.mem y = v) ∧
  ∀ y, (∀ o ∈ outs, o.1 ≠ some y) → memGet t.mem y = memGet s.mem y

/-- Bytes at a generic address, as a command reaches them. -/
def State.outsAt (s : State) (i : CmdId) (g : Word) (bs : List Byte) : Outs :=
  bs.zipIdx.map (fun b => (s.keyFor i (g + word b.2) needW, some b.1))

/-- Bytes at a global address of a context. -/
def State.ctxOuts (s : State) (ctx : Nat) (g : Word) (bs : List Byte) : Outs :=
  bs.zipIdx.map (fun b => (translate s ctx (gVa g + b.2) needW, some b.1))

/-- A signal word: bits 62 to 0 of the value, and FAIL in bit 63 (R330, R337). -/
def signalWord (v : Word) (fail : Bool) : List Byte := natBytes (v.toNat % 2 ^ 63 + if fail then 2 ^ 63 else 0) 8

/-- A signal that ends something: its value at its address, or nothing where the address is 0 (R337, R358). -/
def State.signalOuts (s : State) (ctx : Nat) (g v : Word) (fail : Bool) : Outs :=
  if g = 0 then [] else s.ctxOuts ctx g (signalWord v fail)

/-- STATUS and RESULT in a command's block (R290), and fields of its own: offset, bytes, value. -/
def State.blockOuts (s : State) (i : CmdId) (g : Word) (status : Nat) (result : BitVec 32) (fields : List (Nat × Nat × Nat)) : Outs :=
  (fields ++ [(4, 4, result.toNat), (2, 1, status)]).flatMap (fun (f : Nat × Nat × Nat) => s.outsAt i (g + word f.1) (natBytes f.2.2 f.2.1))

/-- A hart's command is under way, and no copy is chained to it. -/
def State.live (s : State) (i : CmdId) : Prop :=
  ∃ k n r, i = .hart k n ∧ s.cmd i = some r ∧ r.over = false ∧ ∀ q ∈ (s.hart k).eng.recs, q.2.awaits n = false

/-- A command has ended with a status, and with a RESULT where the spec gives one; its hart's event bit is set (R102,
R292). -/
def State.endedAs (t : State) (i : CmdId) (status : Nat) (result : Option (BitVec 32)) : Prop :=
  (∃ r, t.cmd i = some r ∧ r.st = (if status = 0 then .done else .failed) ∧ r.status = status ∧ ∀ x, result = some x → r.result = x) ∧
  ∀ k n, i = .hart k n → (t.hart k).event = true

/-! ### When a vector instruction completes, and what it leaves -/

/-- A vector instruction is legal, its queues are ready, VT is valid, it starts at element 0, and no upset strikes the
turn and no forced stop cuts it. -/
def State.vready (s : State) (i : Instr) (fs : List Fld) (sd vd : Option Reg) (v : VType) : Prop :=
  s.ready i fs sd vd ∧ s.own.side = .X ∧ s.vt = some v ∧ s.h.x.vstart = 0 ∧ s.own.upset = .none ∧
  s.own.cut = none

/-- The active elements of a governing predicate (R175). -/
def State.vactive (s : State) (v : VType) (pg : BitVec 3) (e : Nat) : Bool :=
  decide (e < s.vlen v) && (s.h.guard pg).getLsbD e

/-- What every vector, predicate and matrix instruction that completes leaves alone: memory, the A side, the trap
registers, leases and handles of its hart, and every other hart. -/
def State.xkeeps (s t : State) : Prop :=
  t.mem = s.mem ∧ t.poison = s.poison ∧ t.h.regs.a = s.h.regs.a ∧ t.h.a = s.h.a ∧ t.h.tr = s.h.tr ∧ t.h.mem = s.h.mem ∧
  t.h.eng = s.h.eng ∧ t.cars = s.cars ∧ t.seq.pc = s.advance.seq.pc ∧
  ∀ k, k ≠ s.own.cur → t.hart k = s.hart k

/-- The entry that a vector instruction pushes (R185): `val` at each position that `on` selects and 0 at the others, the
predicate bits of the active elements `act`, and the poison bits `psn`. -/
def State.vpushed (s t : State) (d : Reg) (w : Nat) (on act : Nat → Bool) (val : Nat → Nat) (psn : Nat → Bool) : Prop :=
  ∃ en, (t.h.q.vstore[qNo d]).items = (s.h.q.vstore[qNo d]).items ++ [en] ∧
    ∀ e < perReg w, en.pred.getLsbD e = act e ∧ en.psn.getLsbD e = psn e ∧ vGet [en.data] w e = if on e then val e % 2 ^ w else 0

/-- The poison bit of a position of a pushed entry (R185): on IEEE and bfloat16 kinds that its value carries the poison
payload, on the others that PSM holds. -/
def VType.psnBit (v : VType) (t : State) (on : Nat → Bool) (val : Nat → Nat) (e : Nat) : Bool :=
  if v.fp then on e && (v.fmt.dec (val e % 2 ^ v.w)).isPsn else t.h.regs.psm.getLsbD e

/-- What an instruction that writes elements of width `w` to a vector destination of `n` registers leaves (R175,
R184, R185): `val` at each element that `on` selects, an element that it does not select undisturbed, or a pushed entry;
VSTART 0; no other register of its kind changes. -/
def State.vputs (s t : State) (d : Reg) (n w : Nat) (on act : Nat → Bool) (val : Nat → Nat) (psn : Nat → Bool) : Prop :=
  s.xkeeps t ∧ t.h.regs.x = s.h.regs.x ∧ t.h.x.vstart = 0 ∧
  (isQ d = true → t.h.regs.v = s.h.regs.v ∧ s.vpushed t d w on act val psn) ∧
  (isQ d = false → t.h.q.vstore = s.h.q.vstore ∧
    (∀ e < n * perReg w, vGet (t.h.vGroup d n) w e = if on e then val e % 2 ^ w else vGet (s.h.vGroup d n) w e) ∧
    ∀ r < 28, r < d.toNat ∨ d.toNat + n ≤ r → t.h.regs.v.toList[r]? = s.h.regs.v.toList[r]?)

/-- The same at the elements of VT. -/
def State.vwrites (s t : State) (v : VType) (d : Reg) (on act : Nat → Bool) (val : Nat → Nat) : Prop :=
  s.vputs t d v.lmul v.w on act val (v.psnBit t on val)

/-- The predicate registers are as they were. -/
def State.pkeeps (s t : State) : Prop := t.h.regs.p = s.h.regs.p

/-- What is left in PSM and FFLAGS (R98, R205): PSM gains the selected elements that are poisoned, FFLAGS the flags
of the selected elements. -/
def State.vmarks (s t : State) (on bad : Nat → Bool) (flags : Nat → Nat) : Prop :=
  (∀ e < 2048, t.h.regs.psm.getLsbD e = (s.h.regs.psm.getLsbD e || (on e && bad e))) ∧
  t.h.csr.fflags = s.h.csr.fflags ||| BitVec.ofNat 5 (((List.range 2048).filter on).foldl (fun f e => f ||| flags e) 0) ∧
  t.h.csr = { s.h.csr with fflags := t.h.csr.fflags }

/-- What an instruction that writes a predicate register leaves: `val` at each selected bit, every other bit of it
and every other register undisturbed; p0 discards. -/
def State.pputs (s t : State) (d : BitVec 6) (on val : Nat → Bool) : Prop :=
  s.xkeeps t ∧ t.h.regs.x = s.h.regs.x ∧ t.h.regs.v = s.h.regs.v ∧
  (d ≠ 0 → ∀ e < 2048, (t.h.readP d).getLsbD e = if on e then val e else (s.h.readP d).getLsbD e) ∧
  (∀ r, r ≠ d → t.h.readP r = s.h.readP r)

/-- The value that the binary tree of R196 gives over the 2^k elements from `lo`. -/
def treeFrom (add : Nat → Nat → Nat) (x : Nat → Option Nat) : Nat → Nat → Option Nat
  | 0, lo => x lo
  | k + 1, lo =>
    match treeFrom add x k lo, treeFrom add x k (lo + 2 ^ k) with
    | some a, some b => some (add a b)
    | some a, none => some a
    | none, b => b

end Sys2Proof.Machine
end

