-- ==== Sys2Proof/Certificates/Slice0/Obligations.lean ====
section
/-! DEFINITION. The statements for the provers. Each docstring names the rules of the spec that the statement
formalises; a log entry is named where a statement rests on a choice of the model. -/

open Sys2Proof Sys2Proof.Machine

/-! ### Words -/

/-- R49 to R63: the word of every instruction within the limits of subcode 0 decodes to that instruction. -/
def Obligations.DecodeOfEncode : Prop :=
  ∀ i : Instr, i.encodable = true → decode (encode i) = .ok i

/-- R54, R87, R91, R100, R365: words that the spec's worked cases write out decode to the instructions they
stand for. -/
def Obligations.DecodedWords : Prop :=
  decode 0x28003008#32 = .ok (.loopi 3 8) ∧ decode 0x2A608000#32 = .ok (.lidx 6 1) ∧
  decode 0x10630002#32 = .ok (.slli 6 6 2) ∧ decode 0x20641002#32 = .ok (.bne 6 8 2) ∧
  decode 0x2A008001#32 = .ok (.lbrk 1) ∧ decode 0x32000000#32 = .ok .ecall ∧ decode 0x32000001#32 = .ok .eret

/-! ### Steps -/

/-- R15, R86: a turn of a side that can run fetches the word at that side's PC and runs the instruction it
decodes to; a word that decodes to none runs as ILLEGAL_WORD. While a load of the A side has not been performed, or an
A-side vector access is under way, the X side's instruction runs in the same way unless it would trap: then it waits
(R361). It rests on log 1 and 11: the turns, and the order in which a late load and later instructions go on, are the
model's choice. -/
def Obligations.StepRunsTheFetchedWord : Prop :=
  ∀ (s s1 : State) (k : HartKey) (sd : Side) (w : BitVec 32),
    s.dev.off = false → s.turn.act = .run k sd → s.begin.canRun k sd = true →
    (s.begin.takeTurn k sd).fetch = .ok (w, s1) →
    let s2 : State := { s1 with own := { s1.own with ir := w } }
    ∀ i : Instr, (decode w = .ok i ∨ (∃ e, decode w = .error e) ∧ i = .illegalWord w) →
      ((s.hart k).calm sd = true → step s = exec i s2) ∧
      ((s.hart k).calm sd = false → ∀ t, exec i s2 = .next t →
        step s = .next (if (t.hart k).tr = (s.hart k).tr then t else s.begin))

/-- Log 1, R387: a turn that holds an event performs that event, one of the host an access to BAR0, one of a command
processor its act, time having passed, where reading mtime gives the almanac (R396); a turn of a side that cannot run
changes nothing else; without power nothing acts but a cold reset. Time passes as the turn says, while a booked copy that
keeps its due date runs (R274) not to that date, and not beyond the next accrual of wear, which is due at every multiple
of 1 000 000 tk (R380). -/
def Obligations.StepRunsTheEvent : Prop :=
  ∀ s : State,
    (s.dev.off = false →
      (∀ i, s.turn.act = .event i → step s = exec i s.begin) ∧
      (∀ fn off size w, s.turn.act = .bar fn off size w → step s = s.begin.barAccess fn off size w) ∧
      (∀ n op, s.turn.act = .cp n op → step s = s.begin.cpAct n op ∧
        ∀ d : Fin 32, op = .mtime d → d ≠ 0 → (s.cps.get n).irq = none →
          ∃ t, step s = .next t ∧ (t.cps.get n).x.get d = word s.begin.now ∧ t.mem = s.mem) ∧
      (∀ k sd, s.turn.act = .run k sd → (s.hart k).mem.pendLoad = none → s.begin.canRun k sd = false → step s = .next s.begin)) ∧
    (s.dev.off = true →
      (s.turn.act = .event (.coldReset () ()) → step s = exec (.coldReset () ()) s.begin) ∧
      (s.turn.act ≠ .event (.coldReset () ()) → step s = .fault .poweredOff)) ∧
    s.now ≤ s.begin.now ∧ s.begin.now ≤ s.now + s.turn.elapsed ∧
    ((∀ i ∈ s.allCmds, s.promise i = none) → s.now + s.turn.elapsed ≤ s.dev.accrued + 1000000 →
      s.begin.now = s.now + s.turn.elapsed) ∧
    (s.now ≤ s.dev.accrued + 1000000 → s.begin.now ≤ s.dev.accrued + 1000000) ∧
    (s.dev.warm = none → ∀ i ∈ s.allCmds, ∀ d, s.promise i = some d → s.now < d → s.begin.now < d) ∧
    s.begin.mem = s.mem ∧ s.begin.harts = s.harts

/-! ### Integer results -/

/-- R81, R82: the two-operand integer instructions, division with its two special cases, and the counts of bits and
the reversal, each told by the bits of its result. -/
def Obligations.IntegerResults : Prop :=
  ∀ (s : State) (d a b : Reg),
    let fs : List Fld := [.s a, .s b]
    let x := s.fld fs 0
    let y := s.fld fs 1
    let n := (y &&& 63).toNat
    let z := s.fld [.s a] 0
    (∀ p ∈ ([(.add d a b, x + y), (.sub d a b, x - y), (.and d a b, x &&& y), (.or d a b, x ||| y),
        (.xor d a b, x ^^^ y), (.sll d a b, x <<< n), (.srl d a b, x >>> n), (.sra d a b, x.sshiftRight n),
        (.slt d a b, if x.toInt < y.toInt then 1 else 0), (.sltn d a b, if x.toNat < y.toNat then 1 else 0),
        (.min d a b, if x.toInt ≤ y.toInt then x else y), (.max d a b, if x.toInt ≤ y.toInt then y else x),
        (.minn d a b, if x.toNat ≤ y.toNat then x else y), (.maxn d a b, if x.toNat ≤ y.toNat then y else x),
        (.mul d a b, x * y), (.mulh d a b, (x.signExtend 128 * y.signExtend 128).extractLsb' 64 64),
        (.mulhn d a b, (x.zeroExtend 128 * y.zeroExtend 128).extractLsb' 64 64),
        (.div d a b, if y = 0 then -1 else BitVec.ofInt 64 (x.toInt.tdiv y.toInt)),
        (.divn d a b, if y = 0 then -1 else x / y),
        (.rem d a b, if y = 0 then x else BitVec.ofInt 64 (x.toInt - y.toInt * x.toInt.tdiv y.toInt)),
        (.remn d a b, if y = 0 then x else x % y)] : List (Instr × Word)),
      s.ready p.1 fs (some d) none → exec p.1 s = s.wrote fs d p.2) ∧
    (s.ready (.clz d a) [.s a] (some d) none → ∀ n ≤ 64,
      (∀ j < n, z.getMsbD j = false) → (n < 64 → z.getMsbD n = true) →
      exec (.clz d a) s = s.wrote [.s a] d (word n)) ∧
    (s.ready (.ctz d a) [.s a] (some d) none → ∀ n ≤ 64,
      (∀ j < n, z.getLsbD j = false) → (n < 64 → z.getLsbD n = true) →
      exec (.ctz d a) s = s.wrote [.s a] d (word n)) ∧
    (s.ready (.popc d a) [.s a] (some d) none →
      exec (.popc d a) s = s.wrote [.s a] d (word (((List.range 64).filter (fun i => z.getLsbD i)).length))) ∧
    (s.ready (.brev d a) [.s a] (some d) none → ∀ v : Word,
      (∀ i < 64, v.getLsbD i = z.getLsbD (63 - i)) → exec (.brev d a) s = s.wrote [.s a] d v)

/-- R83: the immediate instructions, and LIH as R56 states. -/
def Obligations.ImmediateResults : Prop :=
  ∀ (s : State) (d a : Reg) (imm : BitVec 15) (sh : BitVec 6) (u : BitVec 20),
    let x := s.fld [.s a] 0
    let k : Word := imm.signExtend 64
    (∀ p ∈ ([(.addi d a imm, x + k), (.andi d a imm, x &&& k), (.ori d a imm, x ||| k), (.xori d a imm, x ^^^ k),
        (.slti d a imm, if x.toInt < k.toInt then 1 else 0), (.slli d a sh, x <<< sh), (.srli d a sh, x >>> sh),
        (.srai d a sh, x.sshiftRight' sh)] : List (Instr × Word)),
      s.ready p.1 [.s a] (some d) none → exec p.1 s = s.wrote [.s a] d p.2) ∧
    (s.ready (.lih d u) [] (some d) none →
      exec (.lih d u) s = s.wrote [] d (BitVec.ofInt 64 (u.toInt * 2 ^ 15)))

/-- R39 to R42, R103: a0 and s0 read zero and discard writes; a queue head of the X side reads the head of its scalar
queue, takes it, and is written by a push at the tail; other registers hold what was written. Each CSR instruction reads
its CSR, writes what its row names, and puts the value read into d; a CSRS or CSRC whose A field is 0 performs no write.
R7, R98, R99, R105 to R109: outside S mode a side reaches its own copy of a per-side CSR; a write leaves in each
field what its access allows: FFLAGS five bits, FRM a code of R52, QWAIT 32 bits, VT 12 bits, an address of an
instruction with zero low bits, STICKY the bits not written as one; a read-only CSR keeps its value. The limit of QWAIT is
at least 1, and CARV holds the size, the index and the tag. -/
def Obligations.RegistersAndCsrs : Prop :=
  (∀ (s : State) (r q : Reg) (v : Word),
    s.h.readA 0 = 0 ∧ s.h.readX 0 0 = 0 ∧ s.h.writeA 0 v = s.h ∧ s.h.writeX 0 v = s.h ∧
    (r ≠ 0 → (s.h.writeA r v).readA r = v) ∧ (q ≠ r → (s.h.writeA r v).readA q = s.h.readA q) ∧
    (r ≠ 0 → isQ r = false → (s.h.writeX r v).readX r 0 = v) ∧
    (isQ r = true → (s.h.writeX r v).q.toA[qNo r].items = s.h.q.toA[qNo r].items ++ [v]) ∧
    (∀ x t, isQ r = true → s.h.q.toX[qNo r].items = x :: t →
      s.h.readX r 0 = x ∧ (s.h.popFlds [.s r]).q.toX[qNo r].items = t)) ∧
  (∀ (s : State) (d a : Reg) (c : Csr),
    let old := s.csrRead s.own.cur s.csrSide c
    let put := fun (v : Word) =>
      Host.Outcome.next (((s.popAll [.s a]).csrWrite s.own.cur s.csrSide c v).writeR d old).advance
    let x := s.fld [.s a] 0
    (s.own.side = .X ∨ s.h.tr.smode = false → s.csrSide = s.own.side) ∧
    (s.ready (.csrr d c) [] (some d) none → exec (.csrr d c) s = s.wrote [] d old) ∧
    (s.ready (.csrw d a c) [.s a] (some d) none → exec (.csrw d a c) s = put x) ∧
    (s.ready (.csrs d a c) [.s a] (some d) none → a ≠ 0 → exec (.csrs d a c) s = put (old ||| x)) ∧
    (s.ready (.csrc d a c) [.s a] (some d) none → a ≠ 0 → exec (.csrc d a c) s = put (old &&& ~~~x)) ∧
    (s.ready (.csrs d 0 c) [] (some d) none → exec (.csrs d 0 c) s = s.wrote [] d old) ∧
    (s.ready (.csrc d 0 c) [] (some d) none → exec (.csrc d 0 c) s = s.wrote [] d old)) ∧
  (∀ (s : State) (k : HartKey) (sd : Side) (v : Word),
    let reads := fun (c : Csr) => s.csrRead k sd c
    let after := fun (c : Csr) => (s.csrWrite k sd c v).csrRead k sd c
    after .fflags = v &&& 0x1F ∧ after .frm = (if (v.extractLsb' 0 3).toNat ≥ 6 then reads .frm else v &&& 7) ∧
    after .vstart = v &&& 0x7FF ∧ after .vt = v &&& 0xFFF ∧ after .qwait = v &&& 0xFFFFFFFF ∧
    after .sticky = reads .sticky &&& ~~~v ∧ (reads .sticky).toNat < 16 ∧
    (∀ c ∈ ([.stripsz, .xlink, .optlr, .optb1, .optb2, .opteps, .optwd, .optbc, .tval, .scratch, .tval2] : List Csr), after c = v) ∧
    (∀ c ∈ ([.epc, .tvec, .xepc] : List Csr), after c = v &&& ~~~3#64) ∧
    after .cause = v &&& 0x800000FF ∧ after .pregrace = v &&& 0xFFFFFFFF ∧ after .shctl = v &&& 3 ∧
    (∀ c ∈ ([.vl, .vlmax, .lanes, .psnstat, .atomsz, .almt, .budget, .preq, .carv, .wuchg, .feat, .status, .lanemap, .wearst,
        .wurec] : List Csr), ∀ c' sd', (s.csrWrite k sd c v).csrRead k sd' c' = s.csrRead k sd' c') ∧
    (s.hart k).qwaitOf = max 1 (reads .qwait).toNat ∧
    reads .carv = word ((s.caravan k).size + 16 * k.idx + 256 * k.slot) ∧
    reads .almt = word s.now ∧ reads .preq = (if (s.hart k).csr.preq then 1 else 0))

/-! ### Control -/

/-- R84: a branch whose condition holds continues at its address plus 4 × sext(OFF12), else at the next word; a
taken branch to address 0 ends the sequencer (R322), as JumpResults tells. -/
def Obligations.BranchResults : Prop :=
  ∀ (s : State) (a b : Reg) (off : BitVec 12),
    let fs : List Fld := [.s a, .s b]
    let x := s.fld fs 0
    let y := s.fld fs 1
    let target := s.seq.pc + 4 * off.signExtend 64
    ∀ p ∈ ([(.beq a b off, decide (x = y)), (.bne a b off, decide (x ≠ y)), (.blt a b off, decide (x.toInt < y.toInt)),
        (.bge a b off, decide (x.toInt ≥ y.toInt)), (.bltn a b off, decide (x.toNat < y.toNat)),
        (.bgen a b off, decide (x.toNat ≥ y.toNat))] : List (Instr × Bool)),
      s.ready p.1 fs none none →
      (p.2 = true → target ≠ 0 →
        exec p.1 s = .next ((s.popAll fs).setSeq { (s.popAll fs).seq with pc := target, wait := none })) ∧
      (p.2 = true → target = 0 → exec p.1 s = .next (s.popAll fs).endSeq) ∧
      (p.2 = false → exec p.1 s = .next (s.popAll fs).advance)

/-- R43, R85, R322, R326: JAL and JALR write the address of the next word and continue at their target; the read of a
comes before the write of d, and on the X side the fields of R43 name XLINK. A jump to address 0 ends the running
sequencer; while the other sequencer runs nothing else changes. Once both have ended the hart ends: its queues are
discarded and its ENDED and ARRIVED bits set, and where it is the last to arrive PHASE flips, ARRIVED is that of the ended
harts, and every event bit is set. -/
def Obligations.JumpResults : Prop :=
  (∀ (s : State) (d a : Reg) (off : BitVec 20) (imm : BitVec 15),
    let link := s.seq.pc + 4
    let t := s.seq.pc + 4 * off.signExtend 64
    let goTo := fun (r : State) (pc : Word) =>
      Host.Outcome.next (if pc = 0 then r.endSeq else r.setSeq { r.seq with pc := pc, wait := none })
    (s.ready (.jal d off) [] (some d) none → ¬(s.own.side = .X ∧ d = 29) → exec (.jal d off) s = goTo (s.writeR d link) t) ∧
    (s.illegalSub (.jal 29 off) = none → s.unstepped = true → s.own.side = .X →
      exec (.jal 29 off) s = goTo (s.modH (fun h => { h with csr := { h.csr with xlink := link } })) t) ∧
    (let fs : List Fld := if s.own.side = .X ∧ a = 29 then [] else [.s a]
     let base := if s.own.side = .X ∧ a = 29 then s.h.csr.xlink else s.fld fs 0
     let u := (base + imm.signExtend 64) &&& ~~~3
     s.ready (.jalr d a imm) fs (some d) none →
      exec (.jalr d a imm) s = goTo ((s.popAll fs).writeR d link) u)) ∧
  (∀ s : State,
    let k := s.own.cur
    let c := s.caravan k
    let bit := BitVec.ofNat 4 (2 ^ k.idx)
    let mask := BitVec.ofNat 4 (2 ^ c.size - 1)
    let arr := c.arrived ||| bit
    let t := s.endSeq
    ((s.h.seq (otherSide s.own.side)).ended = false →
      t = s.setSeq { s.seq with ended := true, pc := 0, wait := none, stop := if s.h.tr.smode then some .ended else s.seq.stop }) ∧
    ((s.h.seq (otherSide s.own.side)).ended = true →
      t.h.a.ended = true ∧ t.h.x.ended = true ∧ t.h.q.len.items = [] ∧
      (∀ q : Fin 4, t.h.q.vload[q].items = [] ∧ t.h.q.vload[q].resv = none ∧ t.h.q.vstore[q].items = [] ∧
        t.h.q.toX[q].items = [] ∧ t.h.q.toA[q].items = []) ∧
      t.caravan k = (if arr &&& mask = mask
        then { c with ended := c.ended ||| bit, phase := !c.phase, arrived := c.ended ||| bit }
        else { c with ended := c.ended ||| bit, arrived := arr }) ∧
      (arr &&& mask = mask → ∀ j < c.size, (t.hart ⟨k.die, k.slot, j⟩).event = true) ∧
      t.h.regs = s.h.regs ∧ t.h.csr = s.h.csr ∧ t.h.mem = s.h.mem ∧ t.mem = s.mem))

/-- R87 to R91: the loop instructions; a loop at the end address of the top entry is ILLEGAL. An instruction that completes at the end address of the top loop entry evaluates
the back-edge and is a yield point; elsewhere it goes on at the next word. -/
def Obligations.LoopResults : Prop :=
  (∀ (s : State) (a d : Reg) (e : BitVec 12) (c : BitVec 13) (l : BitVec 5),
    let stop := s.seq.pc + 4 * e.zeroExtend 64
    let push := fun (r : State) (n : Word) =>
      Host.Outcome.next (r.setSeq { r.seq with loops := ⟨s.seq.pc + 4, stop, n, 0⟩ :: r.seq.loops }).advance
    let skip := fun (r : State) => Host.Outcome.next (r.setSeq { r.seq with pc := stop + 4, wait := none })
    let free := ∀ t ∈ s.seq.loops.head?, t.stop ≠ s.seq.pc
    (s.ready (.loop a e) [.s a] none none → free →
      (s.fld [.s a] 0 = 0 → exec (.loop a e) s = skip (s.popAll [.s a])) ∧
      (s.fld [.s a] 0 ≠ 0 → s.seq.loops.length < 6 → exec (.loop a e) s = push (s.popAll [.s a]) (s.fld [.s a] 0)) ∧
      (s.fld [.s a] 0 ≠ 0 → s.seq.loops.length ≥ 6 → exec (.loop a e) s = s.illegal 0)) ∧
    (s.ready (.loopi c e) [] none none → free →
      (c = 0 → exec (.loopi c e) s = skip s) ∧
      (c ≠ 0 → s.seq.loops.length < 6 → exec (.loopi c e) s = push s (c.zeroExtend 64)) ∧
      (c ≠ 0 → s.seq.loops.length ≥ 6 → exec (.loopi c e) s = s.illegal 0)) ∧
    (∀ t ∈ s.seq.loops.head?, t.stop = s.seq.pc → ∀ i ∈ ([.loop a e, .loopi c e] : List Instr), s.illegalSub i = none →
      exec i s = s.illegal 0) ∧
    (s.ready (.lidx d l) [] (some d) none →
      exec (.lidx d l) s = s.wrote [] d (((s.seq.loops.drop l.toNat).head?.map LoopEntry.index).getD 0)) ∧
    (s.ready (.lbrk l) [] none none →
      (∀ t rest, s.seq.loops.drop l.toNat = t :: rest →
        exec (.lbrk l) s = .next (s.setSeq { s.seq with loops := rest, pc := t.stop + 4, wait := none })) ∧
      (s.seq.loops.length ≤ l.toNat → exec (.lbrk l) s = s.illegal 0))) ∧
  (∀ s : State,
    ((∀ e ∈ s.seq.loops.head?, e.stop ≠ s.seq.pc) →
      s.advance = s.setSeq { s.seq with pc := s.seq.pc + 4, wait := none }) ∧
    (∀ top rest, s.seq.loops = top :: rest → top.stop = s.seq.pc →
      s.advance.seq.stop = (if s.h.csr.preq = true ∧ s.h.tr.smode = false then some .yield else s.seq.stop) ∧
      (top.remaining - 1 ≠ 0 →
        s.advance.seq.loops = { top with remaining := top.remaining - 1, index := top.index + 1 } :: rest ∧
        s.advance.seq.pc = top.start) ∧
      (top.remaining - 1 = 0 → (∀ e ∈ rest.head?, e.stop ≠ s.seq.pc) →
        s.advance.seq.loops = rest ∧ s.advance.seq.pc = s.seq.pc + 4) ∧
      (∀ nxt more, top.remaining - 1 = 0 → rest = nxt :: more → nxt.stop = s.seq.pc → nxt.remaining - 1 ≠ 0 →
        s.advance.seq.loops = { nxt with remaining := nxt.remaining - 1, index := nxt.index + 1 } :: more ∧
        s.advance.seq.pc = nxt.start)))


/-! ### Scalar floating point -/

/-- R93, R94, R97: a scalar FP instruction reads the low bits of its operands, computes one operation of its
type, rounds once in the mode of its field or of FRM, zeroes the bits above, and ORs its flags into FFLAGS.
R181: a value rounds to the neighbour that its mode names, a tie as RNE or RNA says, NX where it is not exact; beyond the
largest finite value the result is that of the table, with OF and NX. A sum, a product and a fused sum of finite numbers
round the exact one once; an exact zero sum of numbers of opposite sign is +0, under RDN −0. -/
def Obligations.FloatResults : Prop :=
  (∀ f ∈ [fmt64, fmt32, fmt16, fmtBf], ∀ (rm : RM) (s : Bool) (m : Nat) (e : Int), m ≠ 0 →
    let down := rm = .rtz ∨ (rm = .rup ∧ s = true) ∨ (rm = .rdn ∧ s = false)
    f.rounds f.bias (if down then f.infCode - 1 else f.infCode) rm s m e (f.round rm s m e)) ∧
  (∀ f ∈ [fmt64, fmt32, fmt16, fmtBf], ∀ (rm : RM) (x y c : Nat) (s t u : Bool) (m n k : Nat) (e g h : Int),
    f.dec x = .fin s m e → f.dec y = .fin t n g → f.dec c = .fin u k h →
    let at_ := fun (lo : Int) (s : Bool) (m : Nat) (e : Int) => (if s then -1 else 1) * ((m * 2 ^ (e - lo).toNat : Nat) : Int)
    let gives := fun (z : Int) (lo : Int) (s t : Bool) =>
      if z = 0 then (f.sgn (if s = t then s else rm = .rdn), 0) else f.round rm (decide (z < 0)) z.natAbs lo
    f.add rm x y = gives (at_ (min e g) s m e + at_ (min e g) t n g) (min e g) s t ∧
    f.mul rm x y = f.round rm (s != t) (m * n) (e + g) ∧
    f.fmaV rm false (f.dec x) (f.dec y) (f.dec c) =
      gives (at_ (min (e + g) h) (s != t) (m * n) (e + g) + at_ (min (e + g) h) u k h) (min (e + g) h) (s != t) u) ∧
  ∀ (s : State) (t : FTy) (m : RM) (c : FCond) (k : FCvt) (d a b : Reg),
    let f := ftyFmt t
    let rm := s.scalarRm m
    let fs : List Fld := [.s a, .s b]
    let x := fpLow t (s.fld fs 0)
    let y := fpLow t (s.fld fs 1)
    let gives := fun (fs : List Fld) (r : FRes) =>
      Host.Outcome.next ((((s.popAll fs).writeR d (word r.1)).orFlags r.2).advance)
    (∀ p ∈ ([(.fadd t m d a b, f.add rm x y), (.fsub t m d a b, f.sub rm x y), (.fmul t m d a b, f.mul rm x y),
        (.fdiv t m d a b, f.div rm x y), (.fmin t d a b, f.minmax false x y), (.fmax t d a b, f.minmax true x y),
        (.fcmp t c d a b, ((if (f.cmp (fcondOf c) x y).1 then 1 else 0), (f.cmp (fcondOf c) x y).2))] :
        List (Instr × FRes)),
      s.ready p.1 fs (some d) none → exec p.1 s = gives fs p.2) ∧
    (s.ready (.fsqrt t m d a) [.s a] (some d) none →
      exec (.fsqrt t m d a) s = gives [.s a] (f.sqrt rm (fpLow t (s.fld [.s a] 0)))) ∧
    (s.ready (.fcvt t k m d a) [.s a] (some d) none →
      exec (.fcvt t k m d a) s = gives [.s a] (fcvtOp t k rm (s.fld [.s a] 0))) ∧
    (let three : List Fld := [.s a, .s b, .s d]
     s.ready (.ffma t m d a b) three (some d) none →
      exec (.ffma t m d a b) s = gives three (f.fmaV rm false (f.dec (fpLow t (s.fld three 0)))
        (f.dec (fpLow t (s.fld three 1))) (f.dec (fpLow t (s.fld three 2)))))

/-- R95, R96, R180: the quiet NaN and the poison NaN of each IEEE format; a NaN operand makes an arithmetic result the
canonical quiet NaN, or the poison NaN when some operand is the poison NaN; a signalling NaN sets NV (16); FMIN and FMAX
drop one NaN that is not poison; the comparisons with a NaN operand are false, unordered or unequal. -/
def Obligations.NotANumberResults : Prop :=
  (fmt64.nan = 0x7FF8000000000000 ∧ fmt32.nan = 0x7FC00000 ∧ fmt16.nan = 0x7E00 ∧
  fmt64.poison = 0x7FFC000000000000 ∧ fmt32.poison = 0x7FE00000 ∧ fmt16.poison = 0x7F00 ∧ fmtBf.poison = 0x7FE0) ∧
  (∀ f ∈ [fmt64, fmt32, fmt16, fmtBf], ∀ (rm : RM) (x y : Nat),
    let nan := fun v => (f.dec v).isNan
    let psn := fun v => (f.dec v).isPsn
    let snan := fun v => (f.dec v).isSnan
    (nan x = true ∨ nan y = true →
      (∀ r ∈ [f.add rm x y, f.sub rm x y, f.mul rm x y, f.div rm x y],
        r = (if psn x ∨ psn y then f.poison else f.nan, if snan x ∨ snan y then 16 else 0)) ∧
      f.cmp .eq x y = (false, if snan x ∨ snan y then 16 else 0) ∧
      f.cmp .ne x y = (true, if snan x ∨ snan y then 16 else 0) ∧
      f.cmp .un x y = (true, if snan x ∨ snan y then 16 else 0) ∧
      f.cmp .lt x y = (false, 16) ∧ f.cmp .le x y = (false, 16)) ∧
    (∀ mx, (psn x = true ∨ psn y = true → (f.minmax mx x y).1 = f.poison) ∧
      (nan x = true → psn x = false → nan y = false → (f.minmax mx x y).1 = y) ∧
      (nan y = true → psn y = false → nan x = false → (f.minmax mx x y).1 = x) ∧
      (nan x = true → nan y = true → psn x = false → psn y = false → (f.minmax mx x y).1 = f.nan)) ∧
    (nan x = true → f.sqrt rm x = (if psn x then f.poison else f.nan, if snan x then 16 else 0)) ∧
    (∀ m e, m ≠ 0 → f.dec x = .fin true m e → f.sqrt rm x = (f.nan, 16)))

/-! ### System words and traps -/

/-- R61 to R63: a word that is illegal where it executes raises ILLEGAL with the word and the subcode, whatever the
word, and does nothing else; a word that the tables do not hold raises it with subcode 0. A word of the other side is subcode 1, in either direction and for
every word that one side alone executes; in U mode an access of any CSR instruction to a CSR that R106 gives no access, and
ERET, are subcode 2. -/
def Obligations.IllegalWords : Prop :=
  ∀ s : State,
    (∀ (i : Instr) (n : Nat), i.encodable = true → s.illegalSub i = some n →
      exec i s = .next (s.takeTrap ⟨0x01, s.own.ir.zeroExtend 64, word n⟩ s.seq.pc)) ∧
    (∀ (w : BitVec 32) (e : DecodeError), decode w = .error e → s.own.ir = w → s.canRun s.own.cur s.own.side = true →
      s.h.calm s.own.side = true → exec (.illegalWord w) s = .next (s.takeTrap ⟨0x01, w.zeroExtend 64, 0⟩ s.seq.pc)) ∧
    (∀ (i : Instr) (sd : Side), i.encodable = true → i.onSide = some sd → s.own.side ≠ sd → s.illegalSub i = some 1) ∧
    (s.h.tr.smode = false → ∀ (d a : Reg), ∀ c ∈ ([.status, .cause, .epc, .tval, .tvec, .scratch, .tval2, .xepc, .pregrace,
        .shctl, .lanemap, .wearst, .wurec, .dbgctl] : List Csr),
      exec (.csrr d c) s = s.illegal 2 ∧ exec (.csrw d a c) s = s.illegal 2 ∧ exec (.csrs d a c) s = s.illegal 2 ∧
        exec (.csrc d a c) s = s.illegal 2) ∧
    (s.h.tr.smode = false → s.own.side = .A → exec .eret s = s.illegal 2) ∧
    (s.own.side = .A → exec .psnclr s = s.illegal 1) ∧ (s.own.side = .X → exec .fencei s = s.illegal 1)

/-- R15, R42, R118, R135: ADD on the X side, where it must wait for a queue, stalls, with the start and the limit of the
stall recorded and nothing popped or pushed, and once the stall has lasted longer than QWAIT raises QSTALL. PUSHS puts a
value at the tail of an A-to-X queue and POPS takes the head of an X-to-A queue; a full or empty queue stalls.
It rests on log 8: the record of a stall is the model's. -/
def Obligations.QueueStalls : Prop :=
  (∀ (s : State) (d a b : Reg) (code : Nat) (push : Bool),
    let i := Instr.add d a b
    s.illegalSub i = none → s.own.side = .X → s.h.blocked [.s a, .s b] (some d) none = some (code, push) →
    (s.seq.wait = none →
      exec i s = .next (s.setSeq { s.seq with wait := some { instr := i, queue := some (code, push), since := s.now, limit := some s.h.qwaitOf, line := none } })) ∧
    (∀ w, s.seq.wait = some w → w.instr = i → w.queue = some (code, push) → w.limit ≠ none → w.line = none →
      s.h.a.wait = none → s.h.a.stop = none →
      (s.now ≤ w.since + w.limit.getD 0 → exec i s = .next s) ∧
      (s.now > w.since + w.limit.getD 0 →
        exec i s = .next (s.takeTrap ⟨0x09, word ((if push then 2 ^ 33 else 0) +
          (s.h.headIdx code + BitVec.ofNat 8 (s.h.occ code)).toNat * 2 ^ 16 + (s.h.headIdx code).toNat * 2 ^ 8 + code),
          0xFF⟩ s.seq.pc)))) ∧
  (∀ (s : State) (q d a : Reg), s.own.side = .A → s.unstepped = true → isQ q = true →
    (∀ n, s.h.q.toX[qNo q].items.length = n →
      (n < 16 → ∃ t, exec (.pushs q a) s = .next t ∧ t.h.q.toX[qNo q].items = s.h.q.toX[qNo q].items ++ [s.h.readA a] ∧
        t.h.regs = s.h.regs ∧ t.mem = s.mem ∧ t.seq.pc = s.advance.seq.pc) ∧
      (n ≥ 16 → exec (.pushs q a) s = s.stall (.pushs q a) (0x20 + q.toNat - 28, true))) ∧
    (∀ v rest, s.h.q.toA[qNo q].items = v :: rest →
      ∃ t, exec (.pops d q) s = .next t ∧ t.h.q.toA[qNo q].items = rest ∧ (d ≠ 0 → t.h.readA d = v) ∧
        (∀ r, r ≠ d → t.h.readA r = s.h.readA r) ∧ t.mem = s.mem ∧ t.seq.pc = s.advance.seq.pc) ∧
    (s.h.q.toA[qNo q].items = [] → exec (.pops d q) s = s.stall (.pops d q) (0x30 + q.toNat - 28, false)))

/-- R360, R361, R363: a trap whose cause R363 gives to the core handler (every cause but LEASE, BUDGET, PREEMPT and a
fatal SHADOW), and that is not a halt, saves both sides' addresses, the cause and its details, sets
S mode, pauses the X side, sets the A-side loop stack aside and continues the A side at TVEC; memory and every other
hart are left alone. -/
def Obligations.TrapEntry : Prop :=
  ∀ (s : State) (t : Trap) (resume : Word),
    s.h.tr.smode = false → t.cause ≠ 0x04 → t.cause ≠ 0x0A → t.cause ≠ 0x10 → ¬(t.cause = 0x06 ∧ t.tval.getLsbD 25 = true) →
    ¬(t.cause = 0x0E ∧ s.h.tr.brkdbg = true) → ¬(t.cause = 0x0F ∧ s.h.tr.stepdbg = true) →
    let r := s.takeTrap t resume
    let next := fun (q : Seq) => if q.ended then 0 else q.pc
    r.h.tr.smode = true ∧ r.h.tr.xpause = true ∧ r.h.tr.nest = false ∧
    r.h.tr.causeX = (s.own.side == .X) ∧ r.h.tr.code = BitVec.ofNat 8 t.cause ∧
    r.h.tr.epc = (if s.own.side = .A then resume else next s.h.a) ∧
    r.h.tr.xepc = (if s.own.side = .X then resume else next s.h.x) ∧
    r.h.tr.tval = t.tval ∧ r.h.tr.tval2 = t.tval2 ∧
    r.h.a.pc = s.h.tr.tvec ∧ r.h.a.loops = [] ∧ r.h.aside = some s.h.a.loops ∧
    r.h.a.wait = none ∧ r.h.x.wait = none ∧
    r.h.regs = s.h.regs ∧ r.h.csr = s.h.csr ∧ r.h.q = s.h.q ∧ r.mem = s.mem ∧ r.poison = s.poison ∧
    (∀ k, k ≠ s.own.cur → r.hart k = s.hart k)

/-- R31, R86, R362, R363, R398: a trap in S mode that is no BUDGET and no PREEMPT (R364) is not taken on the hart: its
registers are written, NEST is set and the slice ends; LEASE ends the slice without entering the handler, or while
Slorraroth is replaced, in either mode, stops the hart until the new image ends it. A READY slice that ends moves to ENDING.
Outside an S-mode handler, a fetch beyond the code range of the slice raises LEASE with TVAL the address and TVAL2 3. The
core handler ends the slice for ILLEGAL, WINDOW, POISON, WAITTIME, QSTALL, ORPHAN, INTEGRITY, BREAK, STEP and ENGINE where no
registration reflects the trap (R363, R368).
It rests on logs 7 and 27: that the hart stays stopped while a LEASE waits for the new image is the model's choice. -/
def Obligations.TrapsThatEndTheSlice : Prop :=
  (∀ (s : State) (t : Trap) (resume : Word),
    let n := (s.caravan s.own.cur).slice
    let h := s.h.abandon.record s.own.side t resume
    let ended := (s.setH h).endSlice n
    (s.h.tr.smode = true → t.cause ≠ 0x0A → t.cause ≠ 0x10 → ¬(t.cause = 0x04 ∧ s.dev.repl ≠ none) →
      ¬(t.cause = 0x0E ∧ s.h.tr.brkdbg = true) → s.takeTrap t resume = ended ∧ h.tr.nest = true) ∧
    (t.cause = 0x04 →
      (s.dev.repl = none → s.takeTrap t resume = ended) ∧
      (s.dev.repl ≠ none → (s.takeTrap t resume).sliceNo n = { s.sliceNo n with owed := true } ∧
        (s.takeTrap t resume).h.a.stop.isSome = true ∧ (s.takeTrap t resume).h.x.stop.isSome = true ∧
        (s.takeTrap t resume).h.tr = h.tr ∧ (s.takeTrap t resume).mem = s.mem)) ∧
    (∀ r : State, (r.sliceNo n).st = .ready → ((r.endSlice n).sliceNo n).st = .ending)) ∧
  (∀ (s : State) (k : HartKey) (sd : Side),
    s.dev.off = false → s.turn.act = .run k sd → s.begin.canRun k sd = true → (s.hart k).calm sd = true →
    ¬((s.hart k).tr.smode = true ∧ sd = .A) →
    (let pc := ((s.hart k).seq sd).pc
     let d := (s.begin.sliceOf k).desc
     (pc.toNat < d.codebase ∨ d.codebase + d.codelen ≤ pc.toNat) →
     step s = .next ((s.begin.takeTurn k sd).takeTrap ⟨0x04, pc, 3⟩ pc))) ∧
  (∀ (s : State) (k : HartKey), s.handles k →
    let s1 := s.actAs k .A
    s1.h.tr.code ∈ ([0x01, 0x03, 0x05, 0x08, 0x09, 0x0B, 0x0C, 0x0E, 0x0F, 0x12] : List (BitVec 8)) → s1.unreflected →
    s.handlerAct k = .next (s1.endSlice (s.caravan k).slice))

/-- R100, R101, R365, R61: ECALL and BRK complete, a back-edge at their address included, and then raise their cause
with both details 0. ERET on the A side in S mode clears MODE and XPAUSE, brings the set-aside loop stack back and
continues both sides at EPC and XEPC; in U mode it is ILLEGAL with subcode 2, on the X side with subcode 1.
A stepped side in U mode whose instruction completes at the next word raises STEP with TVAL its address and resumes after it (R374): shown of
the shared completion, and of ADDI on each side. The core handler serves the ECALL of the A side (R367): SETHND, numbered 1
in a8, registers a handler, or removes it, or says in a1 which argument is wrong, and every other number gives all ones;
an X-side ECALL changes no register; SHADOW and ECALL return (R363). A trap that the registration selects is reflected (R368):
its record is written, the registration removed, and the hart goes on at the handler in U mode.
It rests on log 76: that an ECALL or BRK at a back-edge with PREQ pending goes on to its trap, and does not stop at that
yield point first (R90), is the model's choice. -/
def Obligations.SystemCallsAndReturns : Prop :=
  (∀ s : State, s.seq.ended = false →
    let r := s.setSeq s.seq.advance
    (exec .ecall s = .next (r.takeTrap ⟨0x0D, 0, 0⟩ s.advance.seq.pc)) ∧
    (exec .brk s = .next (r.takeTrap ⟨0x0E, 0, 0⟩ s.advance.seq.pc))) ∧
  (∀ s : State,
    (s.own.side = .A → s.h.tr.smode = true →
      ∃ t, exec .eret s = .next t ∧ t.h.tr.smode = false ∧ t.h.tr.xpause = false ∧
        t.h.a.pc = s.h.tr.epc ∧ t.h.x.pc = s.h.tr.xepc ∧ t.h.a.loops = s.h.aside.getD [] ∧
        t.h.a.ended = s.h.a.ended ∧ t.h.x.ended = s.h.x.ended ∧ t.h.regs = s.h.regs ∧ t.h.csr = s.h.csr ∧
        t.h.q = s.h.q ∧ t.mem = s.mem ∧ t.poison = s.poison) ∧
    (s.own.side = .A → s.h.tr.smode = false → exec .eret s = s.illegal 2) ∧
    (s.own.side = .X → exec .eret s = s.illegal 1)) ∧
  (∀ s : State, s.h.tr.smode = false → (match s.own.side with | .A => s.h.tr.stepa | .X => s.h.tr.stepx) = true →
    s.seq.ended = false →
    s.complete = .next (s.advance.takeTrap ⟨0x0F, s.seq.pc, 0⟩ s.advance.seq.pc) ∧
    ∀ (d a : Reg) (imm : BitVec 15), s.illegalSub (.addi d a imm) = none →
      (s.own.side = .X → s.h.blocked [.s a] (some d) none = none) → exec (.addi d a imm) s = .next (((s.popAll [.s a]).writeR d (s.fld [.s a] 0 + imm.signExtend 64)).advance.takeTrap
        ⟨0x0F, s.seq.pc, 0⟩ s.advance.seq.pc)) ∧
  (∀ (s : State) (k : HartKey), s.handles k →
    let s1 := s.actAs k .A
    let h := s1.h
    let a8 := h.readA 8
    let hd := h.readA 1
    let mask := h.readA 2
    let rec_ := h.readA 3
    let badHd := hd.toNat % 4 ≠ 0 ∨ s1.inCode k hd = false
    let badRec := winClass s1 k rec_ ≠ 1 ∨ rec_.toNat % 64 ≠ 0
    let badMask := ∃ c < 64, mask.getLsbD c = true ∧ c ∉ [3, 5, 7, 8, 9, 11, 12, 14, 18]
    (s1.unreflected → h.tr.code = 0x0D ∨ (h.tr.code = 0x06) →
      ∃ t, s.handlerAct k = .next t ∧ s1.returned t h.tr.epc ∧ t.h.q = h.q ∧ t.mem = s.mem ∧ t.poison = s.poison ∧
        (h.tr.code = 0x06 ∨ h.tr.causeX = true → t.h.regs = h.regs ∧ t.h.eng = h.eng) ∧
        (h.tr.code = 0x0D → h.tr.causeX = false →
          (∀ r, r ≠ 1 → t.h.readA r = h.readA r) ∧ t.h.eng.recs = h.eng.recs ∧
          (a8 ≠ 1 → t.h.readA 1 = 0xFFFFFFFFFFFFFFFF ∧ t.h.eng.refl = h.eng.refl) ∧
          (a8 = 1 → hd = 0 → t.h.readA 1 = 0 ∧ t.h.eng.refl = none) ∧
          (a8 = 1 → hd ≠ 0 →
            (badHd → t.h.readA 1 = 1 ∧ t.h.eng.refl = h.eng.refl) ∧
            (¬badHd → badRec → t.h.readA 1 = 2 ∧ t.h.eng.refl = h.eng.refl) ∧
            (¬badHd → ¬badRec → badMask → t.h.readA 1 = 3 ∧ t.h.eng.refl = h.eng.refl) ∧
            (¬badHd → ¬badRec → ¬badMask → t.h.readA 1 = 0 ∧ t.h.eng.refl = some (hd, mask, rec_))))) ∧
    (∀ (handler m record : Word) (p : Place), s.Inv →
      h.eng.refl = some (handler, m, record) → m.getLsbD h.tr.code.toNat = true → h.tr.causeX = false →
      s1.reaches record 64 needW p →
      ∃ t, s.handlerAct k = .next t ∧ s1.returned t handler ∧ t.h.q = h.q ∧ t.h.regs = h.regs ∧ t.h.eng.refl = none ∧
        t.h.eng.recs = h.eng.recs ∧
        memBytes t.mem p.key 64 = ([h.tr.code.zeroExtend 64, h.tr.epc, h.tr.xepc, h.tr.tval, h.tr.tval2,
          word (h.aside.getD []).length, 0, 0] : List Word).flatMap (fun v => natBytes v.toNat 8) ∧
        ∀ a, a < p.key ∨ p.key + 64 ≤ a → memGet t.mem a = memGet s.mem a))

/-- R102, R159, R160, R162: WFE clears a set event bit and continues; with the bit clear it waits, and after QWAIT tk
raises WAITTIME with TVAL the value used and TVAL2 0. With every earlier store performed that its PRED names, of a
VSTXADD under R also, and, where PRED holds ENG, every earlier command ended, FENCE only completes; FENCEI also invalidates the instruction caches.
It rests on log 8, 11. -/
def Obligations.WaitForEventAndFences : Prop :=
  (∀ s : State, s.own.side = .A → s.unstepped = true →
    (s.h.event = true → exec .wfe s = .next (s.modH (fun h => { h with event := false })).advance) ∧
    (s.h.event = false → s.seq.wait = none →
      exec .wfe s = .next (s.setSeq { s.seq with wait := some { instr := .wfe, queue := none, since := s.now, limit := some s.h.qwaitOf, line := none } })) ∧
    (∀ w l, s.h.event = false → s.seq.wait = some w → w.instr = .wfe → w.queue = none → w.limit = some l →
      s.now ≥ w.since + l → exec .wfe s = .next (s.takeTrap ⟨0x08, word l, 0⟩ s.seq.pc))) ∧
  (∀ (s : State) (pred succ : BitVec 3) (sc : Scope), s.own.side = .A → s.unstepped = true →
    ((pred.getLsbD 1 = true → s.h.mem.pend = []) →
      (pred.getLsbD 0 = true → ∀ p ∈ s.h.mem.pend, ∀ fp, p.kind ≠ .add fp) → (pred.getLsbD 2 = true → s.h.oldest = none) →
      exec (.fence pred succ sc) s = .next s.advance) ∧
    (s.h.mem.pend = [] → exec .fencei s = .next (s.modH (fun h => { h with icache := [] })).advance) ∧
    (pred.getLsbD 1 = true → s.h.mem.pend ≠ [] →
      ∃ t, exec (.fence pred succ sc) s = .next t ∧ t.seq.pc = s.seq.pc ∧ t.mem = s.mem))


/-! ### Scalar accesses of the A side -/

/-- R110, R26, R136, R138, R141: the checks of an element, in their order: the window rule, the lease and its rights, alignment, and
for a global or a private address its translation; and the place of an element that passes: what the tables map, the
private tables at PBASE and the offset, or the scratchpad that its window names. The window rule judges every byte: below the granted scratchpad bytes and
768 KiB, below the private size, below 2^56; the device window is for S mode, its queue block for aligned words alone.
It rests on log 13: a private page that the private tables do not map is the page that Slorraroth mapped there before. -/
def Obligations.AccessChecks : Prop :=
  ∀ (s : State) (k : HartKey) (g : Word) (n : Nat) (need : Need) (e : Nat),
    let cls := winClass s k g
    let va := gVa g
    let lease := leaseAt (s.hart k).mem.leases va
    let fits := ∃ j l, lease = some (j, l) ∧ va + n ≤ l.base + l.len
    let rights := ∃ j l, lease = some (j, l) ∧ (need.r = true → l.r = true) ∧ (need.w = true → l.w = true)
    (windowOk s k g n = false → checkElem s k g n need e = .error ⟨0x03, g, word cls⟩) ∧
    (windowOk s k g n = true → cls = 0 → ¬fits → checkElem s k g n need e = .error ⟨0x04, g, 0⟩) ∧
    (windowOk s k g n = true → cls = 0 → fits → ¬rights → checkElem s k g n need e = .error ⟨0x04, g, 1⟩) ∧
    (windowOk s k g n = true → (cls = 0 → fits ∧ rights) → n > 1 → g.toNat % n ≠ 0 →
      checkElem s k g n need e = .error ⟨0x02, g, word e⟩) ∧
    (windowOk s k g n = true → (cls = 0 → fits ∧ rights) → (n ≤ 1 ∨ g.toNat % n = 0) → cls ≠ 0 → cls ≠ 1 → cls ≠ 7 →
      ∃ p, checkElem s k g n need e = .ok p ∧ p.cls = cls ∧
        (cls = 2 → p.key = keySpad k (g.extractLsb' 0 20).toNat) ∧
        (cls = 4 → p.key = keySpad { k with idx := (g.extractLsb' 20 2).toNat } (g.extractLsb' 0 20).toNat)) ∧
    (windowOk s k g n = true → cls = 1 → (n ≤ 1 ∨ g.toNat % n = 0) →
      let own := privKey s (s.sliceOf k).ctx ((s.hart k).mem.pbase + (g.extractLsb' 0 40).toNat) need
      (∀ key, own = some key → ∃ p, checkElem s k g n need e = .ok p ∧ p.cls = 1 ∧ p.key = key) ∧
      (own = none → checkElem s k g n need e = .error ⟨0x04, g, 2⟩)) ∧
    (windowOk s k g n = true → cls = 0 → fits → rights → (n ≤ 1 ∨ g.toNat % n = 0) →
      (∀ key, translate s (s.sliceOf k).ctx va need = some key →
        ∃ p, checkElem s k g n need e = .ok p ∧ p.cls = 0 ∧ p.key = key) ∧
      (translate s (s.sliceOf k).ctx va need = none → checkElem s k g n need e = .error ⟨0x04, g, 2⟩)) ∧
    (cls = 3 ∨ cls = 5 ∨ cls = 7 → windowOk s k g n = false) ∧
    (cls = 0 → (windowOk s k g n = true ↔ (g.extractLsb' 0 56).toNat + n ≤ 2 ^ 56)) ∧
    (cls = 1 → (windowOk s k g n = true ↔ (g.extractLsb' 0 40).toNat + n ≤ (s.hart k).mem.privSize)) ∧
    (cls = 2 ∨ cls = 4 → (windowOk s k g n = true ↔
      (g.extractLsb' 0 20).toNat + n ≤ 0xC0000 ∧ (g.extractLsb' 0 20).toNat + n ≤ (s.hart k).mem.spBytes)) ∧
    (cls = 6 → ((s.hart k).tr.smode = false → windowOk s k g n = false) ∧
      ((s.hart k).tr.smode = true → 0x100000 ≤ (g.extractLsb' 0 56).toNat → (g.extractLsb' 0 56).toNat < 0x119200 →
        (windowOk s k g n = true ↔ n = 8 ∧ (g.extractLsb' 0 56).toNat % 8 = 0))) ∧
    (∀ j l, lease = some (j, l) → l ∈ (s.hart k).mem.leases ∧ (s.hart k).mem.leases[j]? = some l ∧
      l.base ≤ va ∧ va < l.base + l.len ∧
      ∀ i, i < j → ∀ m, (s.hart k).mem.leases[i]? = some m → ¬(m.base ≤ va ∧ va < m.base + m.len))

/-- R113, R114: a scalar load at a + sext(IMM15) extends the bytes it reads into d, changes no memory, and raises POISON
with d unchanged where a granule is poisoned; a scalar store writes the low bytes of d, the least significant at the
lowest address, and changes no other byte and no register; a failed check raises its trap. The core handler emulates one that
is misaligned byte by byte and returns past it; a load of poisoned bytes becomes a POISON, which ends the slice unless it is
reflected (R112).
It rests on log 20. -/
def Obligations.ScalarLoadsAndStores : Prop :=
  (∀ (s : State) (d a : Reg) (imm : BitVec 15),
    let g := s.h.readA a + imm.signExtend 64
    ∀ x ∈ ([(.ldb d a imm, 1, true), (.ldbn d a imm, 1, false), (.ldh d a imm, 2, true), (.ldhn d a imm, 2, false),
        (.ldw d a imm, 4, true), (.ldwn d a imm, 4, false), (.ldd d a imm, 8, false)] : List (Instr × Nat × Bool)),
      s.own.side = .A → s.unstepped = true →
      (∀ p, s.reaches g x.2.1 needR p →
        let v := BitVec.ofNat (8 * x.2.1) (bytesNat (memBytes s.mem p.key x.2.1))
        (s.psnAt p x.2.1 = false → exec x.1 s =
          .next (s.modH (fun h => h.writeA d (if x.2.2 then v.signExtend 64 else v.zeroExtend 64))).advance) ∧
        (s.psnAt p x.2.1 = true → exec x.1 s = .next (s.takeTrap ⟨0x05, g, 0⟩ s.seq.pc))) ∧
      (∀ t, checkElem s s.own.cur g x.2.1 needR 0 = .error t → exec x.1 s = .next (s.takeTrap t s.seq.pc))) ∧
  (∀ (s : State) (d a : Reg) (imm : BitVec 15), s.Inv →
    let g := s.h.readA a + imm.signExtend 64
    ∀ x ∈ ([(.stb d a imm, 1), (.sth d a imm, 2), (.stw d a imm, 4), (.std d a imm, 8)] : List (Instr × Nat)),
      s.own.side = .A → s.unstepped = true →
      (∀ p, s.reaches g x.2 needW p →
        ∃ t, exec x.1 s = .next t ∧
          (∀ i < x.2, memGet t.mem (p.key + i) = (s.h.readA d).extractLsb' (8 * i) 8) ∧
          (∀ b, b < p.key ∨ p.key + x.2 ≤ b → memGet t.mem b = memGet s.mem b) ∧
          (x.2 ≥ 4 → keyHoldsPoison p.key = true → poisoned t.poison p.key x.2 = false) ∧
          t.h.regs = s.h.regs ∧ t.h.csr = s.h.csr ∧ t.h.q = s.h.q ∧ t.seq.pc = s.advance.seq.pc) ∧
      (∀ t, checkElem s s.own.cur g x.2 needW 0 = .error t → exec x.1 s = .next (s.takeTrap t s.seq.pc))) ∧
  (∀ (s : State) (k : HartKey) (d a : Reg) (imm : BitVec 15) (places : List (Place × Piece)), s.handles k →
    let s1 := s.actAs k .A
    let h := s1.h
    let g := h.tr.tval
    let r := s1.bytesOf places
    (∀ x ∈ ([(.ldh d a imm, 2, true), (.ldhn d a imm, 2, false), (.ldw d a imm, 4, true), (.ldwn d a imm, 4, false),
        (.ldd d a imm, 8, false)] : List (Instr × Nat × Bool)), s1.emulates x.1 g x.2.1 needR places →
      let v := BitVec.ofNat (8 * x.2.1) (bytesNat r.1)
      (r.2 = false → ∃ t, s.handlerAct k = .next t ∧ s1.returned t (h.tr.epc + 4) ∧
        (d ≠ 0 → t.h.readA d = if x.2.2 then v.signExtend 64 else v.zeroExtend 64) ∧
        (∀ q, q ≠ d → t.h.readA q = h.readA q) ∧ t.h.q = h.q ∧ t.mem = s.mem ∧ t.poison = s.poison) ∧
      (r.2 = true → (s1.withPoison g).unreflected →
        s.handlerAct k = .next ((s1.withPoison g).endSlice (s.caravan k).slice))) ∧
    (∀ x ∈ ([(.sth d a imm, 2), (.stw d a imm, 4), (.std d a imm, 8)] : List (Instr × Nat)), s.Inv →
      s1.emulates x.1 g x.2 needW places →
      ∃ t, s.handlerAct k = .next t ∧ s1.returned t (h.tr.epc + 4) ∧ s.putAt t places (natBytes (h.readA d).toNat x.2) ∧
        t.h.regs = h.regs ∧ t.h.q = h.q))

/-- R154 to R156: an AMO reads its location, writes the new value of its row, or nothing for a failed AMOCAS, and
puts the old value into d, sign-extended from 32 bits; poison raises POISON and a class 6 address WINDOW. One that is
misaligned the core handler performs byte by byte (R112, R156). -/
def Obligations.AtomicResults : Prop :=
  (∀ (s : State) (d a b : Reg) (acq rel : Bool) (sc : Scope) (q : Bool),
    let n := if q then 8 else 4
    let g := s.h.readA a
    let able := fun (i : Instr) => s.illegalSub i = none ∧ s.unstepped = true
    (∀ i ∈ ([.amoadd d a b acq rel sc q, .amoand d a b acq rel sc q, .amoor d a b acq rel sc q, .amoxor d a b acq rel sc q,
        .amomin d a b acq rel sc q, .amomax d a b acq rel sc q, .amominn d a b acq rel sc q, .amomaxn d a b acq rel sc q,
        .amoswap d a b acq rel sc q, .amocas d a b acq rel sc q, .amofadd d a b acq rel sc q] : List Instr),
      able i → winClass s s.own.cur g = 6 → exec i s = .next (s.takeTrap ⟨0x03, g, 6⟩ s.seq.pc)) ∧
    ∀ p, s.reaches g n needRW p →
    let old := bytesNat (memBytes s.mem p.key n)
    let v := (s.h.readA b).toNat % 2 ^ (8 * n)
    (rel = true → s.h.unfinished = []) →
    ∀ x ∈ amoRows d a b acq rel sc q old v ((s.h.readA d).toNat % 2 ^ (8 * n)),
      able x.1 →
      (s.psnAt p n = false → exec x.1 s = .next ((match x.2 with
        | some w => s.put p.key (whole (natBytes w n)) .clear
        | none => s).modH (fun h => h.writeA d
          (if q then word old else (BitVec.ofNat 32 old).signExtend 64))).advance) ∧
      (s.psnAt p n = true → exec x.1 s = .next (s.takeTrap ⟨0x05, g, 0⟩ s.seq.pc))) ∧
  (∀ (s : State) (k : HartKey) (d a b : Reg) (acq rel : Bool) (sc : Scope) (q : Bool) (places : List (Place × Piece)),
    s.handles k → s.Inv →
    let s1 := s.actAs k .A
    let n := if q then 8 else 4
    let g := s1.h.tr.tval
    let r := s1.bytesOf places
    let old := bytesNat r.1
    ∀ x ∈ amoRows d a b acq rel sc q old ((s1.h.readA b).toNat % 2 ^ (8 * n)) ((s1.h.readA d).toNat % 2 ^ (8 * n)),
      s1.emulates x.1 g n needRW places →
      (r.2 = false → ∃ t, s.handlerAct k = .next t ∧ s1.returned t (s1.h.tr.epc + 4) ∧
        (d ≠ 0 → t.h.readA d = if q then word old else (BitVec.ofNat 32 old).signExtend 64) ∧
        (∀ y, y ≠ d → t.h.readA y = s1.h.readA y) ∧ t.h.q = s1.h.q ∧
        (∀ w, x.2 = some w → s.putAt t places (natBytes w n)) ∧ (x.2 = none → t.mem = s.mem)) ∧
      (r.2 = true → (s1.withPoison g).unreflected →
        s.handlerAct k = .next ((s1.withPoison g).endSlice (s.caravan k).slice)))

/-- R28, R116, R117, R123: SPTEST writes the window class, SPCAST the address of the same byte in the other scratchpad
window or raises WINDOW (R116 and R117 are stated whole, with their words, and the class as R28's table gives it); LCHK writes the word of R123 for windows that
leases do not govern and for a range within one lease. -/
def Obligations.WindowTests : Prop :=
  ∀ (s : State) (d a b : Reg), s.own.side = .A → s.unstepped = true →
    let g := s.h.readA a
    let n := s.h.readA b
    let cls := winClass s s.own.cur g
    let gives := fun (i : Instr) (v : Word) => exec i s = .next (s.modH (fun h => h.writeA d v)).advance
    decode (0x2C#7 ++ d ++ a ++ 0#15) = .ok (.sptest d a) ∧ decode (0x2C#7 ++ d ++ a ++ 1#15) = .ok (.spcast d a) ∧
    gives (.sptest d a) (word cls) ∧ cls ≤ 7 ∧
    (let top := (g.extractLsb' 56 8).toNat
     let mine := (g.extractLsb' 48 8).toNat = s.own.cur.slot
     (top = 0x00 → cls = 0) ∧ (top = 0xF0 → cls = if g.extractLsb' 40 16 = 0 then 1 else 7) ∧
     (top = 0xF1 → cls = if g.extractLsb' 20 26 ≠ 0 then 7 else if mine ∧ (g.extractLsb' 46 2).toNat = s.own.cur.idx then 2 else 3) ∧
     (top = 0xF2 → cls = if g.extractLsb' 22 26 ≠ 0 then 7
       else if mine ∧ (g.extractLsb' 20 2).toNat < (s.caravan s.own.cur).size then 4 else 5) ∧
     (top = 0xFE → cls = 6) ∧ (top ∉ [0x00, 0xF0, 0xF1, 0xF2, 0xFE] → cls = 7)) ∧
    (cls = 2 → gives (.spcast d a) (0xF2#8 ++ g.extractLsb' 48 8 ++ 0#26 ++ g.extractLsb' 46 2 ++ g.extractLsb' 0 20)) ∧
    (cls = 4 → (g.extractLsb' 20 2).toNat = s.own.cur.idx →
      gives (.spcast d a) (0xF1#8 ++ g.extractLsb' 48 8 ++ g.extractLsb' 20 2 ++ 0#26 ++ g.extractLsb' 0 20)) ∧
    (cls ≠ 2 → ¬(cls = 4 ∧ (g.extractLsb' 20 2).toNat = s.own.cur.idx) →
      exec (.spcast d a) s = .next (s.takeTrap ⟨0x03, g, word cls⟩ s.seq.pc)) ∧
    (n = 0 → gives (.lchk d a b) 0) ∧
    (n ≠ 0 → cls = 3 ∨ cls = 5 ∨ cls = 6 ∨ cls = 7 → gives (.lchk d a b) 0x8000) ∧
    (n ≠ 0 → cls = 2 ∨ cls = 4 →
      gives (.lchk d a b) (if gOff g + n.toNat ≤ s.spLimit s.own.cur then 0x4003 else 0x8000)) ∧
    (n ≠ 0 → cls = 1 → gives (.lchk d a b) (if gPriv g + n.toNat ≤ s.h.mem.privSize then 0x4003 else 0x8000)) ∧
    (∀ j l, n ≠ 0 → cls = 0 → s.h.mem.leases = [l] → leaseAt s.h.mem.leases (gVa g) = some (j, l) →
      gVa g + n.toNat ≤ l.base + l.len → gVa g + n.toNat ≤ 2 ^ 56 →
      gives (.lchk d a b) (word ((if l.rd then 16 else 0) + (if l.sc then 8 else 0) + (if l.ns then 4 else 0) +
        (if l.w then 2 else 0) + (if l.r then 1 else 0))))

/-! ### Queues and lengths -/

/-- R119 to R121: STRIP grants the smaller of a and the VLMAX of its caravan, writes it to d, the VL of the A side and
the length queue, lowers a by it, and advances each pointer by half the granted nibbles, rounded up. SETVL sets the VL of
the X side and d to the smaller of a and VLMAX under VT; VLTAKE takes the head of the length queue into both. VLMAX is the
least, over the caravan's cores, of 2048 and the elements that the core's usable lanes hold. -/
def Obligations.VectorLengths : Prop :=
  (∀ (s : State) (w l : Nat),
    let own := fun (n : Nat) => min 2048 ((s.coreNo n).lanes * 256 / w * l)
    let cores := (s.caravan s.own.cur).cores
    s.vlmax w l ≤ 2048 ∧ (∀ n ∈ cores, s.vlmax w l ≤ own n) ∧
    ((∃ n ∈ cores, s.vlmax w l = own n) ∨ s.vlmax w l = 2048)) ∧
  (∀ (s : State) (d a b : Reg) (n : BitVec 3) (l : BitVec 2) (e : Esz),
    let i := Instr.strip d a b n l e
    let vl := min (s.h.readA a).toNat (s.vlmax e.width (2 ^ l.toNat))
    s.illegalSub i = none → s.unstepped = true → s.h.q.len.items.length < 16 →
    ∃ t, exec i s = .next t ∧ t.h.a.vl = vl ∧ t.h.q.len.items = s.h.q.len.items ++ [word vl] ∧
      (d ≠ 0 → d ≠ a → t.h.readA d = word vl) ∧ (a ≠ 0 → t.h.readA a = s.h.readA a - word vl) ∧
      (∀ k < n.toNat, t.h.readA (b + BitVec.ofNat 5 k) = s.h.readA (b + BitVec.ofNat 5 k) +
        word ((vl * (s.h.csr.stripsz.extractLsb' (16 * k) 16).toNat + 1) / 2)) ∧
      (∀ r, r ≠ d → r ≠ a → (∀ k < n.toNat, r ≠ b + BitVec.ofNat 5 k) → t.h.readA r = s.h.readA r) ∧
      t.h.x = s.h.x ∧ t.mem = s.mem ∧ t.seq.pc = s.advance.seq.pc) ∧
  (∀ (s : State) (d a : Reg) (v : VType), s.vt = some v →
    (s.ready (.setvl d a) [.s a] (some d) none →
      let n := min (s.fld [.s a] 0).toNat (s.vlmax v.w v.lmul)
      exec (.setvl d a) s =
        .next (((s.popAll [.s a]).modH (fun h => { h with x := { h.x with vl := n } })).writeR d (word n)).advance) ∧
    (∀ w rest, s.h.q.len.items = w :: rest → s.ready (.vltake d) [] (some d) none → s.own.side = .X →
      ∃ t, exec (.vltake d) s = .next t ∧ t.h.x.vl = w.toNat ∧ t.h.q.len.items = rest ∧
        t.h.a = s.h.a ∧ t.mem = s.mem ∧ (d ≠ 0 → isQ d = false → t.h.readX d 0 = w)))

/-! ### Vector accesses -/

/-- R124, R126 to R128, R131, R214: VLD, VLDS and VLDP deliver their elements at the tail of their queue; VLDX takes its
indices from a list in memory, or from the entries of a store queue, which it pops; VLDFF loads the elements before the
first, beyond element 0, that cannot be loaded or starts a new 64 KiB page under NS, and grants their number to the VL of
the A side and the length queue. The core handler emulates a misaligned element of VLD: it goes into the entry that the load
holds reserved, 0 with its poison bit set where a byte is poisoned, and the load resumes at the next element (R112). -/
def Obligations.VectorLoads : Prop :=
  (∀ (s : State) (q b r : Reg) (pl : BitVec 2) (acq nt rnd : Bool) (e : Esz) (f : Fam),
    let vl := s.h.a.vl
    let k := pl.toNat + 1
    ∀ x ∈ ([(.vld q b acq nt e, e.width, s.eltUnit b e.width, one), (.vlds q b r acq nt e, e.width, s.eltStride b r e.width, one),
        (.vldp q b r pl acq nt rnd f, f.width, s.eltPlanes b r f.planeWidth (if rnd then k else k - 1), joinPlanes f k rnd)] :
        List (Instr × Nat × (Nat → Elt) × (List Nat → Nat))),
      s.loadable x.1 q x.2.1 vl x.2.2.1 →
      ∃ t, exec x.1 s = .next t ∧ s.loads t q x.2.1 vl x.2.2.1 x.2.2.2 ∧ t.seq.pc = s.advance.seq.pc) ∧
  (∀ (s : State) (q b x : Reg) (acq nt dd : Bool) (e : Esz),
    let i := Instr.vldx q b x acq nt dd e
    let vl := s.h.a.vl
    let n := max 1 ((vl + 255) / 256)
    let held := (s.h.q.vstore[qNo x]).items
    (isQ x = false → s.loadable i q e.width vl (s.eltIndex b x [] e.width false) →
      ∃ t, exec i s = .next t ∧ s.loads t q e.width vl (s.eltIndex b x [] e.width false) one ∧
        t.h.q.vstore = s.h.q.vstore ∧ t.seq.pc = s.advance.seq.pc) ∧
    (isQ x = true → n ≤ held.length → (s.h.q.vstore[qNo x]).held = none →
      s.loadable i q e.width vl (s.eltIndex b x (held.take n) e.width false) →
      ∃ t, exec i s = .next t ∧ s.loads t q e.width vl (s.eltIndex b x (held.take n) e.width false) one ∧
        (t.h.q.vstore[qNo x]).items = held.drop n ∧ (t.h.q.vstore[qNo x]).held = none ∧ t.seq.pc = s.advance.seq.pc)) ∧
  (∀ (s : State) (q b : Reg) (acq nt : Bool) (e : Esz),
    let i := Instr.vldff q b acq nt e
    let n := s.ffLength b e.width
    s.loadable i q e.width n (s.eltUnit b e.width) → s.h.q.len.items.length < 16 →
    (∃ t, exec i s = .next t ∧ s.loads t q e.width n (s.eltUnit b e.width) one ∧ t.h.a.vl = n ∧
      t.h.q.len.items = s.h.q.len.items ++ [word n] ∧ t.seq.pc = s.advance.seq.pc) ∧
    n ≤ s.h.a.vl ∧ (∀ j, 0 < j → j < n → s.ffStops b e.width j = false) ∧
    (0 < n → n < s.h.a.vl → s.ffStops b e.width n = true)) ∧
  (∀ (s : State) (k : HartKey) (q b : Reg) (acq nt : Bool) (e : Esz) (places : List (Place × Piece)) (r : Resv), s.handles k →
    let s1 := s.actAs k .A
    let el := s1.h.tr.tval2.toNat
    let pos := el % perReg e.width
    e ≠ .e4 → s1.emulates (.vld q b acq nt e) (s1.h.readA b + word (el * (e.width / 8))) (e.width / 8) needR places →
    (s1.h.q.vload[qNo q]).resv = some r →
    ∃ t r1, s.handlerAct k = .next t ∧ s1.returned t s1.h.tr.epc ∧ t.h.a.vstart = el + 1 ∧ t.h.regs = s1.h.regs ∧
      (t.h.q.vload[qNo q]).items = (s1.h.q.vload[qNo q]).items ∧ (t.h.q.vload[qNo q]).resv = some r1 ∧
      r1.entry.psn.getLsbD pos = (s1.bytesOf places).2 ∧
      vGet [r1.entry.data] e.width pos = (if (s1.bytesOf places).2 then 0 else bytesNat (s1.bytesOf places).1) ∧
      (∀ y, y ≠ pos → y < perReg e.width → vGet [r1.entry.data] e.width y = vGet [r.entry.data] e.width y ∧
        r1.entry.psn.getLsbD y = r.entry.psn.getLsbD y) ∧ t.mem = s.mem ∧ t.poison = s.poison)

/-- R124, R125, R128, R130, R216: a vector store of one entry writes its active elements and nothing else: VST, VSTS and VSTP
their values, VSTX at its indices, VSTXADD the sums; indices from the same store queue stand before the data. With VL 0 a
load pushes one entry of zeros and a store pops one entry; neither touches memory or checks an address. The core handler
emulates a misaligned element of VST: it writes the element of the head entry byte by byte if it is active and not poisoned,
and the store resumes at the next element (R112).
It rests on log 65, 73, 74. -/
def Obligations.VectorStores : Prop :=
  (∀ (s : State) (q b r x : Reg) (pl : BitVec 2) (rel nt z fp : Bool) (e : Esz) (f : Fam) (en : Entry) (xs : List StElt),
    let vl := s.h.a.vl
    let k := pl.toNat + 1
    let top := if z then f.planes - 1 else k - 1
    let plain := fun (_ v : List Byte) => v
    s.Inv → 0 < vl → (rel = true → s.h.unfinished = []) →
    (∀ y ∈ ([(.vst q b rel nt e, e.width, s.eltUnit b e.width, whole1), (.vsts q b r rel nt e, e.width, s.eltStride b r e.width, whole1),
        (.vstp q b r pl rel nt z f, f.width, s.eltPlanes b r f.planeWidth top, splitPlanes f k top)] :
        List (Instr × Nat × (Nat → Elt) × (Nat → Bool → List Nat))),
      s.storable y.1 q needW y.2.1 vl 0 y.2.2.1 y.2.2.2 en xs →
      ∃ t, exec y.1 s = .next t ∧ s.stores t q 0 xs plain ∧ t.seq.pc = s.advance.seq.pc) ∧
    (isQ x = false → s.storable (.vstx q b x rel nt e) q needW e.width vl 0 (s.eltIndex b x [] e.width true) whole1 en xs →
      ∃ t, exec (.vstx q b x rel nt e) s = .next t ∧ s.stores t q 0 xs plain ∧ t.seq.pc = s.advance.seq.pc) ∧
    (isQ x = true →
      let n := max 1 ((vl + 255) / 256)
      let held := (s.h.q.vstore[qNo x]).items
      let skip := if qNo x = qNo q then n else 0
      n ≤ held.length → (s.h.q.vstore[qNo x]).held = none →
      ∀ y ∈ ([(.vstx q b x rel nt e, needW, plain), (.vstxadd q b x rel nt fp e, needRW, addBytes fp)] :
          List (Instr × Need × (List Byte → List Byte → List Byte))),
        s.storable y.1 q y.2.1 e.width vl skip (s.eltIndex b x (held.take n) e.width true) whole1 en xs →
        ∃ t, exec y.1 s = .next t ∧ s.stores t q skip xs y.2.2 ∧
          (qNo x ≠ qNo q → (t.h.q.vstore[qNo x]).items = held.drop n) ∧ t.seq.pc = s.advance.seq.pc) ∧
    (isQ x = false → e ≠ .e4 →
      s.storable (.vstxadd q b x rel nt fp e) q needRW e.width vl 0 (s.eltIndex b x [] e.width true) whole1 en xs →
      ∃ t, exec (.vstxadd q b x rel nt fp e) s = .next t ∧ s.stores t q 0 xs (addBytes fp) ∧ t.seq.pc = s.advance.seq.pc)) ∧
  (∀ (s : State) (q b : Reg) (x nt : Bool) (e : Esz) (en : Entry) (rest : List Entry),
    s.own.side = .A → s.unstepped = true → isQ q = true → s.h.a.vl = 0 →
    ((s.h.q.vload[qNo q]).items.length < 8 →
      ∃ t z, exec (.vld q b x nt e) s = .next t ∧ (t.h.q.vload[qNo q]).items = (s.h.q.vload[qNo q]).items ++ [z] ∧
        z.data = 0 ∧ z.psn = 0 ∧ t.mem = s.mem ∧ t.poison = s.poison ∧ t.seq.pc = s.advance.seq.pc) ∧
    ((s.h.q.vstore[qNo q]).items = en :: rest →
      ∃ t, exec (.vst q b x nt e) s = .next t ∧ (t.h.q.vstore[qNo q]).items = rest ∧ t.mem = s.mem ∧
        t.poison = s.poison ∧ t.seq.pc = s.advance.seq.pc)) ∧
  (∀ (s : State) (k : HartKey) (q b : Reg) (rel nt : Bool) (e : Esz) (places : List (Place × Piece)) (en : Entry)
    (rest : List Entry), s.handles k → s.Inv →
    let s1 := s.actAs k .A
    let el := s1.h.tr.tval2.toNat
    let pos := el % perReg e.width
    e ≠ .e4 → s1.emulates (.vst q b rel nt e) (s1.h.readA b + word (el * (e.width / 8))) (e.width / 8) needW places →
    (s1.h.q.vstore[qNo q]).items = en :: rest → en.psn.getLsbD pos = false →
    ∃ t, s.handlerAct k = .next t ∧ s1.returned t s1.h.tr.epc ∧ t.h.a.vstart = el + 1 ∧ t.h.regs = s1.h.regs ∧
      (t.h.q.vstore[qNo q]).items = (if (el + 1) % perReg e.width = 0 then rest else en :: rest) ∧
      (if en.pred.getLsbD pos then s.putAt t places (natBytes (vGet [en.data] e.width pos) (e.width / 8)) else t.mem = s.mem))


/-! ### Vector arithmetic -/

/-- R175, R184 to R186, R180: the floating-point element-wise instructions compute each active element once in the format
and mode of VT or the word; a poisoned operand gives the poison NaN and marks PSM, and the element's flags are those that
the operation sets with a quiet NaN in its place.
That VFABS and VFNEG of an operand with the poison payload give the poison NaN, where R186 keeps a NaN as it is, and the
flags of a poisoned element are the model's choice (log 56). -/
def Obligations.VectorFloatResults : Prop :=
  ∀ (s : State) (v : VType) (d a b : Reg) (fm : BKind) (pg : BitVec 3) (m : RM),
    let f := v.fmt
    let rm := v.vectorRm m
    let on := s.vactive v pg
    let gives := fun (i : Instr) (fs : List Fld) (xs : List Opnd) (op : List Nat → FRes) =>
      s.vready i fs none (some d) v →
      let bad := fun e => xs.any (fun o => o.psn e)
      let r := fun e => if bad e then (f.poison, (op (xs.map (fun o => if o.psn e then f.poison else o.val e))).2)
        else op (xs.map (fun o => o.val e))
      ∃ t, exec i s = .next t ∧ s.pkeeps t ∧ s.vwrites t v d on on (fun e => (r e).1) ∧ s.vmarks t on bad (fun e => (r e).2)
    let two : List Fld := .v a :: bFld fm b
    let three : List Fld := two ++ [.v d]
    let A := fun fs => s.vop fs 0 v.lmul v.w (some f)
    let B := fun fs => s.bop v fs 1 fm b (some f)
    let D := s.vop three (three.length - 1) v.lmul v.w (some f)
    let pair := fun (op : Nat → Nat → FRes) (x : List Nat) => op (x.getD 0 0) (x.getD 1 0)
    let fused := fun (n1 n2 : Bool) (x : List Nat) => f.fmaV rm n1 (f.dec (x.getD 0 0)) (f.dec (x.getD 1 0))
      (if n2 then (f.dec (x.getD 2 0)).neg else f.dec (x.getD 2 0))
    (∀ x ∈ ([(.vfadd d a b fm pg m, f.add rm), (.vfsub d a b fm pg m, f.sub rm), (.vfmul d a b fm pg m, f.mul rm),
        (.vfdiv d a b fm pg m, f.div rm), (.vfmin d a b fm pg, f.minmax false), (.vfmax d a b fm pg, f.minmax true)] :
        List (Instr × (Nat → Nat → FRes))), gives x.1 two [A two, B two] (pair x.2)) ∧
    (∀ x ∈ ([(.vfma d a b fm pg m, false, false), (.vfms d a b fm pg m, false, true), (.vfnma d a b fm pg m, true, false),
        (.vfnms d a b fm pg m, true, true)] : List (Instr × Bool × Bool)),
      gives x.1 three [A three, B three, D] (fused x.2.1 x.2.2)) ∧
    (∀ x ∈ ([(.vfsqrt d a pg m, f.sqrt rm), (.vfrcp d a pg m, f.rcp rm), (.vfrsq d a pg m, f.rsq rm),
        (.vfabs d a pg, fun x => (x % 2 ^ (v.w - 1), 0)),
        (.vfneg d a pg, fun x => ((if x < 2 ^ (v.w - 1) then x + 2 ^ (v.w - 1) else x - 2 ^ (v.w - 1)), 0))] :
        List (Instr × (Nat → FRes))), gives x.1 [.v a] [A [.v a]] (fun y => x.2 (y.getD 0 0)))

/-- R184, R188: the integer element-wise instructions compute on elements of SEW bits, exactly and then clamped to
the kind's range under SAT, or modulo 2^SEW; shifts take their count modulo SEW; no flag is set. -/
def Obligations.VectorIntegerResults : Prop :=
  ∀ (s : State) (v : VType) (d a b : Reg) (fm : BKind) (pg : BitVec 3),
    let fs : List Fld := .v a :: bFld fm b
    let A := s.vop fs 0 v.lmul v.w none
    let B := s.bop v fs 1 fm b none
    let on := s.vactive v pg
    let sg := fun (x : Nat) => (BitVec.ofNat v.w x).toInt
    let int := fun (x : Nat) => if v.kind = .int then sg x else (x : Int)
    let low := fun (x : Int) => (BitVec.ofInt v.w x).toNat
    let sat := fun (x : Int) =>
      if v.sat = true ∧ v.kind = .int then low (max (-(2 ^ (v.w - 1))) (min (2 ^ (v.w - 1) - 1) x))
      else if v.sat = true ∧ v.kind = .nat then low (max 0 (min (2 ^ v.w - 1) x)) else low x
    ∀ x ∈ ([(.vadd d a b fm pg, fun x y => sat (int x + int y)), (.vsub d a b fm pg, fun x y => sat (int x - int y)),
        (.vmul d a b fm pg, fun x y => sat (int x * int y)), (.vmulh d a b fm pg, fun x y => low (int x * int y / 2 ^ v.w)),
        (.vand d a b fm pg, fun x y => x &&& y), (.vor d a b fm pg, fun x y => x ||| y), (.vxor d a b fm pg, fun x y => x ^^^ y),
        (.vsll d a b fm pg, fun x y => x <<< (y % v.w)), (.vsrl d a b fm pg, fun x y => x >>> (y % v.w)),
        (.vsra d a b fm pg, fun x y => low (sg x / 2 ^ (y % v.w))),
        (.vmin d a b fm pg, fun x y => if sg x ≤ sg y then x else y), (.vmax d a b fm pg, fun x y => if sg x ≤ sg y then y else x),
        (.vminn d a b fm pg, fun x y => min x y), (.vmaxn d a b fm pg, fun x y => max x y)] : List (Instr × (Nat → Nat → Nat))),
      s.vready x.1 fs none (some d) v →
      let bad := fun e => A.psn e || B.psn e
      ∃ t, exec x.1 s = .next t ∧
        s.pkeeps t ∧ s.vwrites t v d on on (fun e => if bad e then 0 else x.2 (A.val e) (B.val e)) ∧ s.vmarks t on bad (fun _ => 0)

/-- R187, R189: VFCMP and VCMP write the bit of each active element; a poisoned element gives 0 and marks PSM. -/
def Obligations.VectorCompareResults : Prop :=
  (∀ (s : State) (v : VType) (d a b : Reg) (fm : BKind) (pg : BitVec 3) (c : VFCond) (k : VCond),
    let fs : List Fld := .v a :: bFld fm b
    let on := s.vactive v pg
    let sg := fun (x : Nat) => (BitVec.ofNat v.w x).toInt
    let holds := fun (x y : Nat) => match k with
      | .eq => decide (x = y) | .ne => decide (x ≠ y) | .lt => decide (sg x < sg y) | .ge => decide (sg x ≥ sg y)
      | .ltn => decide (x < y) | .gen => decide (x ≥ y)
    let gives := fun (i : Instr) (A B : Opnd) (op : Nat → Nat → Bool × Nat) =>
      s.vready i fs none none v →
      let bad := fun e => A.psn e || B.psn e
      let r := fun e => if bad e then (false, 0) else op (A.val e) (B.val e)
      ∃ t, exec i s = .next t ∧ s.pputs t (d.zeroExtend 6) on (fun e => (r e).1) ∧ s.vmarks t on bad (fun e => (r e).2)
    gives (.vfcmp d a b fm pg c) (s.vop fs 0 v.lmul v.w (some v.fmt)) (s.bop v fs 1 fm b (some v.fmt)) (v.fmt.cmp c) ∧
    gives (.vcmp d a b fm pg k) (s.vop fs 0 v.lmul v.w none) (s.bop v fs 1 fm b none) (fun x y => (holds x y, 0)))

/-- R184, R190, R191: VCVT converts each active element from its type to that of VT, pass by pass: the source elements of a
pass are read from the registers as the passes before it left them (`g p` is the destination group before pass p), and all
before the pass writes. Between formats a finite value rounds once,
unchanged into its own type; an infinity stays one, or gives the largest value of E4M3 and E2M1 with OF and NX, which a
finite value beyond them gives too; a NaN gives the NaN that R191 names, and NV where it signals. A value beyond an
integer's limits saturates and sets NV, a NaN converts to 0 with NV, infinities by sign. An integer goes to a format in one
rounding, and to another integer exactly, clamped under SAT where that is not wider, else modulo 2^SEW.
The flag of a signalling NaN is the model's choice (log 58). -/
def Obligations.VectorConversions : Prop :=
  (∀ (s : State) (v : VType) (d a : Reg) (pg : BitVec 3) (m : RM) (y : VTy),
    let P := s.perPass v.w
    let A := fun (g : Nat → List VReg) e =>
      (if isQ d then s else s.modH (fun h => h.setGroup d (g (e / P)))).vop [.v a] 0 (sideGroup v.lmul y.width v.w) y.width (tyPsn y)
    let on := s.vactive v pg
    let r := fun g e => if (A g e).psn e then (v.psn, 0) else convert y v (v.vectorRm m) ((A g e).val e)
    P = max 1 ((s.coreNo (s.coreOf s.own.cur)).lanes * 256 / v.w) ∧
    (s.vready (.vcvt d a m pg y) [.v a] none (some d) v →
    ∃ t, ∃ g : Nat → List VReg, exec (.vcvt d a m pg y) s = .next t ∧ g 0 = s.h.vGroup d v.lmul ∧
      (isQ d = false → ∀ p, (g p).length = v.lmul ∧ ∀ e < v.lmul * perReg v.w,
        vGet (g (p + 1)) v.w e = if on e && e / P == p then (r g e).1 % 2 ^ v.w else vGet (g p) v.w e) ∧
      s.pkeeps t ∧ s.vwrites t v d on on (fun e => (r g e).1) ∧ s.vmarks t on (fun e => (A g e).psn e) (fun e => (r g e).2))) ∧
  (∀ f ∈ [fmt64, fmt32, fmt16, fmtBf, fmtE4M3, fmtE5M2, fmtE2M1], ∀ g ∈ [fmt64, fmt32, fmt16, fmtBf, fmtE4M3, fmtE5M2, fmtE2M1],
    ∀ (rm : RM) (x : Nat) (s q p : Bool) (m : Nat) (e : Int),
    (f.dec x = .nan s q p → f.cvt g rm x = if g = fmtE4M3 then (g.sgn s + 0x7F, if q then 16 else 0) else if g = fmtE2M1 then (0, 16)
      else (if p = true ∧ g ∈ [fmt64, fmt32, fmt16, fmtBf] then g.poison else g.nan, if q then 16 else 0)) ∧
    (f.dec x = .inf s → f.cvt g rm x =
      if g = fmtE4M3 then (g.sgn s + 0x7E, 5) else if g = fmtE2M1 then (g.sgn s + 7, 5) else (g.sgn s + g.infCode, 0)) ∧
    (f.dec x = .fin s m e → f.cvt g rm x = g.round rm s m e) ∧
    (f.dec x = .fin s m e → x < 2 ^ f.width → f.cvt f rm x = (x, 0))) ∧
  (∀ (rm : RM) (s : Bool) (m : Nat) (e : Int), m ≠ 0 →
    let down := rm = .rtz ∨ (rm = .rup ∧ s = true) ∨ (rm = .rdn ∧ s = false)
    fmtE4M3.rounds 8 0x7E rm s m e (fmtE4M3.round rm s m e) ∧ fmtE2M1.rounds 2 7 rm s m e (fmtE2M1.round rm s m e) ∧
    fmtE5M2.rounds 15 (if down then 0x7B else 0x7C) rm s m e (fmtE5M2.round rm s m e)) ∧
  (∀ (y : VTy) (t : VType) (rm : RM) (x : Nat), tyFmt y = none → x < 2 ^ y.width →
    let k : Int := if y ∈ [VTy.i8, .i16, .i32, .i64] then (BitVec.ofNat y.width x).toInt else x
    let lo : Int := if t.kind = .int then -(2 ^ (t.w - 1)) else 0
    let hi : Int := if t.kind = .int then 2 ^ (t.w - 1) - 1 else 2 ^ t.w - 1
    convert y t rm x =
      if t.kind = .int ∨ t.kind = .nat then
        ((BitVec.ofInt t.w (if t.w ≤ y.width ∧ t.sat = true then max lo (min hi k) else k)).toNat, 0)
      else t.fmt.round rm (decide (k < 0)) k.natAbs 0) ∧
  (∀ f ∈ [fmt64, fmt32, fmt16, fmtBf], ∀ (rm : RM) (w : Nat) (x : Nat), 0 < w →
    ((f.dec x).isNan = true → f.toInt rm true w x = (0, 16) ∧ f.toInt rm false w x = (0, 16)) ∧
    (f.dec x = .inf false → f.toInt rm true w x = (2 ^ (w - 1) - 1, 16) ∧ f.toInt rm false w x = (2 ^ w - 1, 16)) ∧
    (f.dec x = .inf true → f.toInt rm true w x = (2 ^ (w - 1), 16) ∧ f.toInt rm false w x = (0, 16)) ∧
    (∀ m, f.dec x = .fin false m 0 → m < 2 ^ (w - 1) → f.toInt rm true w x = (m, 0) ∧ f.toInt rm false w x = (m, 0)) ∧
    (∀ m, f.dec x = .fin true m 0 → m ≠ 0 → m ≤ 2 ^ (w - 1) → f.toInt rm true w x = (2 ^ w - m, 0) ∧ f.toInt rm false w x = (0, 16)))

/-- R192, R194: VMV copies, VBCAST repeats and VMERGE selects; a value moves bit for bit, and a poisoned queue element as
the poison result of its kind. VEXTR reads one element into a scalar register, 0 beyond vl, and raises POISON for a
poisoned one; VINS writes one element, none beyond vl.
That an element of VMERGE and of VINS below vl counts as active in a pushed entry is the model's choice (log 57), as is
what a moved payload marks (log 56). -/
def Obligations.VectorMoves : Prop :=
  (∀ (s : State) (v : VType) (d a b : Reg) (fm : BKind) (pg : BitVec 3),
    let on := s.vactive v pg
    let all := fun e => decide (e < s.vlen v) && decide (e < 2048)
    let out := fun (o : Opnd) (e : Nat) => if o.psn e then v.psn else o.val e
    let bad := fun (o : Opnd) (e : Nat) => o.psn e || (v.fp && (v.fmt.dec (o.val e)).isPsn)
    let fs : List Fld := .v a :: bFld fm b
    let A := fun fs => s.vop fs 0 v.lmul v.w none
    let pick := fun e => if (s.h.guard pg).getLsbD e then s.bop v fs 1 fm b none else A fs
    (s.vready (.vmv d a pg) [.v a] none (some d) v →
      ∃ t, exec (.vmv d a pg) s = .next t ∧ s.pkeeps t ∧ s.vwrites t v d on on (out (A [.v a])) ∧
        s.vmarks t on (bad (A [.v a])) (fun _ => 0)) ∧
    (s.vready (.vbcast d b fm pg) (bFld fm b) none (some d) v →
      ∃ t, exec (.vbcast d b fm pg) s = .next t ∧ s.pkeeps t ∧
        s.vwrites t v d on on (out (s.bop v (bFld fm b) 0 fm b none)) ∧
        s.vmarks t on (bad (s.bop v (bFld fm b) 0 fm b none)) (fun _ => 0)) ∧
    (s.vready (.vmerge d a b fm pg) fs none (some d) v →
      ∃ t, exec (.vmerge d a b fm pg) s = .next t ∧ s.pkeeps t ∧ s.vwrites t v d all all (fun e => out (pick e) e) ∧
        s.vmarks t all (fun e => bad (pick e) e) (fun _ => 0))) ∧
  (∀ (s : State) (v : VType) (d a k : Reg) (fm : BKind),
    let ev : List Fld := .v a :: kFld fm k
    let iv : List Fld := .s a :: kFld fm k
    let n := s.kVal ev 1 fm k
    let m := s.kVal iv 1 fm k
    let A := s.vop ev 0 v.lmul v.w (if v.fp then some v.fmt else none)
    let x := BitVec.ofNat v.w (A.val n)
    let wide : Word := if v.kind = .int then x.signExtend 64 else x.zeroExtend 64
    (s.vready (.vextr d a k fm) ev (some d) none v →
      (n < s.vlen v → A.psn n = false → exec (.vextr d a k fm) s = s.wrote ev d wide) ∧
      (s.vlen v ≤ n → exec (.vextr d a k fm) s = s.wrote ev d 0) ∧
      (n < s.vlen v → A.psn n = true → exec (.vextr d a k fm) s = .next (s.takeTrap ⟨0x05, word n, 2⟩ s.seq.pc))) ∧
    (s.vready (.vins d a k fm) iv none (some d) v →
      ∃ t, exec (.vins d a k fm) s = .next t ∧
        s.vwrites t v d (fun e => decide (e = m ∧ m < s.vlen v)) (fun e => decide (e < s.vlen v)) (fun _ => (s.fld iv 0).toNat) ∧
        s.pkeeps t ∧ s.vmarks t (fun _ => false) (fun _ => false) (fun _ => 0)))

/-- R193: the slides, the permutation, compression, expansion and VIOTA; elements that a row does not write stay.
That an index of VPERM with the poison payload is no poisoned index (log 78), that every element of VIOTA below vl counts
as active (log 57) and what a moved payload marks (log 56) are the model's choices. -/
def Obligations.VectorPermutes : Prop :=
  ∀ (s : State) (v : VType) (d a b k : Reg) (fm : BKind) (pg : BitVec 3),
    let vl := s.vlen v
    let on := s.vactive v pg
    let act := (List.range vl).filter on
    let out := fun (o : Opnd) (e : Nat) => if o.psn e then v.psn else o.val e
    let bad := fun (o : Opnd) (e : Nat) => o.psn e || (v.fp && (v.fmt.dec (o.val e)).isPsn)
    let rank := fun (e : Nat) => (List.range e).countP (fun x => (s.h.guard pg).getLsbD x)
    let fs : List Fld := .v a :: kFld fm k
    let n := s.kVal fs 1 fm k
    let A := s.vop fs 0 v.lmul v.w none
    let P := s.vop [.v a, .v b] 0 v.lmul v.w none
    let ix := s.vop [.v a, .v b] 1 v.lmul v.w none
    let U := s.vop [.v a] 0 v.lmul v.w none
    let gives := fun (i : Instr) (fs : List Fld) (on act : Nat → Bool) (val : Nat → Nat) (psn : Nat → Bool) =>
      s.vready i fs none (some d) v →
      ∃ t, exec i s = .next t ∧ s.pkeeps t ∧ s.vwrites t v d on act val ∧ s.vmarks t on psn (fun _ => 0)
    gives (.vslideup d a k fm pg) fs (fun e => on e && decide (n ≤ e)) on (fun e => out A (e - n)) (fun e => bad A (e - n)) ∧
    gives (.vslidedn d a k fm pg) fs on on (fun e => if e + n < vl then out A (e + n) else 0)
      (fun e => decide (e + n < vl) && bad A (e + n)) ∧
    gives (.vperm d a b pg) [.v a, .v b] on on
      (fun e => if ix.psn e then v.psn else if ix.val e < vl then out P (ix.val e) else 0)
      (fun e => ix.psn e || (decide (ix.val e < vl) && bad P (ix.val e))) ∧
    gives (.vcomp d a pg) [.v a] (fun j => decide (j < act.length)) on (fun j => out U (act.getD j 0)) (fun j => bad U (act.getD j 0)) ∧
    gives (.vexpd d a pg) [.v a] on on (fun e => out U (rank e)) (fun e => bad U (rank e)) ∧
    (vl ≤ 2048 → gives (.viota d pg) [] (fun e => decide (e < vl)) (fun e => decide (e < vl)) rank (fun _ => false))

/-- R195 to R198: sums in element order and over a binary tree, the maximum and the minimum, and the scan, of the
active elements; on a floating-point kind a poisoned element makes the result the poison NaN, and on an integer kind it
raises POISON, but in VSCAN gives 0 from there on.
That the maximum starts at the first active element is the model's choice (log 80). -/
def Obligations.Reductions : Prop :=
  ∀ (s : State) (v : VType) (d a : Reg) (pg : BitVec 3) (m : RM),
    let A := s.vop [.v a] 0 v.lmul v.w (if v.fp then some v.fmt else none)
    let on := s.vactive v pg
    let act := (List.range (s.vlen v)).filter on
    let x := fun e => if A.psn e then v.psn else A.val e
    let sg := fun (y : Nat) => (BitVec.ofNat v.w y).toInt
    let val := fun (y : Nat) => if v.kind = .int then sg y else (y : Int)
    let add := fun (y z : Nat) => (v.radd m y z).1
    let sum := fun (es : List Nat) => (es.map x).tail.foldl add ((es.map x).headD 0)
    let wide := fun (y : Nat) => if v.kind = .int then ((BitVec.ofNat v.w y).signExtend 64) else word y
    let best := fun (mx : Bool) (y z : Nat) =>
      if v.fp then (v.fmt.minmax mx y z).1 else if (mx = true ∧ val z > val y) ∨ (mx = false ∧ val z < val y) then z else y
    let none_ := fun (mx : Bool) => if v.fp then v.fmt.sgn mx + v.fmt.infCode
      else if v.kind = .int then (if mx then 2 ^ (v.w - 1) else 2 ^ (v.w - 1) - 1) else if mx then 0 else 2 ^ v.w - 1
    let depth := if s.vlen v ≤ 1 then 0 else Nat.log2 (s.vlen v - 1) + 1
    let marks := fun (t : State) => (∀ e < 2048, t.h.regs.psm.getLsbD e = (s.h.regs.psm.getLsbD e || (on e && A.psn e))) ∧
      t.h.csr = { s.h.csr with fflags := t.h.csr.fflags } ∧ (v.fp = false → t.h.csr.fflags = s.h.csr.fflags)
    let gives := fun (i : Instr) (y : Nat) => s.vready i [.v a] (some d) none v →
      (v.fp = false → ∀ e ∈ act, A.psn e = false) →
      ∃ t, exec i s = .next t ∧ s.xkeeps t ∧ s.pkeeps t ∧ marks t ∧ t.h.regs.v = s.h.regs.v ∧ t.h.q.vstore = s.h.q.vstore ∧
        (∀ r, r ≠ d → isQ r = false → t.h.readX r 0 = s.h.readX r 0) ∧
        (d ≠ 0 → isQ d = false → t.h.readX d 0 = wide y) ∧
        (isQ d = true → (t.h.q.toA[qNo d]).items = (s.h.q.toA[qNo d]).items ++ [wide y])
    (v.fp = true ∨ v.isInt = true) →
    gives (.vredsum d a pg m) (sum act) ∧
    gives (.vredtree d a pg m) ((treeFrom add (fun e => if on e then some (x e) else none) depth 0).getD 0) ∧
    (∀ mx : Bool, gives (if mx then .vredmax d a pg else .vredmin d a pg)
      (match act.map x with | [] => none_ mx | y :: ys => ys.foldl (best mx) y)) ∧
    (s.vready (.vscan d a pg m) [.v a] none (some d) v →
      ∃ t, exec (.vscan d a pg m) s = .next t ∧ s.vwrites t v d on on (fun e =>
          let upTo := act.filter (fun y => decide (y ≤ e))
          if v.fp = false ∧ upTo.any A.psn = true then 0 else sum upTo) ∧
        s.pkeeps t ∧ marks t) ∧
    (∀ e, v.isInt = true → act.find? A.psn = some e →
      ∀ i ∈ ([.vredsum d a pg m, .vredtree d a pg m, .vredmax d a pg, .vredmin d a pg] : List Instr),
      s.vready i [.v a] (some d) none v → exec i s = .next (s.takeTrap ⟨0x05, word e, 2⟩ s.seq.pc))

/-- R200 and R207 whole, with their words: the predicate instructions on all 2048 bits, the count and the first of the bits
below VL, and PSM's copy and clearing; a function code of 10 to 127 and a used field that must be zero are illegal with
subcode 0, a scalar destination of 32 to 63 with subcode 3. An uncorrectable error in the read (R205) is left out. -/
def Obligations.PredicateResults : Prop :=
  ∀ (s : State) (d a b : BitVec 6) (r : Reg), s.own.upset = .none → s.unstepped = true → s.own.side = .X →
    let x := s.h.readP a
    let y := s.h.readP b
    let below := (List.range s.h.x.vl).filter (fun e => x.getLsbD e)
    let p := fun (fn : BitVec 7) => decode (0x70#7 ++ d ++ a ++ b ++ fn)
    let illegal := fun (fn : BitVec 7) => ∃ e, p fn = .error e
    (p 0 = .ok (.pand d a b) ∧ p 1 = .ok (.por d a b) ∧ p 2 = .ok (.pxor d a b) ∧ p 3 = .ok (.pandn d a b) ∧
      (b = 0 → p 4 = .ok (.pnot d a) ∧ p 5 = .ok (.pcnt d a) ∧ p 6 = .ok (.pfirst d a) ∧ p 9 = .ok (.pmov d a)) ∧
      (b = 0 → a = 0 → p 7 = .ok (.pset d) ∧ p 8 = .ok (.pclr d)) ∧
      (b ≠ 0 → illegal 4 ∧ illegal 5 ∧ illegal 6 ∧ illegal 9) ∧ (a ≠ 0 ∨ b ≠ 0 → illegal 7 ∧ illegal 8) ∧
      (∀ fn, 10 ≤ fn.toNat → illegal fn)) ∧
    (decode (0x7E#7 ++ r ++ 0#20) = .ok (.psnget r) ∧ decode 0xFC000001 = .ok .psnclr) ∧
    (∀ w e, decode w = .error e → s.own.ir = w → s.canRun s.own.cur s.own.side = true → s.h.calm .X = true →
      exec (.illegalWord w) s = s.illegal 0) ∧
    (32 ≤ d.toNat → exec (.pcnt d a) s = s.illegal 3 ∧ exec (.pfirst d a) s = s.illegal 3) ∧
    (∀ p ∈ ([(.pand d a b, x &&& y), (.por d a b, x ||| y), (.pxor d a b, x ^^^ y), (.pandn d a b, x &&& ~~~y),
        (.pnot d a, ~~~x), (.pset d, BitVec.allOnes 2048), (.pclr d, 0), (.pmov d a, x)] : List (Instr × PReg)),
      exec p.1 s = .next (s.modH (fun h => h.writeP d p.2)).advance) ∧
    (s.ready (.pcnt d a) [] (some (d.setWidth 5)) none →
      exec (.pcnt d a) s = s.wrote [] (d.setWidth 5) (word below.length)) ∧
    (s.ready (.pfirst d a) [] (some (d.setWidth 5)) none →
      exec (.pfirst d a) s = s.wrote [] (d.setWidth 5) (match below with | [] => -1 | e :: _ => word e)) ∧
    exec (.psnget r) s = .next (s.modH (fun h => h.writeP (r.zeroExtend 6) h.regs.psm)).advance ∧
    exec .psnclr s = .next (s.modH (fun h => { h with regs := { h.regs with psm := 0 } })).advance

/-- R201 to R204, R176: with shadow checking on, an active element of VFADD whose shadow gives another sign (both zero
apart), a NaN against a number, or a key more than 1 away raises SHADOW with that element, its lane and the main unit's
result; the elements below it are written, it and those above are not, and VSTART names it. With SHRETIRE the third
divergence of the lane within 2^20 tk retires it: LANEMAP gains the lane, STICKY.LANE is set and the report says RETIRED,
and on a core of 16 lanes FATAL, whose hart is stopped for good and whose core leaves service; else the handler is entered.
That a lane's third divergence is judged by its last two before it is the model's choice (log 2). -/
def Obligations.ShadowDivergence : Prop :=
  ∀ (s : State) (v : VType) (d a b : Reg) (fm : BKind) (pg : BitVec 3) (m : RM) (e y : Nat),
    let i := Instr.vfadd d a b fm pg m
    let fs : List Fld := .v a :: bFld fm b
    let f := v.fmt
    let A := s.vop fs 0 v.lmul v.w (some f)
    let B := s.bop v fs 1 fm b (some f)
    let on := s.vactive v pg
    let bad := fun e => A.psn e || B.psn e
    let r := fun e => (if bad e then f.poison else (f.add (v.vectorRm m) (A.val e) (B.val e)).1) % 2 ^ v.w
    let key := fun x => x % 2 ^ f.mag * 256 / 2 ^ f.fb
    let minus := fun x => decide (x / 2 ^ f.mag % 2 = 1)
    let zero := fun x => decide (x % 2 ^ f.mag = 0)
    let diverges := (minus (r e) ≠ minus y ∧ ¬(zero (r e) = true ∧ zero y = true)) ∨ (f.dec (r e)).isNan ≠ (f.dec y).isNan ∨
      key y + 1 < key (r e) ∨ key (r e) + 1 < key y
    let n := s.coreOf s.own.cur
    let c := s.coreNo n
    let lane := c.laneOf v.w e
    let times := (c.div.filter (fun p => p.1 = lane)).map (·.2)
    let third := decide (2 ≤ times.length) && times.all (fun x => decide (s.now ≤ x + 2 ^ 20))
    let retire := third && s.h.tr.shRetire
    let fatal := retire && decide (c.lanes = 16)
    s.ready i fs none (some d) → s.own.side = .X → s.vt = some v → s.h.x.vstart = 0 → isQ d = false → s.own.cut = none →
    s.h.tr.shEn = true → s.own.upset = .shadow e y → on e = true → s.h.tr.smode = false →
    (¬diverges → ∃ t, exec i s = .next t ∧ s.vwrites t v d on on r) ∧
    (diverges → ∃ t, exec i s = .next t ∧ t.h.tr.code = 0x06 ∧ t.h.tr.causeX = true ∧ t.h.tr.xepc = s.seq.pc ∧
      t.h.tr.tval = word (e + lane * 2 ^ 16 + (if retire then 2 ^ 24 else 0) + (if fatal then 2 ^ 25 else 0)) ∧
      t.h.tr.tval2 = word (r e) ∧ t.h.x.vstart = e ∧
      (fatal = false → t.h.tr.smode = true ∧ t.h.a.pc = s.h.tr.tvec) ∧
      (fatal = true → t.h.tr.smode = false ∧ t.h.x.stop = some .inside ∧ (t.caravan s.own.cur).st = .saving ∧
        (t.coreNo n).st = .drained ∧ (t.coreNo n).full = true) ∧
      (t.coreNo n).lanemap = (if retire then c.lanemap ||| (1#32 <<< lane) else c.lanemap) ∧
      t.h.csr.sticky = (if retire then s.h.csr.sticky ||| 4 else s.h.csr.sticky) ∧
      (retire = true → fatal = false → c.st = .nominal → (t.coreNo n).lanes ≤ 28 → (t.coreNo n).st = .drained) ∧
      (∀ j < v.lmul * perReg v.w, vGet (t.h.vGroup d v.lmul) v.w j =
        if on j = true ∧ j < e then r j else vGet (s.h.vGroup d v.lmul) v.w j))

/-! ### Planes, MX, optimiser steps -/

/-- R223 to R225: VPSPLIT, VPJOIN, VPTRUNC and VPRND on the active elements, at the family's width whatever VT's kind
and SEW; VPRND alone sets flags; a poisoned operand gives the family's poison NaN, or its plane.
R215: rounding on plane k leaves an infinity and a NaN, adds one unit of the last kept plane when the top bit of plane k
is set, keeps the sign, gives infinity at a carry out of the largest finite magnitude, and so is nearest with ties away. -/
def Obligations.PlaneResults : Prop :=
  (∀ (f : Fam) (k : Nat) (x : Nat), 1 ≤ k → k ≤ (match f with | .e8 => 2 | .e11 => 3) → x < 2 ^ f.width →
    let fmt := famFmt f
    let u := 2 ^ f.lo (k - 1)
    let z := x / u * u
    let g := x / 2 ^ f.lo k % 2 ^ f.planeWidth k
    let top := 2 ^ (f.width - 1)
    let r := roundPlane f k z g
    let up := g / 2 ^ (f.planeWidth k - 1) % 2
    (z % top / 2 ^ fmt.fb = 2 ^ fmt.eb - 1 → r = z) ∧
    (z % top / 2 ^ fmt.fb ≠ 2 ^ fmt.eb - 1 →
      r = z / top * top + (z % top + up * u) ∧ z % top + up * u ≤ fmt.infCode ∧ 2 * r ≤ 2 * x + u ∧ 2 * x < 2 * r + u)) ∧
  ∀ (s : State) (v : VType) (d a : Reg) (pg : BitVec 3) (f : Fam) (n : BitVec 2),
    let fmt := famFmt f
    let u := planeVt f v
    let on := s.vactive u pg
    let wp := f.planeWidth n.toNat
    let c := n.toNat + 1
    let lo := f.lo n.toNat
    let pk := fun (x : Nat) => x / 2 ^ lo % 2 ^ wp
    let tidy := fun (x : Nat) => if (fmt.dec x).isPsn then fmt.poison else if (fmt.dec x).isNan then fmt.nan else x
    let cut := fun (x : Nat) => tidy x / 2 ^ lo * 2 ^ lo
    let A := s.vop [.v a] 0 v.lmul f.width (some fmt)
    let J := s.vop [.v a, .v d] 0 (sideGroup v.lmul wp f.width) wp none
    let D := s.vop [.v a, .v d] 1 v.lmul f.width (some fmt)
    (s.vready (.vpsplit d a pg f n) [.v a] none (some d) v →
      ∃ t, exec (.vpsplit d a pg f n) s = .next t ∧ s.pkeeps t ∧ s.vmarks t on A.psn (fun _ => 0) ∧
        s.vputs t d (sideGroup v.lmul wp f.width) wp on on (fun e => if A.psn e then pk fmt.poison else pk (tidy (A.val e)))
          (fun e => on e && A.psn e)) ∧
    (s.vready (.vpjoin d a pg f n) [.v a, .v d] none (some d) v →
      let bad := fun e => J.psn e || D.psn e
      let r := fun e => if bad e then fmt.poison else D.val e - pk (D.val e) * 2 ^ lo + J.val e % 2 ^ wp * 2 ^ lo
      ∃ t, exec (.vpjoin d a pg f n) s = .next t ∧ s.pkeeps t ∧ s.vmarks t on bad (fun _ => 0) ∧
        s.vputs t d v.lmul f.width on on r (fun e => on e && (bad e || (fmt.dec (r e)).isPsn))) ∧
    (s.vready (.vptrunc d a pg f n) [.v a] none (some d) v →
      ∃ t, exec (.vptrunc d a pg f n) s = .next t ∧ s.pkeeps t ∧ s.vmarks t on A.psn (fun _ => 0) ∧
        s.vputs t d v.lmul f.width on on (fun e => if A.psn e then fmt.poison else cut (A.val e))
          (fun e => on e && (A.psn e || (fmt.dec (cut (A.val e))).isPsn))) ∧
    (s.vready (.vprnd d a pg f n) [.v a] none (some d) v →
      let ends := fun (x : Nat) => match fmt.dec x with | .fin .. => false | _ => true
      let r := fun e => roundPlane f c (cut (A.val e)) (tidy (A.val e) / 2 ^ f.lo c % 2 ^ f.planeWidth c)
      ∃ t, exec (.vprnd d a pg f n) s = .next t ∧ s.pkeeps t ∧
        s.vputs t d v.lmul f.width on on (fun e => if A.psn e then fmt.poison else r e)
          (fun e => on e && (A.psn e || (fmt.dec (r e)).isPsn)) ∧
        s.vmarks t on A.psn (fun e => if A.psn e then 0 else
          (if tidy (A.val e) % 2 ^ lo ≠ 0 ∧ ends (A.val e) = false then 1 else 0) |||
          (if ends (A.val e) = false ∧ ends (r e) = true then 5 else 0)))

/-- R229, R230: VQMX writes the code of every active element and the scale byte of every block that has one, and leaves
the other codes and bytes; the scale exponent is the least s with 2^s at least a sixth of the largest magnitude, held to
−127 to 127, and 0 for a block of zeros; VDQMX expands codes by their scales. -/
def Obligations.BlockFormatResults : Prop :=
  (∀ (m : Nat) (e : Int) (s : Int),
    (mxScale (.fin false 0 e) = 0) ∧
    (0 < m → mxScale (.fin false m e) = s →
      let big := fun (k : Int) => if 0 ≤ k - e then m ≤ 6 * 2 ^ (k - e).toNat else m * 2 ^ (e - k).toNat ≤ 6
      s ≤ 127 ∧ -127 ≤ s ∧ (s < 127 → big s) ∧ (-127 < s → ¬big (s - 1)))) ∧
  (∀ (s : State) (v : VType) (d a b : Reg) (pg : BitVec 3),
    let A := s.vop [.v a] 0 v.lmul v.w (some v.fmt)
    let on := s.vactive v pg
    let x := fun e => v.fmt.dec (A.val e)
    let blk := fun (k : Nat) => (List.range' (32 * k) 32).filter on
    let nan := fun k => (blk k).any (fun e => A.psn e || (x e).special)
    let top := fun k => (blk k).foldl (fun m e => if m.lt (x e).abs then (x e).abs else m) (.fin false 0 0)
    let sc := fun k => mxScale (top k)
    let C := s.vop [.v a, .v b] 0 1 4 none
    let S := s.vop [.v a, .v b] 1 1 8 none
    let bad := fun e => C.psn e || S.psn (e / 32)
    let y := fun e => if bad e then (v.psn, 0) else if S.val (e / 32) = 0xFF then (v.fmt.nan, 0) else
      match fmtE2M1.dec (C.val e) with
      | .fin sg m q => v.fmt.round v.rm sg m (q + (S.val (e / 32) : Int) - 127)
      | _ => (v.fmt.nan, 0)
    (s.vready (.vqmx d a pg) [.v a] none none v →
      ∃ t, exec (.vqmx d a pg) s = .next t ∧ s.xkeeps t ∧ s.pkeeps t ∧ t.h.regs.x = s.h.regs.x ∧
        t.h.csr = { s.h.csr with fflags := t.h.csr.fflags } ∧ t.h.q.vstore = s.h.q.vstore ∧
        (∀ e < 2048, vGet (t.h.vGroup d 1) 4 e = if on e then (if nan (e / 32) then 0 else (mxCode v.rm (sc (e / 32)) (x e)).1)
          else vGet (s.h.vGroup d 1) 4 e) ∧
        (∀ k < 1024, vGet (t.h.vGroup (d + 1) 1) 8 k = if k < 64 ∧ blk k ≠ [] then (if nan k then 0xFF else (sc k + 127).toNat)
          else vGet (s.h.vGroup (d + 1) 1) 8 k) ∧
        (∀ r < 28, r ≠ d.toNat → r ≠ d.toNat + 1 → t.h.regs.v.toList[r]? = s.h.regs.v.toList[r]?)) ∧
    (s.vready (.vdqmx d a b pg) [.v a, .v b] none (some d) v →
      ∃ t, exec (.vdqmx d a b pg) s = .next t ∧ s.pkeeps t ∧ s.vwrites t v d on on (fun e => (y e).1) ∧
        s.vmarks t on bad (fun e => (y e).2)))

/-- R231 to R235: VPACC adds its narrow update to the wide element and marks where plane 0 changed; VADAMW and VSGDM
take one step of their pseudocode on each active element, every operation rounded once to nearest in the element type,
the flags of all of them kept.
That a poisoned element sets NV for a signalling NaN beside it, and that 1 − β is rounded once, are the model's choices
(logs 56 and 61). -/
def Obligations.OptimiserResults : Prop :=
  (∀ (f : FFmt) (p : OptParams) (w g m v : Nat),
    let mul := fun x y => f.mul .rne x y
    let fused := fun x y z => f.fmaV .rne false (f.dec x) (f.dec y) (f.dec z)
    let less := fun x y z => f.fmaV .rne true (f.dec x) (f.dec y) (f.dec z)
    let og := mul p.omb1 g
    let m1 := fused p.b1 m og.1
    let gg := mul g g
    let ogg := mul p.omb2 gg.1
    let v1 := fused p.b2 v ogg.1
    let mh := mul m1.1 p.c1
    let vh := mul v1.1 p.c2
    let root := f.sqrt .rne vh.1
    let den := f.add .rne root.1 p.eps
    let q := if den.1 = 0 then (0, 0) else f.div .rne mh.1 den.1
    let u := fused p.wd w q.1
    let w1 := less p.lr u.1 w
    let g1 := fused p.wd w g
    let q1 := fused p.b1 m g1.1
    let w2 := less p.lr q1.1 w
    adamw f p w g m v = ((w1.1, m1.1, v1.1),
      [og, m1, gg, ogg, v1, mh, vh, root, den, q, u, w1].foldl (fun fl x => fl ||| x.2) 0) ∧
    sgdm f p w g m = ((w2.1, q1.1), [g1, q1, w2].foldl (fun fl x => fl ||| x.2) 0)) ∧
  (∀ (c : Csrs) (f : FFmt),
    let of64 := fun (x : Word) => (fmt64.cvt f .rne x.toNat).1
    let of32 := fun (x : Nat) => (fmt32.cvt f .rne x).1
    let p := c.opt f
    p.lr = of64 c.optlr ∧ p.b1 = of64 c.optb1 ∧ p.b2 = of64 c.optb2 ∧ p.eps = of64 c.opteps ∧ p.wd = of64 c.optwd ∧
    p.c1 = of32 (c.optbc.extractLsb' 32 32).toNat ∧ p.c2 = of32 (c.optbc.extractLsb' 0 32).toNat ∧
    (∀ s m e, f.dec p.b1 = .fin s m e → p.omb1 = (f.addV .rne (.fin false 1 0) (.fin (!s) m e)).1) ∧
    (∀ s m e, f.dec p.b2 = .fin s m e → p.omb2 = (f.addV .rne (.fin false 1 0) (.fin (!s) m e)).1)) ∧
  ∀ (s : State) (v : VType) (d a b : Reg) (pg : BitVec 3) (n : BitVec 5),
    let on := s.vactive v pg
    let f := v.fmt
    let two : List Fld := [.v a, .v d]
    let U := s.vop two 0 (max 1 (v.lmul / 2)) (v.w / 2) (some (accFmt v.w))
    let D := s.vop two 1 v.lmul v.w (some f)
    let hi := fun (x : Nat) => x / 2 ^ (v.w - 16) % 2 ^ 16
    let bad2 := fun e => U.psn e || D.psn e
    let sNan := fun (g : FFmt) (x : Opnd) e => !x.psn e && (g.dec (x.val e)).isSnan
    let sum := fun e => if bad2 e then (v.psn, if sNan (accFmt v.w) U e || sNan f D e then 16 else 0) else f.addV v.rm (f.dec (D.val e)) ((accFmt v.w).dec (U.val e))
    let aw : List Fld := [.v a, .v b, .v d, .v (b + 1)]
    let sg : List Fld := [.v a, .v b, .v d]
    let o := fun fs i => s.vop fs i 1 v.w (some f)
    let old := fun (r : Reg) e => vGet (s.h.vGroup r 1) v.w e
    let p := s.h.csr.opt f
    let badW := fun e => (o aw 0).psn e || (o aw 1).psn e || (o aw 2).psn e || (o aw 3).psn e
    let W := fun e => if badW e then (v.psn, v.psn, v.psn) else (adamw f p ((o aw 2).val e) ((o aw 0).val e) ((o aw 1).val e) ((o aw 3).val e)).1
    let flW := fun e => if badW e then (if (List.range 4).any (fun i => sNan f (o aw i) e) then 16 else 0)
      else (adamw f p ((o aw 2).val e) ((o aw 0).val e) ((o aw 1).val e) ((o aw 3).val e)).2
    let badG := fun e => (o sg 0).psn e || (o sg 1).psn e || (o sg 2).psn e
    let G := fun e => if badG e then (v.psn, v.psn) else (sgdm f p ((o sg 2).val e) ((o sg 0).val e) ((o sg 1).val e)).1
    let flG := fun e => if badG e then (if (List.range 3).any (fun i => sNan f (o sg i) e) then 16 else 0)
      else (sgdm f p ((o sg 2).val e) ((o sg 0).val e) ((o sg 1).val e)).2
    (s.vready (.vpacc d a pg n) two none (some d) v →
      ∃ t, exec (.vpacc d a pg n) s = .next t ∧ s.vwrites t v d on on (fun e => (sum e).1) ∧
        s.vmarks t on bad2 (fun e => (sum e).2) ∧
        (n ≠ 0 → ∀ e < 2048, (t.h.readP (n.zeroExtend 6)).getLsbD e =
          if on e then decide (hi (sum e).1 ≠ hi (D.val e)) else (s.h.readP (n.zeroExtend 6)).getLsbD e) ∧
        (∀ r, r ≠ n.zeroExtend 6 → t.h.readP r = s.h.readP r)) ∧
    (s.vready (.vadamw d a b pg) aw none (some d) v →
      ∃ t, exec (.vadamw d a b pg) s = .next t ∧ s.xkeeps t ∧ s.pkeeps t ∧ t.h.regs.x = s.h.regs.x ∧
        s.vmarks t on badW flW ∧
        (∀ r < 28, r ≠ d.toNat → r ≠ b.toNat → r ≠ b.toNat + 1 → t.h.regs.v.toList[r]? = s.h.regs.v.toList[r]?) ∧
        ∀ e < perReg v.w, vGet (t.h.vGroup b 1) v.w e = (if on e then (W e).2.1 % 2 ^ v.w else old b e) ∧
          vGet (t.h.vGroup (b + 1) 1) v.w e = (if on e then (W e).2.2 % 2 ^ v.w else old (b + 1) e) ∧
          (isQ d = true → s.vpushed t d v.w on on (fun e => (W e).1) (v.psnBit t on (fun e => (W e).1))) ∧
          (isQ d = false → d ≠ b → d ≠ b + 1 →
            vGet (t.h.vGroup d 1) v.w e = if on e then (W e).1 % 2 ^ v.w else old d e)) ∧
    (s.vready (.vsgdm d a b pg) sg none (some d) v →
      ∃ t, exec (.vsgdm d a b pg) s = .next t ∧ s.xkeeps t ∧ s.pkeeps t ∧ t.h.regs.x = s.h.regs.x ∧
        s.vmarks t on badG flG ∧
        (∀ r < 28, r ≠ d.toNat → r ≠ b.toNat → t.h.regs.v.toList[r]? = s.h.regs.v.toList[r]?) ∧
        ∀ e < perReg v.w, vGet (t.h.vGroup b 1) v.w e = (if on e then (G e).2 % 2 ^ v.w else old b e) ∧
          (isQ d = true → s.vpushed t d v.w on on (fun e => (G e).1) (v.psnBit t on (fun e => (G e).1))) ∧
          (isQ d = false → d ≠ b → vGet (t.h.vGroup d 1) v.w e = if on e then (G e).1 % 2 ^ v.w else old d e))

/-! ### Matrices -/

/-- R241, R245: the sum of a step is exact: the signed dyadic that is rounded equals the sum of the finite terms; a
NaN term, or infinities of both signs, give the canonical NaN, the latter with NV whatever stands beside them; infinities
of one sign give that infinity; a sum of zero is +0 unless every term is −0. For the last R248 says otherwise, and the model
follows R245 (log 89). -/
def Obligations.StepSums : Prop :=
  ∀ ts : List FVal,
    let sum := fun (lo : Int) => ts.foldl (fun (a : Int) x => match x with
      | .fin sg m e => a + (if sg then -1 else 1) * ((m * 2 ^ (e - lo).toNat : Nat) : Int)
      | _ => a) 0
    (∀ lo : Int, (∀ sg m e, FVal.fin sg m e ∈ ts → lo ≤ e) → lo ≤ (exactSum ts).2.2 ∨ (exactSum ts).2.1 = 0 →
      (if (exactSum ts).1 then -1 else 1) * (((exactSum ts).2.1 * 2 ^ ((exactSum ts).2.2 - lo).toNat : Nat) : Int) = sum lo) ∧
    ((∀ x ∈ ts, ∃ sg m e, x = .fin sg m e) →
      stepSum fmt32 ts = if (exactSum ts).2.1 = 0 then (if ∀ x ∈ ts, x.negZero = true then 0x80000000 else 0, 0)
        else fmt32.round .rne (exactSum ts).1 (exactSum ts).2.1 (exactSum ts).2.2) ∧
    ((∃ x ∈ ts, x.isNan = true) → ¬(.inf false ∈ ts ∧ .inf true ∈ ts) → stepSum fmt32 ts = (0x7FC00000, 0)) ∧
    (.inf false ∈ ts → .inf true ∈ ts → stepSum fmt32 ts = (0x7FC00000, 16)) ∧
    ((∀ x ∈ ts, x.isNan = false) → .inf false ∈ ts → .inf true ∉ ts → stepSum fmt32 ts = (0x7F800000, 0)) ∧
    ((∀ x ∈ ts, x.isNan = false) → .inf false ∉ ts → .inf true ∈ ts → stepSum fmt32 ts = (0xFF800000, 0))

/-- R236, R237, R241 to R247: MMA with 16-, 8- and 4-bit inputs: each element of an active row is the old one with the
exact sums of its products, eight at a time, each rounded once; a poisoned row, column or element gives the poison NaN;
the other rows keep theirs. With binary64 inputs it is a chain of fused multiply-adds in rising k; MMAP runs its three
passes over the bfloat16 parts of its binary32 elements. -/
def Obligations.MatrixResults : Prop :=
  (∀ (s : State) (c a b : Reg) (pg : BitVec 3) (ty : MTy),
    let i := Instr.mma c a b pg ty
    let fa := (mtyShape ty).1
    let fb := (mtyShape ty).2.1
    let K := (mtyShape ty).2.2
    let mx := ty = .e2m1
    let fs := mmaFlds a b c (ty == .e2m1)
    let A := s.vop fs 0 1 fa.width (psnFmt fa)
    let B := s.vop fs 1 8 fb.width (psnFmt fb)
    let C := s.vop fs 2 2 32 (some fmt32)
    let S := s.vop fs 3 1 8 none
    ty ≠ .f64 → s.ready i [.v a] none none → s.own.side = .X → s.own.upset = .none →
    ∃ t, exec i s = .next t ∧ s.xkeeps t ∧ s.pkeeps t ∧ t.h.regs.x = s.h.regs.x ∧
        t.h.csr = { s.h.csr with fflags := t.h.csr.fflags } ∧ t.h.q.vstore = s.h.q.vstore ∧
      (∀ r < 28, r ≠ c.toNat → r ≠ c.toNat + 1 → t.h.regs.v.toList[r]? = s.h.regs.v.toList[r]?) ∧
      ∀ x < 8, ∀ n < 64,
        let prod := fun k => (prodX (fa.dec (A.val (K * x + k))) (fb.dec (B.val (64 * k + n)))
          (if mx then mxShift (S.val (8 * x + k / 32)) (S.val (64 + 64 * (k / 32) + n)) else some 0)).1
        let step := fun (acc g : Nat) => (stepSum fmt32 (fmt32.dec acc :: (List.range 8).map (fun j => prod (8 * g + j)))).1
        let bad := (∃ k < K, A.psn (K * x + k) = true ∨ B.psn (64 * k + n) = true) ∨ C.psn (64 * x + n) = true ∨
          (mx ∧ ∃ j < 8, S.psn (8 * x + j) = true ∨ S.psn (64 + 64 * j + n) = true)
        ((s.h.guard pg).getLsbD x = false → vGet (t.h.vGroup c 2) 32 (64 * x + n) = vGet (s.h.vGroup c 2) 32 (64 * x + n)) ∧
        ((s.h.guard pg).getLsbD x = true → bad → vGet (t.h.vGroup c 2) 32 (64 * x + n) = 0x7FE00000) ∧
        ((s.h.guard pg).getLsbD x = true → ¬bad →
          vGet (t.h.vGroup c 2) 32 (64 * x + n) = (List.range (K / 8)).foldl step (C.val (64 * x + n)) % 2 ^ 32)) ∧
  (∀ (s : State) (c a b : Reg) (pg : BitVec 3),
    let fs := mmaFlds a b c false
    let A := s.vop fs 0 1 64 (some fmt64)
    let B := s.vop fs 1 8 64 (some fmt64)
    let C := s.vop fs 2 1 64 (some fmt64)
    let a4 := s.vop fs 0 1 32 (some fmt32)
    let b4 := s.vop fs 1 8 32 (some fmt32)
    let c4 := s.vop fs 2 2 32 (some fmt32)
    s.own.side = .X → s.own.upset = .none →
    (s.ready (.mma c a b pg .f64) [.v a] none none →
      ∃ t, exec (.mma c a b pg .f64) s = .next t ∧ s.xkeeps t ∧ s.pkeeps t ∧ t.h.regs.x = s.h.regs.x ∧
        t.h.csr = { s.h.csr with fflags := t.h.csr.fflags } ∧ t.h.q.vstore = s.h.q.vstore ∧
        ∀ x < 4, ∀ n < 32,
          let step := fun (acc k : Nat) => (fmt64.fmaV .rne false (fmt64.dec (A.val (32 * x + k))) (fmt64.dec (B.val (32 * k + n))) (fmt64.dec acc)).1
          let bad := (∃ k < 32, A.psn (32 * x + k) = true ∨ B.psn (32 * k + n) = true) ∨ C.psn (32 * x + n) = true
          ((s.h.guard pg).getLsbD x = false → vGet (t.h.vGroup c 1) 64 (32 * x + n) = vGet (s.h.vGroup c 1) 64 (32 * x + n)) ∧
          ((s.h.guard pg).getLsbD x = true → bad → vGet (t.h.vGroup c 1) 64 (32 * x + n) = 0x7FFC000000000000) ∧
          ((s.h.guard pg).getLsbD x = true → ¬bad →
            vGet (t.h.vGroup c 1) 64 (32 * x + n) = ((List.range 32).foldl step (C.val (32 * x + n))) % 2 ^ 64)) ∧
    (s.ready (.mmap c a b pg) [.v a] none none →
      ∃ t, exec (.mmap c a b pg) s = .next t ∧ s.xkeeps t ∧ s.pkeeps t ∧ t.h.regs.x = s.h.regs.x ∧
        t.h.csr = { s.h.csr with fflags := t.h.csr.fflags } ∧ t.h.q.vstore = s.h.q.vstore ∧
        ∀ x < 8, ∀ n < 64,
          let pass := fun (u w : Nat → FVal) (acc g : Nat) => (stepSum fmt32 (fmt32.dec acc :: (List.range 8).map (fun j =>
            (prodX (u (a4.val (32 * x + (8 * g + j)))) (w (b4.val (64 * (8 * g + j) + n))) (some 0)).1))).1
          let run := fun (u w : Nat → FVal) (acc : Nat) => (List.range 4).foldl (pass u w) acc
          let bad := (∃ k < 32, a4.psn (32 * x + k) = true ∨ b4.psn (64 * k + n) = true) ∨ c4.psn (64 * x + n) = true
          ((s.h.guard pg).getLsbD x = false → vGet (t.h.vGroup c 2) 32 (64 * x + n) = vGet (s.h.vGroup c 2) 32 (64 * x + n)) ∧
          ((s.h.guard pg).getLsbD x = true → bad → vGet (t.h.vGroup c 2) 32 (64 * x + n) = 0x7FE00000) ∧
          ((s.h.guard pg).getLsbD x = true → ¬bad → vGet (t.h.vGroup c 2) 32 (64 * x + n) =
            (run splitLo splitHi (run splitHi splitLo (run splitHi splitHi (c4.val (64 * x + n))))) % 2 ^ 32)))

/-- R249 whole, with its words: MMAZ clears the C registers of its type and nothing else. R250: MTRANS transposes a 64 by
64 tile of 16-bit elements, reading all of it first. -/
def Obligations.TileMoves : Prop :=
  (∀ (c : Reg) (ab : BitVec 10) (pg : BitVec 3) (ty : BitVec 5),
    let w : BitVec 32 := 0x76#7 ++ c ++ ab ++ 0#2 ++ pg ++ ty
    (ab = 0 → pg = 0 → ty = 0x09 → decode w = .ok (.mmaz c .f32)) ∧
    (ab = 0 → pg = 0 → ty = 0x08 → decode w = .ok (.mmaz c .f64)) ∧
    (ab ≠ 0 ∨ pg ≠ 0 ∨ (ty ≠ 0x09 ∧ ty ≠ 0x08) → (∃ e, decode w = .error e) ∧
      ∀ s : State, s.own.ir = w → s.canRun s.own.cur s.own.side = true → s.h.calm s.own.side = true →
        exec (.illegalWord w) s = s.illegal 0)) ∧
  ∀ (s : State) (c b : Reg) (z : ZTy) (ty : TTy), s.own.side = .X → s.own.upset = .none →
    (27 < c.toNat + (match z with | .f32 => 1 | .f64 => 0) → exec (.mmaz c z) s = s.illegal 3) ∧
    (s.ready (.mmaz c z) [] none none →
      ∃ t, exec (.mmaz c z) s = .next t ∧ s.xkeeps t ∧ s.pkeeps t ∧ t.h.regs.x = s.h.regs.x ∧ t.h.q = s.h.q ∧
        t.h.regs.psm = s.h.regs.psm ∧ t.h.csr = s.h.csr ∧ t.h.vGroup c 1 = [0] ∧ (z = .f32 → t.h.vGroup c 2 = [0, 0]) ∧
        (∀ r < 28, r ≠ c.toNat → ¬(z = .f32 ∧ r = c.toNat + 1) → t.h.regs.v.toList[r]? = s.h.regs.v.toList[r]?)) ∧
    (s.ready (.mtrans c b ty) [] none none →
      ∃ t, exec (.mtrans c b ty) s = .next t ∧ s.xkeeps t ∧ s.pkeeps t ∧ t.h.regs.x = s.h.regs.x ∧ t.h.q = s.h.q ∧
        t.h.regs.psm = s.h.regs.psm ∧ t.h.csr = s.h.csr ∧
        (∀ r < 64, ∀ q < 64, vGet (t.h.vGroup c 8) 16 (64 * q + r) = vGet (s.h.vGroup b 8) 16 (64 * r + q)) ∧
        (∀ r < 28, r < c.toNat ∨ c.toNat + 8 ≤ r → t.h.regs.v.toList[r]? = s.h.regs.v.toList[r]?))

/-! ### Copies -/

/-- R261, R264 to R267: CPY with a checked block and a free record gives the copy the next SEQ, leaves its handle in d
and its record QUEUED behind a chain predecessor that still runs, else MOVING, unless it has ended at once; with its
record's command still running it waits; a block off a 64-byte boundary raises ENGINE with subcode 2. The hypothesis on
SEQ says that the number it gives names no live record.
It rests on log 33, and its waits on the record of log 8. -/
def Obligations.CopyAcceptance : Prop :=
  ∀ (s : State) (d a : Reg),
    let i := Instr.cpy d a
    let k := s.own.cur
    let g := s.h.readA a
    let no := if s.h.eng.lastSeq = 0xFFFFFFFF then 0x40 else s.h.eng.lastSeq + 1
    s.illegalSub i = none → s.unstepped = true → winClass s k g ≤ 2 →
    (∀ l, checkRange s k g 64 needRW = .ok l → g.toNat % 64 ≠ 0 → exec i s = .next (s.takeTrap ⟨0x12, g, 2⟩ s.seq.pc)) ∧
    (∀ p, checkElem s k g 64 needRW 0 = .ok p →
      let n := bytesNat (memBytes s.mem p.key 64)
      let b := CopyBlock.ofNat n
      (∀ r, kvGet s.h.eng.recs (no % 64) = some r → r.over = false → s.seq.wait = none →
        exec i s = .next (s.setSeq { s.seq with wait := some { instr := i, queue := none, since := s.now, limit := some s.h.qwaitOf, line := none } })) ∧
      ((∀ r, kvGet s.h.eng.recs (no % 64) = some r → r.over = true) → s.h.mem.pend = [] →
        (∀ t, s.copyCheck k g n b = .error t → exec i s = .next (s.takeTrap t s.seq.pc)) ∧
        (∀ pred, s.copyCheck k g n b = .ok pred → (∀ q ∈ s.h.eng.recs, q.2.seq ≠ no) →
          ∃ t r, exec i s = .next t ∧ t.cmd (.hart k no) = some r ∧ r.cpyNo = s.h.eng.cpys + 1 ∧
            t.h.eng.lastSeq = no ∧ t.h.eng.cpys = s.h.eng.cpys + 1 ∧ t.seq.pc = s.advance.seq.pc ∧
            (d ≠ 0 → t.h.readA d = word (k.slot * 2 ^ 40 + k.idx * 2 ^ 38 + no)) ∧
            (∀ q, q ≠ d → t.h.readA q = s.h.readA q) ∧
            (r.unbooked = true → t.h.csr.sticky.getLsbD 3 = true) ∧
            (r.over = false → t.mem = s.mem ∧
              r.st = (match pred with | some x => if x.over then .moving else .queued | none => .moving)))))

/-- R265, R270 to R272: what DUE, CPYST, WAITD and WAITH make of a handle that is not the hart's, of one whose record has
expired, and of a record; OVERDUE reports the bytes of a copy that have not landed, and cause 6 for one without a booking.
It rests on logs 32 and 34, and its waits on the record of log 8. -/
def Obligations.HandleResults : Prop :=
  ∀ (s : State) (d a b : Reg), s.own.side = .A → s.unstepped = true →
    let v := s.h.readA a
    let n := (v.extractLsb' 0 32).toNat
    let own := v.extractLsb' 48 16 = 0 ∧ v.extractLsb' 32 6 = 0 ∧ (v.extractLsb' 40 8).toNat = s.own.cur.slot ∧
      (v.extractLsb' 38 2).toNat = s.own.cur.idx ∧ n ≠ 0 ∧ (s.h.eng.wrapped = true ∨ n ≤ s.h.eng.lastSeq)
    let gives := fun (i : Instr) (x : Word) => exec i s = .next (s.modH (fun h => h.writeA d x)).advance
    let raises := fun (i : Instr) (t : Trap) => exec i s = .next (s.takeTrap t s.seq.pc)
    let waits := fun (i : Instr) (l : Option Nat) => exec i s =
      .next (s.setSeq { s.seq with wait := some { instr := i, queue := none, since := s.now, limit := l, line := none } })
    (¬own → ∀ i ∈ ([.due d a, .cpyst d a, .waitd a, .waith a b] : List Instr), raises i ⟨0x12, v, 1⟩) ∧
    (own → s.cmd (.hart s.own.cur n) = none → gives (.due d a) 0 ∧ gives (.cpyst d a) (word (7 * 2 ^ 37)) ∧
      exec (.waitd a) s = .next s.advance ∧ exec (.waith a b) s = .next s.advance) ∧
    (own → ∀ r, s.cmd (.hart s.own.cur n) = some r →
      let state := match r.st with | .queued => 0 | .moving => 1 | .done => 2 | .failed => 3
      gives (.due d a) (word r.due) ∧
      gives (.cpyst d a) (word ((if r.over then r.status else 0) * 2 ^ 40 + state * 2 ^ 37 + (if r.unbooked then 2 ^ 36 else 0) +
        (if r.poisoned then 2 ^ 35 else 0) + (if r.late then 2 ^ 34 else 0) + r.sumNow.toNat)) ∧
      (r.st = .done → exec (.waith a b) s = .next s.advance) ∧
      (r.st = .failed → (∀ j, r.job = .copy j → r.status ≠ 1) → raises (.waith a b) ⟨0x12, v, word (4 + 256 * r.status)⟩) ∧
      (r.st = .failed → r.status = 1 → ∀ j, r.job = .copy j →
        raises (.waith a b) ⟨0x0C, v, word (j.blk.want.toNat * 2 ^ 32 + r.result.toNat)⟩) ∧
      (r.over = false → s.seq.wait = none →
        waits (.waith a b) (some (if b = 0 then s.h.qwaitOf else (s.h.readA b).toNat))) ∧
      (r.due ≠ 2 ^ 64 - 1 → r.st = .done → exec (.waitd a) s = .next s.advance) ∧
      (r.due ≠ 2 ^ 64 - 1 → r.over = false → s.now < r.due → s.seq.wait = none → waits (.waitd a) none) ∧
      (r.due = 2 ^ 64 - 1 ∨ (r.over = false ∧ r.due ≤ s.now) → ∃ w, raises (.waitd a) ⟨0x07, v, w⟩ ∧
        (∀ j, r.job = .copy j → (w.extractLsb' 0 32).toNat = min (j.blk.total - (j.rowNo * j.blk.len + j.rowOff)) 0xFFFFFFFF ∧
          (r.unbooked = true → w.extractLsb' 32 32 = 6))))

/-- R278 to R281: ABINIT writes the tag and the wanted bytes of an object of the hart's own scratchpad, clears its count
and makes its two phase bits differ; WAITAB continues when they are equal and inverts the hart's, and waits while they
differ.
Its wait rests on the record of log 8. -/
def Obligations.ArrivedByteObjects : Prop :=
  ∀ (s : State) (d a b : Reg), s.Inv → s.own.side = .A → s.unstepped = true →
    let k := s.own.cur
    let g := s.h.readA a
    let key := keySpad k (gOff g)
    let tag := s.h.readA d
    let want := s.h.readA b
    let x := memGet s.mem (key + 12)
    windowOk s k g 16 = true → winClass s k g = 2 → g.toNat % 16 = 0 → s.quiet →
    (0 < tag.toNat → tag.toNat < 2 ^ 32 → 0 < want.toNat → want.toNat < 2 ^ 32 → s.own.defer = false →
      ∃ t, exec (.abinit d a b) s = .next t ∧ memBytes t.mem key 4 = natBytes tag.toNat 4 ∧
        memBytes t.mem (key + 4) 4 = natBytes want.toNat 4 ∧ memBytes t.mem (key + 8) 4 = natBytes 0 4 ∧
        (memGet t.mem (key + 12)).getLsbD 0 = x.getLsbD 0 ∧ (memGet t.mem (key + 12)).getLsbD 1 = !x.getLsbD 0 ∧
        (∀ o, o < key ∨ key + 16 ≤ o → memGet t.mem o = memGet s.mem o) ∧
        t.h.regs = s.h.regs ∧ t.h.csr = s.h.csr ∧ t.seq.pc = s.advance.seq.pc) ∧
    (tag = 0 ∨ 2 ^ 32 ≤ tag.toNat ∨ want = 0 ∨ 2 ^ 32 ≤ want.toNat →
      exec (.abinit d a b) s = .next (s.takeTrap ⟨0x12, g, 6⟩ s.seq.pc)) ∧
    (s.h.csr.sticky.getLsbD 1 = true → exec (.waitab a b) s = .next (s.takeTrap ⟨0x0B, g, 0⟩ s.seq.pc)) ∧
    (s.h.csr.sticky.getLsbD 1 = false → x.getLsbD 0 = x.getLsbD 1 →
      ∃ t, exec (.waitab a b) s = .next t ∧ memGet t.mem (key + 12) = x ^^^ 2 ∧
        (∀ o, o ≠ key + 12 → memGet t.mem o = memGet s.mem o) ∧
        t.h.regs = s.h.regs ∧ t.h.csr = s.h.csr ∧ t.seq.pc = s.advance.seq.pc) ∧
    (s.h.csr.sticky.getLsbD 1 = false → x.getLsbD 0 ≠ x.getLsbD 1 → s.seq.wait = none →
      exec (.waitab a b) s = .next (s.setSeq { s.seq with wait := some { instr := .waitab a b, queue := none, since := s.now, limit := some (if b = 0 then s.h.qwaitOf else (s.h.readA b).toNat), line := none } }))

/-! ### Barriers, signals, launches -/

/-- R329 and R344 whole, with their words. R325 to R328, R330, R331: BARA arrives, and the last arrival flips PHASE, restores ARRIVED to the ended harts and sets
every event bit; BARW continues when PHASE equals the hart's waiting phase; BARQ reads the barrier; SIGW continues on a
value that is large enough or has FAIL; YIELD completes and is a yield point.
It rests on log 8. -/
def Obligations.BarriersAndSignals : Prop :=
  (decode (0x7C#7 ++ 4#25) = .ok .yield ∧ (∀ d : Reg, decode (0x7C#7 ++ d ++ 2#20) = .ok (.barq d)) ∧
    (∀ x : BitVec 20, x ≠ 0 → ∃ e, decode (0x7C#7 ++ x ++ 4#5) = .error e) ∧
    (∀ (d : Reg) (x : BitVec 15), x ≠ 0 → ∃ e, decode (0x7C#7 ++ d ++ x ++ 2#5) = .error e)) ∧
  ∀ (s : State) (d a b : Reg), s.unstepped = true →
    (exec .yield s = .next (s.setSeq { s.seq.advance with
      stop := if s.h.csr.preq = true ∧ s.h.tr.smode = false then some .yield else s.seq.advance.stop })) ∧
    (s.own.side = .A →
    let k := s.own.cur
    let c := s.caravan k
    let bit := BitVec.ofNat 4 (2 ^ k.idx)
    let mask := BitVec.ofNat 4 (2 ^ c.size - 1)
    let arr := c.arrived ||| bit
    let full := arr &&& mask = mask
    let q := word (c.size * 2 ^ 9 + c.ended.toNat * 2 ^ 5 + (if c.phase then 2 ^ 4 else 0) + c.arrived.toNat)
    let limit := if b = 0 then s.h.qwaitOf else (s.h.readA b).toNat
    let waits := fun (i : Instr) (l : Nat) => exec i s =
      .next (s.setSeq { s.seq with wait := some { instr := i, queue := none, since := s.now, limit := some l, line := none } })
    (c.arrived &&& bit = 0 → s.h.mem.pend = [] → s.h.unfinished = [] →
      ∃ t, exec .bara s = .next t ∧
        t.caravan k = (if full then { c with phase := !c.phase, arrived := c.ended } else { c with arrived := arr }) ∧
        t.h.wph = !c.phase ∧ (full → ∀ j < c.size, (t.hart ⟨k.die, k.slot, j⟩).event = true) ∧
        t.h.regs = s.h.regs ∧ t.h.csr = s.h.csr ∧ t.mem = s.mem ∧ t.seq.pc = s.advance.seq.pc) ∧
    (c.arrived &&& bit ≠ 0 → s.seq.wait = none → waits .bara s.h.qwaitOf) ∧
    (c.phase = s.h.wph → exec (.barw b) s = .next s.advance) ∧
    (c.phase ≠ s.h.wph → s.seq.wait = none → waits (.barw b) limit) ∧
    (exec (.barq d) s = .next (s.modH (fun h => h.writeA d q)).advance) ∧
    (∀ p, s.reaches (s.h.readA a) 8 needR p →
      let x := bytesNat (memBytes s.mem p.key 8)
      (s.psnAt p 8 = true → exec (.sigw d a b) s = .next (s.takeTrap ⟨0x05, s.h.readA a, 0⟩ s.seq.pc)) ∧
      (s.psnAt p 8 = false → x ≥ 2 ^ 63 ∨ x ≥ (s.h.readA d).toNat % 2 ^ 63 →
        exec (.sigw d a b) s = .next (s.modH (fun h => h.writeA d (word x))).advance) ∧
      (s.psnAt p 8 = false → x < 2 ^ 63 → x < (s.h.readA d).toNat % 2 ^ 63 → s.seq.wait = none →
        ∃ l, exec (.sigw d a b) s = .next (s.setSeq { s.seq with wait := some { instr := .sigw d a b, queue := none, since := s.now, limit := some limit, line := l } }))))

/-- R332 to R335: LAUNCH of a valid descriptor that the issuer covers, on a die that takes it, enqueues a READY slice of
the issuer's context and leaves its identifier in d; an invalid field or an uncovered range raises ENGINE, and a full
table makes it wait.
It rests on log 19, and its wait on the record of log 8. -/
def Obligations.LaunchResults : Prop :=
  ∀ (s : State) (d a : Reg) (raw : RawDesc),
    let i := Instr.launch d a
    let k := s.own.cur
    let g := s.h.readA a
    let ds := raw.desc
    let die := if ds.dieV then ds.die else k.die
    let num := (s.disp die).launches + 1
    s.illegalSub i = none → s.unstepped = true → winClass s k g ≠ 6 → s.h.mem.pend = [] → s.readDesc k g = .ok raw →
    (∀ o, raw.bad = some o → exec i s = .next (s.takeTrap ⟨0x12, g, word (3 + 256 * o)⟩ s.seq.pc)) ∧
    (∀ o, raw.bad = none → uncovered s.h (s.sliceOf k).desc ds = some o →
      exec i s = .next (s.takeTrap ⟨0x12, g, word (10 + 256 * o)⟩ s.seq.pc)) ∧
    (raw.bad = none → uncovered s.h (s.sliceOf k).desc ds = none → s.dieTakes die = true →
      ∃ t m sl, exec i s = .next t ∧ kvGet s.slices m = none ∧ kvGet t.slices m = some sl ∧
        sl.st = .ready ∧ sl.num = num ∧ sl.die = die ∧ sl.desc = ds ∧ sl.ctx = (s.sliceOf k).ctx ∧
        (∀ m', m' ≠ m → kvGet t.slices m' = kvGet s.slices m') ∧ (t.disp die).launches = num ∧
        (d ≠ 0 → t.h.readA d = word (die * 2 ^ 46 + num)) ∧ (∀ r, r ≠ d → t.h.readA r = s.h.readA r) ∧
        t.h.csr = s.h.csr ∧ t.mem = s.mem ∧ t.seq.pc = s.advance.seq.pc) ∧
    (raw.bad = none → uncovered s.h (s.sliceOf k).desc ds = none → s.dieTakes die = false → s.seq.wait = none →
      exec i s = .next (s.setSeq { s.seq with wait := some { instr := i, queue := none, since := s.now, limit := some s.h.qwaitOf, line := none } }))

/-! ### Topology and bazaar -/

/-- R297 to R304: MOPEN gives the number of an open mesh again, builds a new one from consistent roots, and names what
stops it; MNBR and MCELL deliver their records as one queue entry or to a scratchpad, and write nothing else; MMARK
registers the address of the marks; a handle of no open mesh raises ENGINE with subcode 7, and a page of the object that
the command reads and that has another CRC-32C than the engine left there one with subcode 8 and detail 2.
It rests on logs 16 and 31, and on log 90 for the pages that each of them reads. -/
def Obligations.MeshInstructions : Prop :=
  ∀ (s : State) (d a b : Reg), s.Inv → s.unstepped = true → s.own.side = .A → s.h.mem.pend = [] →
    let k := s.own.cur
    let g := s.h.readA a
    let ctx := (s.sliceOf k).ctx
    let raises := fun (i : Instr) (t : Trap) => exec i s = .next (s.takeTrap t s.seq.pc)
    (∀ p, winClass s k g ≤ 2 → checkElem s k g 64 needR 0 = .ok p →
      let n := bytesNat (memBytes s.mem p.key 64)
      let ds := MeshDesc.ofNat n
      let roots := s.readRoots ctx ds
      (∀ o, ds.bad n = some o → raises (.mopen d a) ⟨0x12, g, word (3 + 256 * o)⟩) ∧
      (ds.bad n = none → s.meshRanges k ds = none →
        (∀ e, s.meshes.find? (fun m => m.1 / 64 == k.die && m.2.ctx == ctx && m.2.desc.obj == ds.obj) = some e →
          exec (.mopen d a) s = .next (s.modH (fun h => h.writeA d (word (k.die * 2 ^ 14 + e.1 % 64)))).advance) ∧
        (s.meshes.find? (fun m => m.1 / 64 == k.die && m.2.ctx == ctx && m.2.desc.obj == ds.obj) = none →
          (s.freeNumbers k.die = [] → raises (.mopen d a) ⟨0x12, g, word (8 + 256 * 3)⟩) ∧
          (s.freeNumbers k.die ≠ [] → bitsOf n 217 217 ≠ 1 → s.builtObj ctx ds = none →
            raises (.mopen d a) ⟨0x12, g, word (8 + 256 * 2)⟩) ∧
          (s.freeNumbers k.die ≠ [] → bitsOf n 217 217 = 1 → ∀ r f, badFace ds.dim3 roots = some (r, f) →
            raises (.mopen d a) ⟨0x12, ds.roots + word (64 * r + 8 * f), word (8 + 256 * 1)⟩) ∧
          (s.freeNumbers k.die ≠ [] → bitsOf n 217 217 = 1 → badFace ds.dim3 roots = none →
            ∃ t num m, exec (.mopen d a) s = .next t ∧ num < 64 ∧ kvGet s.meshes (k.die * 64 + num) = none ∧
              kvGet t.meshes (k.die * 64 + num) = some m ∧ m.ctx = ctx ∧ m.desc = ds ∧ m.at_ = g ∧ m.rounds = 0 ∧
              m.marks = none ∧ (∀ x, x ≠ k.die * 64 + num → kvGet t.meshes x = kvGet s.meshes x) ∧
              (d ≠ 0 → t.h.readA d = word (k.die * 2 ^ 14 + num)) ∧ (∀ r, r ≠ d → t.h.readA r = s.h.readA r) ∧
              t.h.csr = s.h.csr ∧ t.seq.pc = s.advance.seq.pc)))) ∧
    (∀ t, s.meshAt g = .error t → t = ⟨0x12, g, 7⟩ ∧
      ∀ i ∈ ([.mnbr d a b, .mcell d a b, .mmark a b, .madapt d a b, .mcut d a b, .mmig d a b, .mhalo d a b] : List Instr),
        s.illegalSub i = none → raises i t) ∧
    (∀ ctx obj snap p, let old := (snap.drop (4096 * p)).take 4096
      s.pageOk ctx obj snap p = (crc32c 0 (s.plainBytes ctx (obj + word (4096 * p)) old.length) == crc32c 0 old)) ∧
    (∀ x m, s.meshAt g = .ok (x, m) →
      let w := s.h.readA b
      let count := w.toNat / 2 ^ 32
      let fo := s.forest m.forest
      let kept := fun (nbr : Bool) => s.pagesKept m (streamPages m fo nbr (w.toNat % 2 ^ 32) 0 count)
      let marked := s.pagesKept m (recordPages m fo [])
      (∀ y ∈ ([(.mnbr d a b, kept true), (.mcell d a b, kept false), (.mmark a b, marked)] : List (Instr × Bool)),
        y.2 = false → count ≤ 2048 → s.h.a.vstart = 0 → s.illegalSub y.1 = none → raises y.1 ⟨0x12, m.at_, word (8 + 256 * 2)⟩) ∧
      (marked = true → s.checkLocal k w (countOf fo.owners m.desc.part) needR = none →
        exec (.mmark a b) s = .next (({ s with meshes := kvSet s.meshes x { m with marks := some w } } : State).advance)) ∧
      (∀ y ∈ ([(.mnbr d a b, true), (.mcell d a b, false)] : List (Instr × Bool)),
        s.illegalSub y.1 = none → count ≤ 2048 → s.h.a.vstart = 0 → kept y.2 = true →
        let rs := (List.range count).flatMap (fun c => s.slotRecords m fo y.2 (w.toNat % 2 ^ 32 + c))
        let bs := rs.flatMap (fun r => natBytes r.1 16)
        (isQ d = true → count ≤ cellsPer fo.dim3 y.2 → (s.h.q.vload[qNo d]).items.length < 8 →
          ∃ t, exec y.1 s = .next t ∧ (t.h.q.vload[qNo d]).items = (s.h.q.vload[qNo d]).items ++ [entryOf rs] ∧
            t.h.regs = s.h.regs ∧ t.h.csr = s.h.csr ∧ t.mem = s.mem ∧ t.h.a.vstart = 0 ∧ t.seq.pc = s.advance.seq.pc) ∧
        (isQ d = false → winClass s k (s.h.readA d) = 2 ∨ winClass s k (s.h.readA d) = 4 →
          checkOnly s k (s.h.readA d) (count * (16 * recsPer fo.dim3 y.2)) needW = none →
          let at_ := fun (o : Nat) => byteKey s k (s.h.readA d + word o) needW
          ∃ t, exec y.1 s = .next t ∧
            (∀ o < bs.length, ∀ c, at_ o = some c → (∀ o' < bs.length, o' ≠ o → at_ o' ≠ some c) → memGet t.mem c = bs.getD o 0) ∧
            (∀ c, (∀ o < bs.length, at_ o ≠ some c) → memGet t.mem c = memGet s.mem c) ∧
            t.h.regs = s.h.regs ∧ t.h.csr = s.h.csr ∧ t.h.a.vstart = 0 ∧ t.seq.pc = s.advance.seq.pc)))

/-- R289 to R291, R305, R308 to R310, R312: an accepted collective command takes the next SEQ, leaves its handle in d and
joins the round of its partition's next ordinal; one that joins a round that has timed out ends PARTNER.
It rests on logs 15 and 82. -/
def Obligations.MeshCommands : Prop :=
  ∀ (s : State) (d a b : Reg) (x : Nat) (m : Mesh), s.unstepped = true → s.own.side = .A → s.h.mem.pend = [] →
    let k := s.own.cur
    let g := s.h.readA b
    let no := if s.h.eng.lastSeq = 0xFFFFFFFF then 0x40 else s.h.eng.lastSeq + 1
    s.meshAt (s.h.readA a) = .ok (x, m) → winClass s k g ≤ 2 →
    (∀ r, kvGet s.h.eng.recs (no % 64) = some r → r.over = true) → (∀ q ∈ s.h.eng.recs, q.2.seq ≠ no) →
    ∀ p, checkElem s k g 64 needRW 0 = .ok p →
    ∀ y ∈ ([(.madapt d a b, .adapt), (.mcut d a b, .cut), (.mmig d a b, .mig), (.mhalo d a b, .halo)] : List (Instr × MeshOp)),
      let n := bytesNat (memBytes s.mem p.key 64)
      s.illegalSub y.1 = none →
      (∀ o, opBad y.2 m n = some o → exec y.1 s = .next (s.takeTrap ⟨0x12, g, word (3 + 256 * o)⟩ s.seq.pc)) ∧
      (opBad y.2 m n = none → s.opRanges k y.2 m n = none →
        ∃ t r j m', exec y.1 s = .next t ∧ t.cmd (.hart k no) = some r ∧ r.job = .mesh j ∧ j.op = y.2 ∧ j.block = g ∧
          j.round = m.rounds + 1 ∧ kvGet t.meshes x = some m' ∧ m'.rounds = m.rounds + 1 ∧ m'.desc = m.desc ∧
          t.h.eng.lastSeq = no ∧ (d ≠ 0 → t.h.readA d = word (k.slot * 2 ^ 40 + k.idx * 2 ^ 38 + no)) ∧
          (∀ q, q ≠ d → t.h.readA q = s.h.readA q) ∧ t.h.csr = s.h.csr ∧ t.seq.pc = s.advance.seq.pc ∧
          (r.over = false → t.mem = s.mem ∧ ∃ R ∈ t.joins, R.forest = m.forest ∧ R.no = m.rounds + 1 ∧
            (m.desc.part, .hart k no, y.2) ∈ R.joined) ∧
          (r.over = true → r.status = 0x15))

/-- R289 to R291, R313: a bazaar command with a checked block takes the next SEQ, leaves its handle in d and stands last
in its cluster's queue; an invalid field raises ENGINE with subcode 3, and a full queue makes it wait.
Its wait rests on the record of log 8. -/
def Obligations.BazaarCommands : Prop :=
  ∀ (s : State) (d a : Reg), s.unstepped = true → s.own.side = .A → s.h.mem.pend = [] →
    let k := s.own.cur
    let g := s.h.readA a
    let c := s.coreOf k / 4
    let no := if s.h.eng.lastSeq = 0xFFFFFFFF then 0x40 else s.h.eng.lastSeq + 1
    winClass s k g ≤ 2 → (∀ r, kvGet s.h.eng.recs (no % 64) = some r → r.over = true) →
    ∀ p, checkElem s k g 64 needRW 0 = .ok p →
    ∀ y ∈ ([(.bhist d a, .hist), (.bscan d a, .scan), (.btopk d a, .topk), (.broute d a, .route), (.bcolor d a, .color),
        (.bseg d a, .seg)] : List (Instr × BazOp)),
      let n := bytesNat (memBytes s.mem p.key 64)
      let j := BazJob.ofNat y.2 g n
      s.illegalSub y.1 = none →
      ((s.bazQueue c).length ≥ 16 → s.seq.wait = none →
        exec y.1 s = .next (s.setSeq { s.seq with wait := some { instr := y.1, queue := none, since := s.now, limit := some s.h.qwaitOf, line := none } })) ∧
      ((s.bazQueue c).length < 16 →
        (∀ o, s.bazBad k j n = some o → exec y.1 s = .next (s.takeTrap ⟨0x12, g, word (3 + 256 * o)⟩ s.seq.pc)) ∧
        (s.bazBad k j n = none → s.bazRanges k j = none →
          ∃ t r, exec y.1 s = .next t ∧ t.cmd (.hart k no) = some r ∧ r.st = .moving ∧ r.job = .baz j ∧
            kvGet t.bazs c = some (s.bazQueue c ++ [.hart k no]) ∧ (∀ e, e ≠ c → kvGet t.bazs e = kvGet s.bazs e) ∧
            t.h.eng.lastSeq = no ∧ (d ≠ 0 → t.h.readA d = word (k.slot * 2 ^ 40 + k.idx * 2 ^ 38 + no)) ∧
            (∀ q, q ≠ d → t.h.readA q = s.h.readA q) ∧ t.h.csr = s.h.csr ∧ t.mem = s.mem ∧ t.seq.pc = s.advance.seq.pc))

/-! ### Events -/

/-- R15, R23, R62, R272, R301, R331: a wait whose event has come ends, one whose limit has passed raises WAITTIME, a SIGW
reads its word again, a WAITD at its due date raises OVERDUE, a stall longer than QWAIT raises QSTALL (with VSTART 0 where
the instruction ignores it, R176), and an MNBR in progress delivers its next entry. WAIT_END, before the limit, and
WAITTIME, after it, run whichever waiting instruction the side is in, and where it must wait still, WAITTIME is raised with
the limit in TVAL and in TVAL2 the barrier word, the handle or the object's address.
It rests on log 8. -/
def Obligations.WaitEvents : Prop :=
  ∀ (s : State) (k : HartKey) (w : Wait), s.canRun k .A = true → (s.hart k).a.wait = some w →
    let s1 : State := { s.actAs k .A with own := { (s.actAs k .A).own with ir := encode w.instr } }
    s1.unstepped = true →
    let raises := fun (i : Instr) (t : Trap) => exec i s = .next (s1.takeTrap t s1.seq.pc)
    (w.instr = .wfe → w.queue = none → s1.h.event = true → (∀ l, w.limit = some l → s.now < w.since + l) →
      exec (.waitEnd k) s = .next (s1.modH (fun h => { h with event := false })).advance) ∧
    (let passed := ∃ l, w.limit = some l ∧ w.since + l ≤ s.now
     let c := s.caravan k
     let barq := word (c.size * 2 ^ 9 + c.ended.toNat * 2 ^ 5 + (if c.phase then 2 ^ 4 else 0) + c.arrived.toNat)
     let waiting := match w.instr with
       | .bara | .barw _ | .sigw _ _ _ | .waitab _ _ | .waitd _ | .waith _ _ | .wfe | .fence _ _ _ | .fencei | .launch _ _ | .cpy _ _
       | .madapt _ _ _ | .mcut _ _ _ | .mmig _ _ _ | .mhalo _ _ _ | .bhist _ _ | .bscan _ _ | .btopk _ _ | .broute _ _ | .bcolor _ _
       | .bseg _ _ => True
       | _ => False
     w.queue = none →
      (waiting → ¬passed → exec (.waitEnd k) s = exec w.instr s1) ∧ (waiting → passed → exec (.waittime k) s = exec w.instr s1) ∧
      (∀ l, w.limit = some l → w.since + l ≤ s.now →
        (w.instr = .bara → c.arrived &&& BitVec.ofNat 4 (2 ^ k.idx) ≠ 0 → raises (.waittime k) ⟨0x08, word l, barq⟩) ∧
        (∀ b, w.instr = .barw b → c.phase ≠ s1.h.wph → raises (.waittime k) ⟨0x08, word l, barq⟩) ∧
        (∀ a b r, w.instr = .waith a b → s1.lookup (s1.h.readA a) = .ok (some r) → r.over = false →
          raises (.waittime k) ⟨0x08, word l, s1.h.readA a⟩) ∧
        (∀ a b off, w.instr = .waitab a b → s1.objAt (s1.h.readA a) = .ok off → s1.h.csr.sticky.getLsbD 1 = false → s1.quiet →
          let x := memGet s.mem (keySpad k off + 12)
          x.getLsbD 0 ≠ x.getLsbD 1 → raises (.waittime k) ⟨0x08, word l, s1.h.readA a⟩))) ∧
    (∀ b, w.instr = .barw b → w.queue = none → (s.caravan k).phase = s1.h.wph → (∀ l, w.limit = some l → s.now < w.since + l) →
      exec (.waitEnd k) s = .next s1.advance) ∧
    (∀ l, w.instr = .wfe → w.queue = none → s1.h.event = false → w.limit = some l → w.since + l ≤ s.now →
      raises (.waittime k) ⟨0x08, word l, 0⟩) ∧
    (∀ d a b p, w.instr = .sigw d a b → s1.reaches (s1.h.readA a) 8 needR p → s.psnAt p 8 = false →
      let x := bytesNat (memBytes s.mem p.key 8)
      x ≥ 2 ^ 63 ∨ x ≥ (s1.h.readA d).toNat % 2 ^ 63 →
      exec (.sigwRecheck k) s = .next (s1.modH (fun h => h.writeA d (word x))).advance) ∧
    (∀ a r, w.instr = .waitd a → s1.lookup (s1.h.readA a) = .ok (some r) → r.over = false → r.due ≤ s.now →
      ∃ x, raises (.overdue k) ⟨0x07, s1.h.readA a, x⟩) ∧
    (∀ d a b x m, w.instr = .mnbr d a b → s1.illegalSub w.instr = none → isQ d = true →
      s1.meshAt (s1.h.readA a) = .ok (x, m) → s1.h.mem.pend = [] →
      let fo := s1.forest m.forest
      let count := (s1.h.readA b).toNat / 2 ^ 32
      s1.pagesKept m (streamPages m fo true ((s1.h.readA b).toNat % 2 ^ 32) s1.h.a.vstart count) = true →
      count ≤ 2048 → (count = 0 ∨ s1.h.a.vstart < count) → s1.h.eng.gen = some fo.gen → (s1.h.q.vload[qNo d]).items.length < 8 →
      ∃ t e, exec (.mnbrEntryDelivery k) s = .next t ∧ t.mem = s.mem ∧ (t.hart k).regs = (s.hart k).regs ∧
        ((t.hart k).q.vload[qNo d]).items = (s1.h.q.vload[qNo d]).items ++ [e]) ∧
    (∀ sd code push v, s.canRun k sd = true → (s.hart k).calm .X = true → ((s.hart k).seq sd).wait = some v →
      (s.hart k).stallOver s.now sd = some (code, push) →
      let s2 := s.actAs k sd
      let s3 := if sd = .X ∧ v.instr.ignoresVstart = true then s2.modH (fun h => { h with x := { h.x with vstart := 0 } }) else s2
      ∃ x y, exec (.qstall k sd) s = .next (s3.takeTrap ⟨0x09, x, y⟩ ((s.hart k).seq sd).pc) ∧
        x = word ((if push then 2 ^ 33 else 0) +
          ((s.hart k).headIdx code + BitVec.ofNat 8 ((s.hart k).occ code)).toNat * 2 ^ 16 + ((s.hart k).headIdx code).toNat * 2 ^ 8 + code))

/-- R114, R124, R145, R147, R152, R157: the first entry that has not arrived becomes visible; the hart's first pending
store, whole and with no command before it that it waits for, is performed with all its parts and its bytes alone changed; a deferred scalar load delivers what memory then
holds, and completes unless later instructions have run past it, or raises POISON.
It rests on logs 11 and 75. -/
def Obligations.LateAccesses : Prop :=
  ∀ (s : State) (k : HartKey) (h : Hart), kvGet s.harts k = some h → s.Inv →
    (∀ (q : Nat) (xs ys : List Entry) (e : Entry), (h.q.vload[four q]).items = xs ++ e :: ys → (∀ x ∈ xs, x.visible = true) →
      e.visible = false → ∃ t, exec (.loadEntryArrival k q) s = .next t ∧ t.mem = s.mem ∧
        ((t.hart k).q.vload[four q]).items = xs ++ { e with visible := true } :: ys ∧ (t.hart k).regs = h.regs) ∧
    (∀ (p : PendStore) (rest : List PendStore), h.mem.pend = p :: rest → (∀ o ∈ rest, o.id ≠ p.id) → p.kind = .plain →
      p.more = none → h.overAll p.cmds = true → (∀ l, h.mem.pendLoad = some l → p.id < l.after) → s.dev.warm = none →
      let i := if p.rd.isSome then Instr.rdInvalidationAck k p.id else .storePerformed k p.id
      let holds := fun (x : StPart) a => x.key ≤ a ∧ a < x.key + x.bytes.length
      ∃ t, exec i s = .next t ∧
        (∀ x ∈ p.parts, ∀ bs, x.bytes = whole bs → (∀ y ∈ p.parts, y ≠ x → ∀ a, ¬(holds x a ∧ holds y a)) →
          memBytes t.mem x.key bs.length = bs) ∧
        (∀ a, (∀ x ∈ p.parts, ¬holds x a) → memGet t.mem a = memGet s.mem a) ∧
        (t.hart k).mem.pend = rest ∧ (t.hart k).regs = h.regs) ∧
    (∀ (d a : Reg) (imm : BitVec 15) (addr : Word) (key after : Nat) (hold : Bool) (ahead : Option Ahead),
      let s1 := (s.actAs k .A).modH (fun h => { h with mem := { h.mem with pendLoad := none } })
      ∀ x ∈ ([(.ldb d a imm, 1, true), (.ldbn d a imm, 1, false), (.ldh d a imm, 2, true), (.ldhn d a imm, 2, false),
          (.ldw d a imm, 4, true), (.ldwn d a imm, 4, false), (.ldd d a imm, 8, false)] : List (Instr × Nat × Bool)),
        h.mem.pendLoad = some ⟨x.1, addr, key, x.2.1, hold, after, ahead⟩ → h.mem.pend = [] → s1.unstepped = true → s.dev.warm = none →
        let bad := keyHoldsPoison key && poisoned s.poison key x.2.1
        let v := BitVec.ofNat (8 * x.2.1) (bytesNat (memBytes s.mem key x.2.1))
        let s2 := s1.modH (fun h => h.writeA d (if x.2.2 then v.signExtend 64 else v.zeroExtend 64))
        (bad = false → ahead = none → exec (.loadPerformed k) s = .next s2.advance) ∧
        (bad = false → ahead ≠ none → exec (.loadPerformed k) s = .next s2) ∧
        (bad = true → ahead = none → exec (.loadPerformed k) s = .next (s1.takeTrap ⟨0x05, addr, 0⟩ s1.seq.pc)))

/-- R268, R274 to R279, R284, R401: a chunk of a MOVING copy lands 1 to 256 bytes of its row, at each receiver of a
multicast, from or on a peer, or from what a topology engine has read, and nothing else (the images of saved caravans
follow their scratchpads, R282); under ABV each receiver's object then counts them, flips its phase and sets the event
bit, or the arrival is dropped and ORPHAN set; a copy whose bytes have all landed ends, MISMATCH when a wanted checksum
differs; a failed port or a refusal strikes the copy that crosses; a retransmission, or a sag that ends, gives its cause to a copy
with a booking that it has kept from being served; a peer's served write lands and its
served read returns the bytes. The hypothesis on SEQ says that the command's SEQ names one record.
It rests on logs 14, 17, 21, 33, 34, 36. -/
def Obligations.CopyEvents : Prop :=
  ∀ (s : State) (i : CmdId) (r : HRec) (j : CopyJob), s.Inv → s.cmd i = some r → r.job = .copy j → r.st = .moving →
    s.dev.warm = none → (∀ k n, i = .hart k n → ∀ q ∈ (s.hart k).eng.recs, q.2.seq = n → q.2 = r) →
    (j.landed < j.blk.total → j.rowOff < j.blk.len → s.portsUp j = true → s.rowUp i j j.rowNo = true → s.own.upset = .none →
      (∀ d m, i = .topo d m → (kvGetD s.legs m default).whole = false) →
      let peer := fun (g : Word) (o : Nat) => keyPeer (j.win.getD default).peer (g.toNat + o)
      let into := match i with
        | .hart k _ => if j.blk.mcast = 0 then [j.blk.dstRow j.rowNo]
          else j.blk.receivers.map (fun h => clusterAddr k h (gOff (j.blk.dstRow j.rowNo)))
        | _ => [j.blk.dstRow j.rowNo]
      let src := fun (o : Nat) => match i with
        | .topo _ m => (kvGetD s.legs m default).data[j.landed + o]?
        | _ => if j.blk.rdir = 2 then some (memGet s.mem (peer (j.blk.srcRow j.rowNo + word j.rowOff) o), false)
          else (s.keyFor i (j.blk.srcRow j.rowNo + word (j.rowOff + o)) needR).map
            (fun x => (memGet s.mem x, keyHoldsPoison x && poisoned s.poison x 1))
      let dst := fun (o : Nat) => if j.blk.rdir = 1 then [peer (j.blk.dstRow j.rowNo) (j.rowOff + o)]
        else into.filterMap (fun g => s.keyFor i (g + word (j.rowOff + o)) needW)
      let owners := match i with
        | .hart k _ => if j.blk.abv then (arrivalHarts s k j.blk).map (fun h => { k with idx := h }) else []
        | _ => []
      let obj := fun (k : HartKey) => keySpad k j.blk.aboff
      let inImage := fun y => ∃ k, (s.caravan k).st = .saved ∧ imageKey k ≤ y ∧ y < imageKey k + 0x200000 + j.blk.len + j.blk.aboff
      let inObject := fun y => ∃ k ∈ owners, obj k ≤ y ∧ y < obj k + 16
      ∃ t n r' j', exec (.copyChunkLanding i) s = .next t ∧ 1 ≤ n ∧ n ≤ 256 ∧ n ≤ j.blk.len - j.rowOff ∧
        t.cmd i = some r' ∧ r'.st = .moving ∧ r'.job = .copy j' ∧ j'.blk = j.blk ∧ j'.landed = j.landed + n ∧
        (∀ o < n, ∀ y ∈ dst o, ∀ v, src o = some (v, false) → (∀ o' < n, o' ≠ o → y ∉ dst o') → ¬inImage y → ¬inObject y →
          memGet t.mem y = v) ∧
        (∀ y, (∀ o < n, y ∉ dst o) → ¬inImage y → ¬inObject y → memGet t.mem y = memGet s.mem y) ∧
        (j.blk.aboff + 16 ≤ 2 ^ 20 → ∀ k ∈ owners, (∀ y, obj k ≤ y → y < obj k + 16 → ¬inImage y ∧ ∀ o < n, y ∉ dst o) →
          let at4 := fun (m : List Host.Cell) o => bytesNat (memBytes m (obj k + o) 4)
          let x := at4 s.mem 8 + n
          let bit := fun (m : List Host.Cell) b => (memGet m (obj k + 12)).getLsbD b
          (j.blk.abtag = 0 ∨ at4 s.mem 0 ≠ j.blk.abtag.toNat →
            (t.hart k).csr.sticky.getLsbD 1 = true ∧ memBytes t.mem (obj k) 16 = memBytes s.mem (obj k) 16) ∧
          (j.blk.abtag ≠ 0 → at4 s.mem 0 = j.blk.abtag.toNat →
            (t.hart k).event = true ∧ memBytes t.mem (obj k) 8 = memBytes s.mem (obj k) 8 ∧
            at4 t.mem 8 = (if at4 s.mem 4 ≤ x then x - at4 s.mem 4 else x) % 2 ^ 32 ∧
            bit t.mem 0 = (bit s.mem 0 != decide (at4 s.mem 4 ≤ x)) ∧ bit t.mem 1 = bit s.mem 1))) ∧
    (j.landed ≥ j.blk.total →
      ∃ t r', exec (.copyCompletion i) s = .next t ∧ t.cmd i = some r' ∧
        (j.psnOut = true → r'.st = .failed ∧ r'.status = 0x02) ∧
        (j.psnOut = false → j.blk.cmp = true → r.sumNow ≠ j.blk.want → r'.st = .failed ∧ r'.status = 0x01) ∧
        (j.psnOut = false → (j.blk.cmp = true → r.sumNow = j.blk.want) → r'.st = .done ∧ r'.status = 0 ∧ r'.result = r.sumNow)) ∧
    (j.win.isSome = true → ∃ t r', exec (.remoteRefusal i) s = .next t ∧ t.cmd i = some r' ∧ r'.st = .failed ∧ r'.status = 0x03) ∧
    (∀ p, s.crossing p = [i] →
      (∃ t r', exec (.linkFailure p) s = .next t ∧ t.cmd i = some r' ∧ r'.st = .failed ∧ r'.status = 0x04) ∧
      (∃ t, exec (.linkRetransmission p) s = .next t ∧ t.mem = s.mem ∧
        let here := ∃ b ∈ s.books, b.who = i ∧ portHas p b.res = true ∧ b.slot = s.now / 64
        (r.unbooked = false → j.cause = 0 → here → ∃ r' j', t.cmd i = some r' ∧ r'.job = .copy j' ∧ j'.cause = 2) ∧
        (¬here → t.cmd i = some r))) ∧
    (∀ core t0, (s.coreNo core).slowAt = some t0 → (s.coreNo core).heat = false → r.unbooked = false → j.cause = 0 →
      (∃ b ∈ s.books, b.who = i ∧ b.onPort core = true ∧ t0 / 64 ≤ b.slot ∧ b.slot ≤ s.now / 64) →
      ∃ t r' j', exec (.supplyRecovery core) s = .next t ∧ t.cmd i = some r' ∧ r'.job = .copy j' ∧ j'.cause = 1) ∧
    (∀ q : PeerReq, (s.exporter q = none → exec (.remoteAccessRequest q) s = .next s) ∧
      (∀ ctx, s.exporter q = some ctx → q.wr = none →
        ∃ t, exec (.remoteAccessRequest q) s = .next t ∧ t.mem = s.mem ∧ t.dev.peerRead.length = q.len ∧
          ∀ o < q.len, ∀ x, translate s ctx (q.addr + o) needR = some x →
            t.dev.peerRead.getD o 0 = if keyHoldsPoison x && poisoned s.poison x 1 then 0 else memGet s.mem x) ∧
      (∀ ctx bs, s.exporter q = some ctx → q.wr = some bs → bs.length = q.len →
        ∃ t, exec (.remoteAccessRequest q) s = .next t ∧
          ∀ o < q.len, ∀ x, translate s ctx (q.addr + o) needW = some x →
            (∀ o' < q.len, o' ≠ o → translate s ctx (q.addr + o') needW ≠ some x) → memGet t.mem x = bs.getD o 0))

/-- R102, R290 to R293, R303 to R319: the first command of a bazaar ends: its handle, its block, its outputs at their
lists and nothing else; poisoned input ends it POISON with data 0. A ready round of MCUT leaves the cut pending with its
block fields, or POISON; one of MADAPT commits a generation with objects, remap records and block fields, or ends POISON,
MARK, OVERFLOW or LIMIT with nothing committed; one of MMIG without a cut ends at once, and else commits when all its
copies have landed, or ends as its first failed copy; one of MHALO ends each command by its own copies; differing commands
end ORDER, a changed object OBJECT, and what a partition on another device answers ends the round with that status. A round
that not every partition has joined within COLLECT ends PARTNER. Commands that a copy is chained to, and outputs
that lie on page tables, are left out where memory is told.
It rests on logs 15, 17, 31, 70, 82, 83, 90. -/
def Obligations.EngineEvents : Prop :=
  (∀ s : State, s.dev.warm = none → ∀ c k n rest r j, s.bazQueue c = .hart k n :: rest → s.cmd (.hart k n) = some r →
    r.job = .baz j → s.live (.hart k n) →
    let i := CmdId.hart k n
    let d := s.bazRun i j
    let raw := (s.bazIn i j).map (·.1)
    let ends := fun (status : Nat) (result : BitVec 32) (writes : List (Word × List Byte)) (t : State) =>
      exec (.bazaarCommandCompletion c) s = .next t ∧ kvGet t.bazs c = some rest ∧ t.endedAs i status (some result) ∧
      (let outs := writes.flatMap (fun w => s.outsAt i w.1 w.2) ++ s.blockOuts i j.block status result []
       s.steady outs → s.leaves t outs)
    (s.bazPoisoned i j = true →
      ∃ t, ends 0x02 0 ((j.lists.filter (·.out)).map (fun l => (l.g, List.replicate l.n 0))) t) ∧
    (s.bazPoisoned i j = false →
      (∃ t, ends d.status (BitVec.ofNat 32 d.result) d.writes t ∧ (d.desc = true → (t.hart k).csr.sticky.getLsbD 0 = true)) ∧
      (match j.op with
       | .hist => d.writes = [(j.out, bytesOf 4 (histRun j.p1 (numsOf 4 ((s.histStart i j).map (·.1)) j.p1) (numsOf 4 raw j.n)).1)]
       | .scan => d.writes = [(j.out, bytesOf j.scanW (scanRun (8 * j.scanW) (j.p1 / 2 % 2 = 1) 0 (numsOf j.scanW raw j.n)).1)]
       | .topk => let rows := (pieces j.p1 (numsOf j.score raw (j.n * j.p1)) j.n).flatMap (topkRow (j.p3 % 2 = 1) j.p2)
          d.writes = [(j.out, bytesOf j.score (rows.map (·.1))), (j.out2, bytesOf 4 (rows.map (·.2)))]
       | .route => let x := routeRun j.p1 j.p3 (numsOf 4 raw (j.n * j.p2))
          d.writes = [(j.out, bytesOf 4 (x.1.map List.length)), (j.out2, bytesOf 4 (prefixSums 0 (x.1.map List.length))),
            (j.out3, bytesOf 4 (x.1.flatten ++ x.2))] ∧ d.result = x.2.length
       | .color => d.status = 0 → ∃ cols : List Nat, (j.out, bytesOf 1 cols) ∈ d.writes ∧
          (j.out2, bytesOf 4 ((List.range 16).map (fun c => cols.count c))) ∈ d.writes
       | .seg => let p := numsOf 4 raw (j.n + 1)
          let rows := (List.range j.n).map (fun e => (e, p.getD e 0, p.getD (e + 1) 0))
          let x := rows.foldl (segRow j.p1) (0, [], false)
          d.writes = [(j.out, bytesOf 4 (x.2.1.map (·.1))), (j.out2, bytesOf 4 (x.2.1.map (·.2)))] ∧ d.result = x.1))) ∧
  (∀ (nbin : Nat) (start keys : List Nat), start.length = nbin → (∀ x ∈ start, x < 2 ^ 32) →
    (∀ x < nbin, (histRun nbin start keys).1.getD x 0 = (start.getD x 0 + keys.count x) % 2 ^ 32) ∧
    (histRun nbin start keys).2 = keys.countP (fun x => decide (x ≥ nbin))) ∧
  (∀ (bits : Nat) (incl : Bool) (xs : List Nat),
    (∀ e < xs.length, (scanRun bits incl 0 xs).1.getD e 0 = (xs.take (if incl then e + 1 else e)).sum % 2 ^ bits) ∧
    (scanRun bits incl 0 xs).2 = xs.sum % 2 ^ bits) ∧
  (∀ (bf : Bool) (k : Nat) (row : List Nat),
    let out := topkRow bf k row
    let above := fun (p q : Nat × Nat) => scoreRank bf p.1 > scoreRank bf q.1 ∨ (scoreRank bf p.1 = scoreRank bf q.1 ∧ p.2 < q.2)
    out.length = min k row.length ∧ (∀ p ∈ out, row[p.2]? = some p.1) ∧ out.Pairwise above ∧
    ∀ c x, row[c]? = some x → (x, c) ∉ out → ∀ p ∈ out, above p (x, c)) ∧
  (∀ (nexp cap : Nat) (xs : List Nat),
    let r := routeRun nexp cap xs
    r.1.length = nexp ∧
    (∀ e < nexp, r.1.getD e [] =
      ((List.range xs.length).filter (fun y => xs.getD y 0 == e)).take (if cap = 0 then xs.length else cap)) ∧
    r.2 = (List.range xs.length).filter (fun y => decide (nexp ≤ xs.getD y 0 ∨ (cap ≠ 0 ∧ cap ≤ (xs.take y).count (xs.getD y 0))))) ∧
  (∀ (cap : Nat) (rows : List (Nat × Nat × Nat)),
    let all := rows.flatMap (fun r => (List.range (r.2.2 - r.2.1)).map (fun o => (r.1, r.2.1 + o)))
    rows.foldl (segRow cap) (0, [], false) = (all.length, all.take cap, rows.any (fun r => decide (r.2.2 < r.2.1)))) ∧
  (∀ (tmax : Nat) (es : List (List (Nat × Bool))),
    let r := es.foldl (colorEntry tmax) ⟨List.replicate tmax 0, [], none⟩
    let ts := fun y => ((es.getD y []).map (·.1)).filter (· ≠ 0xFFFFFFFF)
    let taken := fun y c => ∃ z < y, r.cols.getD z 16 = c ∧ ∃ t ∈ ts y, t ∈ ts z
    r.stop = none → r.cols.length = es.length ∧
      ∀ y < es.length, r.cols.getD y 16 < 16 ∧ ¬taken y (r.cols.getD y 16) ∧ ∀ c < r.cols.getD y 16, taken y c) ∧
  (∀ (s : State) (e : Instr) (R : Round), s.dev.warm = none → (s.legs.map (·.1)).Nodup →
    ((∃ i, e = .topologyCommandCompletion i ∧ s.joins.find? (fun r => !r.dead && r.joined.any (fun j => j.2.1 == i)) = some R) ∨
      (∃ die num, e = .generationCommit die num ∧ s.forestAt die num = some R.forest ∧
        s.joins.find? (fun r => r.forest == R.forest && s.roundReady r && commits (s.parties r)) = some R)) →
    s.roundReady R = true →
    let fo := s.forest R.forest
    let ps := s.parties R
    let ls := (s.legsOf R).map (·.2)
    ps ≠ [] → (ps.map (·.id)).Nodup → (∀ p ∈ ps, s.live p.id) →
    let all := fun (o : MeshOp) => (∀ p ∈ ps, p.job.op = o) ∧ ∀ x ∈ s.remotes fo, x.op = o
    let sound := (∀ p ∈ ps, s.objOk p.mesh = true) ∧ ∀ x ∈ s.remotes fo, x.status = none
    let fails := fun (status : Nat) (result : Party → Option (BitVec 32)) =>
      ∃ t, exec e s = .next t ∧ t.forests = s.forests ∧ ∀ p ∈ ps, t.endedAs p.id status (result p)
    let closed := fun (t : State) => ∀ x ∈ t.joins, ¬(x.forest = R.forest ∧ x.no = R.no)
    let outsOf := fun (status : Nat) (result : Party → BitVec 32) (fields : Party → List (Nat × Nat × Nat)) =>
      ps.flatMap (fun p => s.blockOuts p.id p.job.block status (result p) (fields p))
    (R.begun = false →
      ((¬∃ o, all o) → fails 0x16 (fun _ => none)) ∧
      (∀ o, all o → (o = .adapt → s.streaming R.forest = false) → (∃ p ∈ ps, s.objOk p.mesh = false) → fails 0x17 (fun _ => none)) ∧
      (∀ o st, all o → (o = .adapt → s.streaming R.forest = false) → (∀ p ∈ ps, s.objOk p.mesh = true) →
        (s.remotes fo).findSome? Remote.status = some st →
        fails st (fun _ => if st = 0x02 then some 0 else none) ∧ st ∈ ([0x02, 0x10, 0x12, 0x13, 0x17] : List Nat)) ∧
      (all .cut → sound →
        let ws := s.readWeights fo ps
        let owners := cutOwners fo.npart (ws.map (·.1))
        let size := fun (p : Party) => BitVec.ofNat 32 (countOf owners p.part)
        ((∃ w ∈ ws, w.2 = true) → fails 0x02 (fun _ => some 0)) ∧
        ((∀ w ∈ ws, w.2 = false) → ∃ t, exec e s = .next t ∧ (t.forest R.forest).cut = some owners ∧
          (t.forest R.forest).gen = fo.gen ∧ (t.forest R.forest).leaves = fo.leaves ∧ closed t ∧
          (∀ p ∈ ps, t.endedAs p.id 0 (some (size p))) ∧
          (let outs := outsOf 0 size (fun p => [(16, 8, (ws.map (·.1)).sum), (24, 4, firstOf owners p.part)])
           s.steady outs → s.leaves t outs))) ∧
      (all .adapt → sound → s.streaming R.forest = false →
        let marks := s.readMarks fo ps
        let ad := fo.adapt (marks.map (fun m => m.1.toNat))
        let owners := ad.ws.map (fun w => w.leaf.owner)
        let size := fun (p : Party) => BitVec.ofNat 32 (countOf owners p.part)
        let good := ∀ m ∈ marks, m.2 = false ∧ m.1.toNat ≤ 2
        let room := ∀ p ∈ ps, countOf owners p.part ≤ p.job.cap
        let few := (∀ p ∈ ps, countOf owners p.part ≤ p.mesh.desc.maxleaf) ∧ ad.ws.length < 2 ^ 32 ∧
          s.allLeaves R.forest ad.ws.length ≤ 2 ^ 32
        ((∃ m ∈ marks, m.2 = true) → fails 0x02 (fun _ => some 0)) ∧
        ((∀ m ∈ marks, m.2 = false) → (∃ m ∈ marks, 2 < m.1.toNat) → fails 0x12 (fun _ => none)) ∧
        (good → ¬room → fails 0x10 (fun p => some (size p))) ∧ (good → room → ¬few → fails 0x13 (fun _ => none)) ∧
        (good → room → few → ∃ t, exec e s = .next t ∧ (t.forest R.forest).gen = fo.gen + 1 ∧
          (t.forest R.forest).leaves = ad.ws.map Work.leaf ∧ (t.forest R.forest).cut = none ∧ closed t ∧
          (∀ p ∈ ps, t.endedAs p.id 0 (some (size p))) ∧
          (let outs := ps.flatMap (fun p =>
              (List.range (p.mesh.desc.used (countOf owners p.part))).map (fun o =>
                (translate s p.mesh.ctx (gVa p.mesh.desc.obj + o) needW, none)) ++ s.outsAt p.id p.job.addr (remapBytes ad p.part)) ++
            outsOf 0 size (fun p => [(24, 4, firstOf owners p.part), (28, 4, ad.refined.count p.part),
              (32, 4, ad.coarsened.count p.part), (36, 4, ad.balanced.count p.part)])
           s.steady outs → s.leaves t outs))) ∧
      (all .mig → sound → fo.cut = none → ∃ t, exec e s = .next t ∧ t.forests = s.forests ∧ closed t ∧
        (∀ p ∈ ps, t.endedAs p.id 0 (some 0)) ∧
        (let outs := outsOf 0 (fun _ => 0) (fun _ => [(16, 4, 0), (20, 4, 0)])
         s.steady outs → s.leaves t outs)) ∧
      (all .mig → sound → ls = [] → s.streaming R.forest = false → fo.cut = some fo.owners →
        (∀ p ∈ ps, countOf fo.owners p.part ≤ p.mesh.desc.maxleaf ∧
          ∀ f ∈ s.fieldsOf p.mesh, countOf fo.owners p.part + (fo.ghostsBy fo.owners p.part).length ≤ f.cap) →
        ∃ t, exec e s = .next t ∧ (t.forest R.forest).gen = fo.gen + 1 ∧ (t.forest R.forest).cut = none ∧ closed t ∧
          ∀ p ∈ ps, t.endedAs p.id 0 (some 0)) ∧
      (all .halo → sound → ls = [] → (∀ p ∈ ps, s.haloSmall fo p = false ∧ s.haloLegs R fo ps p = []) →
        ∃ t, exec e s = .next t ∧ t.forests = s.forests ∧ closed t ∧ ∀ p ∈ ps, t.endedAs p.id 0 (some 0))) ∧
    (R.begun = true → (∀ l ∈ ls, ∃ r, l.hrec = some r ∧ r.over = true) →
      let psn := fun (l : Leg) => l.data.any (·.2)
      ((∀ p ∈ ps, p.job.op = .mig) → ∀ new, fo.cut = some new →
        (∀ st, legFailure ls = some st → fails st (fun _ => none)) ∧
        (legFailure ls = none → s.streaming R.forest = false →
          ∃ t, exec e s = .next t ∧ (t.forest R.forest).gen = fo.gen + 1 ∧ (t.forest R.forest).cut = none ∧ closed t ∧
            (t.forest R.forest).leaves = fo.leaves.zipIdx.map (fun l => { l.1 with owner := new.getD l.2 0 }) ∧
            ∀ p ∈ ps, t.endedAs p.id (if ls.any psn then 0x02 else 0)
              (some (BitVec.ofNat 32 ((convoys 0 fo.owners new).countP (fun c => c.src == p.part)))))) ∧
      ((∀ p ∈ ps, p.job.op = .halo) → ∃ t, exec e s = .next t ∧ t.forests = s.forests ∧ closed t ∧ ∀ p ∈ ps,
        let mine := ls.filter (fun l => l.part == p.part)
        let n := BitVec.ofNat 32 ((s.haloFields p).length * (fo.ghosts p.part).length)
        (s.haloSmall fo p = true → t.endedAs p.id 0x10 (some (BitVec.ofNat 32 (haloNeed fo p)))) ∧
        (s.haloSmall fo p = false → ∀ st, legFailure mine = some st → t.endedAs p.id st none) ∧
        (s.haloSmall fo p = false → legFailure mine = none → t.endedAs p.id (if mine.any psn then 0x02 else 0) (some n))))) ∧
  (∀ (s : State) (die num f : Nat) (R : Round), s.forestAt die num = some f →
    s.joins.find? (fun r => r.forest == f && !r.dead && !r.begun && !r.full && r.limit != 0 &&
        decide (s.now ≥ r.since + r.limit)) = some R →
    ((s.parties R).map (·.id)).Nodup → (∀ p ∈ s.parties R, s.live p.id) →
    ∃ t, exec (.collectTimeout die num) s = .next t ∧ t.forests = s.forests ∧
      (∀ p ∈ s.parties R, t.endedAs p.id 0x15 none) ∧ ∀ x ∈ t.joins, x.forest = f → x.no = R.no → x.dead = true ∧ x.joined = [])

/-- R339 to R349, R364, R366, R376, R377, R382, R399: how caravans are placed, exhaust and regain a budget, are stopped by
force, saved and retired, and how a core's error or wear takes it out of service. BUDGET's TVAL is the time at which the
budget reached 0, and a trap whose limit had passed by then comes first (R364); a save writes each hart's image, words and scratchpad, to its place in HBM; an admitted load or AMO
completes before a stop.
It rests on log 7, 11, 21, 39, 41: where the save area stands is the model's free value, and the state that a restore takes
is the one kept under the tag, which equals the image (log 21). -/
def Obligations.CaravanEvents : Prop :=
  ∀ s : State, s.Inv → s.dev.warm = none →
   (∀ (c : CarId) (v : Caravan), kvGet s.cars c = some v →
    let key := fun (j : Nat) => (⟨c.die, c.slot, j⟩ : HartKey)
    let sl := s.sliceNo v.slice
    let ctx := s.ctxNo sl.ctx
    let placed := v.st = .running ∨ v.st = .stopping
    (placed → v.budget = some 0 → (∀ j < v.size, (s.hart (key j)).calm .X = true) →
      (∀ j < v.size, s.trapDue (key j) v.outAt = false) →
      ∃ t, exec (.budgetExhausted c) s = .next t ∧ t.carOf c = { v with st := .held, heldAt := s.now } ∧ t.mem = s.mem ∧
        ∀ j < v.size, (s.hart (key j)).tr.smode = false → (t.hart (key j)).tr.code = 0x0A ∧
          (t.hart (key j)).tr.tval = word v.outAt ∧ (t.hart (key j)).tr.smode = false) ∧
    (v.st = .held → s.dev.repl = none → ctx.allow ≠ 0 →
      let n := min (sl.desc.budget.getD ctx.allow) ctx.allow
      ∃ t, exec (.budgetExtension c) s = .next t ∧
        t.carOf c = { v with st := if v.preqAt.isSome then .stopping else .running, budget := some n } ∧
        (t.ctxNo sl.ctx).allow = ctx.allow - n ∧ t.mem = s.mem) ∧
    (v.st = .held → s.dev.repl = none → ctx.allow = 0 → exec (.budgetExtension c) s = .next (s.endSlice v.slice)) ∧
    (∀ p0 j, v.st = .stopping → v.preqAt = some p0 → j < v.size → s.now ≥ p0 + max 1 (s.hart (key j)).tr.pregrace.toNat →
      (s.hart (key j)).stopped = false → (s.hart (key j)).mem.pendLoad = none → (s.hart (key j)).mem.mid ≠ some false →
      s.trapDue (key j) (p0 + max 1 (s.hart (key j)).tr.pregrace.toNat) = false →
      ∃ t, exec (.forcedStop c) s = .next t ∧ (t.carOf c).forced = true ∧ (t.hart (key j)).a.stop.isSome = true ∧
        (t.hart (key j)).x.stop.isSome = true ∧ (t.hart (key j)).regs = (s.hart (key j)).regs ∧ t.mem = s.mem ∧
        ((s.hart (key j)).tr.smode = false → (t.hart (key j)).tr.code = 0x10)) ∧
    (v.st = .stopping → v.imaged = false → (∀ j < v.size, (s.hart (key j)).stopped = true) → s.landed c v = true →
      ∃ t, exec (.caravanSave c) s = .next t ∧ t.carOf c = { v with st := .saving, imaged := true } ∧
        ∀ j < v.size, (t.hart (key j)).mem.pend = [] ∧ (t.hart (key j)).mem.pendLoad = none ∧ (t.hart (key j)).regs = (s.hart (key j)).regs ∧
          (t.hart (key j)).a.stop.isSome = true ∧ (t.hart (key j)).x.stop.isSome = true) ∧
    (v.st = .saving → v.imaged = true →
      let s1 := s.setCar c { v with imageAt := s.now }
      ∃ t, exec (.saveImageWritten c) s = .next t ∧
        t.carOf c = { v with imageAt := s.now, st := .saved, cores := [], savedNo := s.own.order } ∧
        t.harts = s.harts ∧
        ((∀ j < v.size, imageKey (key j) + 0x100000 ≤ spaceSize) → ∀ j < v.size,
          (∀ o < 0x8000, bytesNat (memBytes t.mem (imageKey (key j) + 8 * o) 8) = s1.imageRead (key j) (8 * o) % 2 ^ 64) ∧
          (∀ o < s.spLimit (key j), memGet t.mem (imageKey (key j) + 0x40000 + o) = memGet s.mem (keySpad (key j) o)))) ∧
    (placed → s.carDone c v = true →
      ∃ t, exec (.caravanRetire c) s = .next t ∧ kvGet t.cars c = none ∧ (t.sliceNo v.slice).retired = sl.retired + 1 ∧
        (sl.st = .ready → (t.sliceNo v.slice).st = if sl.retired + 1 ≥ sl.desc.count then .done else .ready)) ∧
    ((v.st = .held ∧ v.heldAt + 10000000 ≤ s.now) ∨ (placed ∧ ∃ j < v.size, (s.hart (key j)).tr.smode = true ∧
        (s.hart (key j)).tr.halted = false ∧ (s.hart (key j)).trapAt + 10000000 ≤ s.now) → sl.st = .ready →
      ∃ t, exec (.watchdogEndCaravan c) s = .next t ∧ (t.sliceNo v.slice).st = .ending ∧ (t.sliceNo v.slice).endAt = s.now)) ∧
    (∀ core c v k, s.onCore core = some (c, v, k) → (s.sliceNo v.slice).st = .ready →
      ∃ t, exec (.coreError core) s = .next t ∧ (t.sliceNo v.slice).st = .ending ∧
        (t.coreNo core).st = (if (s.coreNo core).st = .retired then .retired else .drained)) ∧
    (∀ core, s.coreHeld core = false →
      ((s.coreNo core).full = true →
        exec (.coreFuse core) s = .next (s.setCore core { s.coreNo core with st := .retired, full := false })) ∧
      ((s.coreNo core).st = .drained →
        exec (.operatorRetireRequest core) s = .next (s.setCore core { s.coreNo core with st := .retired, full := false }))) ∧
    (∀ die pick n rest cores units d t1, (s.disp die).quiesced = false → s.unitUp (.cd die) = true →
      s.passOrder die = n :: rest → s.firstSaved n = none → s.fit die n (s.sliceNo n).desc.shape [] = some cores →
      (s.sliceNo n).die = die → s.freeTags die ≠ [] →
      (s.disp die).allocate (s.sliceNo n).desc.privsz (s.sliceNo n).desc.shape = some (units, d) →
      s.tryPlace die n (pick % 256) = some t1 → t1.passOrder die = [] →
      exec (.dispatcherDecision die pick) s = .next t1 ∧
      ∃ id y, kvGet s.cars id = none ∧ kvGet t1.cars id = some y ∧ y.slice = n ∧ y.num = (s.sliceNo n).nextCar ∧
        y.cores = cores ∧ y.st = .running ∧ (t1.sliceNo n).nextCar = (s.sliceNo n).nextCar + 1)

/-- R146, R335, R337, R350, R352 to R358, R391, R399: how slices, regions, submissions and the nodes of graphs go on and
end; the value that each completion signal then holds, FAIL in bit 63; the COUNT that a LOOP node leaves; and the bytes that
a region's move carries to host memory.
It rests on log 43 to 47, 66, 84: the frame that a move takes and the address of an invalid slot's signal are the model's. -/
def Obligations.SliceAndGraphEvents : Prop :=
  ∀ s : State, s.Inv → s.dev.warm = none →
    let signals := fun (s t : State) (n : Nat) (fail : Bool) =>
      let sl := s.sliceNo n
      s.leaves t (s.signalOuts sl.ctx sl.desc.signal sl.desc.sigval fail)
    (∀ i n, s.findSlice i (fun sl => sl.st == .ending) = some n →
      ∃ t, exec (.sliceFailedEnd i) s = .next t ∧ (t.sliceNo n).st = .failed ∧ (∀ p ∈ t.cars, p.2.slice ≠ n) ∧
        (s.carsOf n = [] → signals s t n true)) ∧
    (∀ i n, s.findSlice i (fun sl => sl.st == .ending && (decide (s.now ≥ sl.endAt + 20000000) ||
        (sl.dogged && decide (s.now ≥ sl.endAt + 10000000)))) = some n →
      ∃ t, exec (.watchdogEndSlice i) s = .next t ∧ (t.sliceNo n).st = .failed ∧ (∀ p ∈ t.cars, p.2.slice ≠ n) ∧
        (s.carsOf n = [] → signals s t n true)) ∧
    (∀ c v t, kvGet s.cars c = some v → (v.st = .running ∨ v.st = .stopping) → s.carDone c v = true →
      (s.sliceNo v.slice).st = .ready → (s.sliceNo v.slice).desc.count ≤ (s.sliceNo v.slice).retired + 1 →
      exec (.caravanRetire c) s = .next t → signals (s.freeCar c v) t v.slice false) ∧
    (∀ i n, s.findSlice i (fun sl => (sl.st == .done || sl.st == .failed) && !sl.reported) = some n →
      ∃ t, exec (.endReport i) s = .next t ∧ (t.sliceNo n).reported = true ∧ t.mem = s.mem ∧
        ∀ m b, (s.sliceNo n).who = .slot m → kvGet s.subs m = some b →
          kvGet t.subs m = some { b with fin := some ((s.sliceNo n).st == .failed) }) ∧
    (∀ ctx n,
      let r := s.region ctx n
      (∃ t, exec (.hostDemand ctx n) s = .next t ∧ t.mem = s.mem ∧
        (r.st = .host → t.region ctx n = r) ∧ (r.st = .device → t.region ctx n = { r with st := .toHost }) ∧
        (r.st = .leased → t.region ctx n = { r with queue := r.queue ++ [.host] })) ∧
      (r.st ≠ .toHost → r.st ≠ .toDevice → exec (.regionMoveComplete ctx n) s = .next s) ∧
      (s.movePlace ctx n = false ∨ s.moveUp ctx n = false → exec (.regionMoveComplete ctx n) s = .next s) ∧
      (s.movePlace ctx n = true → s.moveUp ctx n = true → ∃ t, exec (.regionMoveComplete ctx n) s = .next t ∧
        (r.st = .toHost → r.queue = [] → (t.region ctx n).st = .host) ∧
        (∀ m, r.st = .toDevice → r.queue = [.slice m] → (t.region ctx n).st = .leased ∧ (t.region ctx n).leases = 1 ∧
          (t.region ctx n).queue = []) ∧
        (∀ e a, r.st = .toHost → (s.ctxNo ctx).root % 0x10000 = 0 → (s.ctxNo ctx).root < 2 ^ 56 →
          leafFrom s.mem (n * 0x200000) walkLevels (s.ctxNo ctx).root = some (e, 21, a, false) →
          ∃ f, leafFrom t.mem (n * 0x200000) walkLevels (s.ctxNo ctx).root = some (e, 21, f, true) ∧ ∀ o < 0x200000,
            memGet t.mem (keyHost f + o) = if poisoned s.poison (keyHbm a + o) 1 then 0 else memGet s.mem (keyHbm a + o)))) ∧
    (∀ fn q pick, (s.queue fn q).head ≠ (s.queue fn q).tail → s.cpUp fn = true →
      let x := Slot.ofNat (bytesNat (memBytes s.mem (keyHost ((s.queue fn q).base +
        64 * ((s.queue fn q).head.toNat % 2 ^ (s.queue fn q).lsize))) 64))
      ∃ t, exec (.submissionSlotRead fn q pick) s = .next t ∧ (t.queue fn q).head = (s.queue fn q).head + 1 ∧
        (t.queue fn q).tail = (s.queue fn q).tail ∧ t.mem = s.mem ∧
        (x.signal.toNat % 8 = 0 → s.dev.featSet = true → s.ctxUp x.ctx = true →
          (x.kind = 2 → x.addr.toNat % 64 = 0 → x.addr.toNat < 2 ^ 56 → ∃ g, (t.graph g).st = .running ∧
            (t.graph g).base = x.addr ∧ (t.graph g).ctx = x.ctx ∧ (t.graph g).pos = 0) ∧
          (∀ d, x.kind = 1 → s.ctxDesc x.ctx x.addr = some d → ∃ m, kvGet s.slices m = none ∧ (t.sliceNo m).ctx = x.ctx ∧
            (t.sliceNo m).desc = { d with rel := true, scope := 4 } ∧
            (s.doubleMapped x.ctx d = true → (t.sliceNo m).st = .ending) ∧
            (s.doubleMapped x.ctx d = false → (t.sliceNo m).st = .pending ∨ (t.sliceNo m).st = .ready))) ∧
        (x.signal.toNat % 8 = 0 → s.ctxUp x.ctx = false ∨ (x.kind ≠ 1 ∧ x.kind ≠ 2) → ∃ m, kvGet s.subs m = none ∧
          kvGet t.subs m = some { ctx := x.ctx, signal := x.signal, sigval := x.sigval, fin := some true })) ∧
    (∀ n b f, kvGet s.subs n = some b → b.fin = some f →
      ∃ t, exec (.submissionEnd n) s = .next t ∧ kvGet t.subs n = none ∧
        ((s.ctxNo b.ctx).valid = true → s.leaves t (s.signalOuts b.ctx b.signal b.sigval f)) ∧
        ((s.ctxNo b.ctx).valid = false → b.signal ≠ 0 → s.leaves t ((signalWord b.sigval f).zipIdx.map (fun x =>
          (some (keyHost (gVa b.signal + x.2)), some x.1)))) ∧
        (b.signal = 0 → t.mem = s.mem)) ∧
    (∀ g gr, kvGet s.graphs g = some gr → gr.st = .running → s.cpUp gr.io = true →
      let nd := s.nodeAt gr
      let word8 := s.ctxNat gr.ctx nd.addr 8
      let count := kvGetD gr.counts gr.pos 0
      (∀ w, gr.waiting = some w → nd.bounded = true → w.2 + nd.limit ≤ s.now →
        ∃ t, exec (.nodeLimitExpired g) s = .next t ∧ (t.graph g).st ≠ .running ∧ t.mem = s.mem) ∧
      (nd.bad = false → gr.pos < 2 ^ 24 →
        (nd.kind = 3 → ∃ t, exec (.nodeSignal g) s = .next t ∧ (t.graph g).pos = gr.pos + 1 ∧
          ∀ o < 8, ∀ x, translate s gr.ctx (gVa nd.addr + o) needW = some x →
            (∀ o' < 8, o' ≠ o → translate s gr.ctx (gVa nd.addr + o') needW ≠ some x) →
            memGet t.mem x = BitVec.ofNat 8 (nd.value / 2 ^ (8 * o))) ∧
        (nd.kind = 4 → ∃ t, exec (.nodeWait g) s = .next t ∧ t.mem = s.mem ∧
          (word8 < 2 ^ 63 → nd.value ≤ word8 → (t.graph g).pos = gr.pos + 1 ∧ (t.graph g).waiting = none) ∧
          (word8 < 2 ^ 63 → word8 < nd.value → (t.graph g).pos = gr.pos ∧ (gr.waiting = none → (t.graph g).waiting = some (gr.pos, s.now))) ∧
          (2 ^ 63 ≤ word8 → (t.graph g).st ≠ .running)) ∧
        (nd.kind = 5 → ∃ t, exec (.nodeCond g) s = .next t ∧ t.mem = s.mem ∧
          (t.graph g).pos = if word8 ≠ 0 then gr.pos + 1 else nd.target) ∧
        (nd.kind = 6 → ∃ t, exec (.nodeLoop g) s = .next t ∧
          (word8 ≠ 0 → count < nd.value → (t.graph g).pos = nd.target ∧ t.mem = s.mem ∧ kvGetD (t.graph g).counts gr.pos 0 = count + 1) ∧
          (word8 = 0 ∨ nd.value ≤ count → (t.graph g).pos = gr.pos + 1 ∧ kvGetD (t.graph g).counts gr.pos 0 = 0 ∧
            s.leaves t (s.ctxOuts gr.ctx (gr.base + word (64 * gr.pos + 32)) (natBytes count 4)))) ∧
        (nd.kind = 0 → gr.idle = true → ∃ t, exec (.nodeEnd g) s = .next t ∧ (t.graph g).st = .ended false ∧ t.mem = s.mem) ∧
        (∀ pick d, nd.kind = 1 → gr.waiting = none → s.ctxDesc gr.ctx nd.addr = some d →
          ∃ t n, exec (.nodeLaunch g pick) s = .next t ∧ kvGet s.slices n = none ∧ (t.sliceNo n).desc = d ∧
            (t.sliceNo n).ctx = gr.ctx ∧ (t.graph g).slices = gr.slices ++ [(n, gr.pos, none)] ∧
            (t.graph g).pos = if nd.sync then gr.pos else gr.pos + 1) ∧
        (nd.kind = 2 → gr.waiting = none → kvGet gr.copies gr.issued = none →
          s.graphBlockOk (.graph g gr.issued) gr.ctx (s.ctxNat gr.ctx nd.addr 64) (CopyBlock.ofNat (s.ctxNat gr.ctx nd.addr 64)) = true →
          (∀ cl < 16, s.placeFree (acceptEngine (.graph g gr.issued) gr.io cl) = true) →
          ∃ t r, exec (.nodeCopy g) s = .next t ∧ t.cmd (.graph g gr.issued) = some r ∧ (t.graph g).issued = gr.issued + 1 ∧
            (t.graph g).pos = if nd.sync then gr.pos else gr.pos + 1)))

/-- R7, R8, R136, R109, R373, R390 to R392, R395, R397, R398, R400, R401: what reads and writes of the device's registers
return and change, which image of Slorraroth is accepted, and how a replacement of it goes on.
It rests on logs 13, 27, 28, 69, 81, 91: the tests of an image's magic number and zero bytes are the model's choice; the ASID and the private root that a context takes, and the base of a new image's
handlers, are the model's free values. -/
def Obligations.RegisterWrites : Prop :=
  ∀ (s : State) (v : Word),
    (∀ fn q, fn < 2 → q < 32 →
      let hq := s.queue fn q
      (hq.base ≠ 0 → (v.setWidth 32 - hq.head).toNat ≤ 2 ^ hq.lsize →
        exec (.qtailWrite fn q v) s = .next (s.setQueue fn q { hq with tail := v.setWidth 32 })) ∧
      (hq.base = 0 ∨ 2 ^ hq.lsize < (v.setWidth 32 - hq.head).toNat → exec (.qtailWrite fn q v) s = .next s) ∧
      (hq.head = hq.tail → v.toNat % 64 = 0 → exec (.qbaseWrite fn q v) s = .next (s.setQueue fn q { hq with base := v.toNat })) ∧
      (hq.head = hq.tail → 4 ≤ v.toNat → v.toNat ≤ 16 →
        exec (.qsizeWrite fn q v) s = .next (s.setQueue fn q { hq with lsize := v.toNat })) ∧
      (v.toNat % 64 ≠ 0 → exec (.qbaseWrite fn q v) s = .next s) ∧
      (v.toNat < 4 ∨ 16 < v.toNat → exec (.qsizeWrite fn q v) s = .next s) ∧
      (hq.head ≠ hq.tail → exec (.qbaseWrite fn q v) s = .next s ∧ exec (.qsizeWrite fn q v) s = .next s)) ∧
    (∀ ctx, ctx < 4096 →
      let c := s.ctxNo ctx
      (v.getLsbD 0 = true → c.valid = true → exec (.ctxctlWrite ctx v) s = .next s) ∧
      (v.getLsbD 0 = true → c.valid = false → ∃ a p, p % 0x10000 = 0 ∧ p < 2 ^ 56 ∧
        exec (.ctxctlWrite ctx v) s = .next (s.setCtx ctx { c with valid := true, asid := a, proot := p })) ∧
      (v.getLsbD 0 = false → s.ctxBusy ctx = true → exec (.ctxctlWrite ctx v) s = .next s) ∧
      (v.getLsbD 0 = false → s.ctxBusy ctx = false → ∃ t, exec (.ctxctlWrite ctx v) s = .next t ∧
        t.ctxNo ctx = { c with valid := false, failed := false } ∧ t.mem = s.mem) ∧
      (c.valid = false → exec (.ctxrootWrite ctx v) s = .next (s.setCtx ctx { c with root := v.toNat / 2 ^ 16 % 2 ^ 40 * 2 ^ 16 })) ∧
      (c.valid = true → exec (.ctxrootWrite ctx v) s = .next s) ∧
      (exec (.registerWrite (.ctxallow ctx) v) s = .next (s.setCtx ctx { c with allow := v.toNat })) ∧
      (∀ n j, n < 16 → j < 4 → ∃ t, exec (.registerWrite (.rwin ctx n j) v) s = .next t ∧
        (kvGetD (t.ctxNo ctx).rwins n (Vector.replicate 4 0))[four j] = v &&& rwinMask j ∧ t.mem = s.mem) ∧
      (∀ n j, n < 16 → j < 4 → ∃ t, exec (.registerWrite (.exprt ctx n j) v) s = .next t ∧
        (kvGetD (t.ctxNo ctx).expts n (Vector.replicate 4 0))[four j] = v &&& exptMask j ∧ t.mem = s.mem)) ∧
    (∀ o, exec (.registerWrite (.readOnly o) v) s = .next s) ∧
    (∀ fn, fn < 2 → s.dev.coldReq = false →
      let reads := fun (off : Nat) (x : Word) => s.barAccess fn off 8 none = .next { s with dev := { s.dev with barRead := some x } }
      let writes := fun (off : Nat) (i : Instr) => s.barAccess fn off 8 (some v) = exec i s
      reads 0x0 s.dev.ready ∧ reads 0x8 (s.dev.featoff.setWidth 64) ∧ reads 0x10 (s.dev.featreq.setWidth 64) ∧
      reads 0x20 (s.dev.fwstage.get (function fn)) ∧
      (∃ x, reads 0x18 x ∧ x.getLsbD 0 = s.dev.slotB ∧ x.getLsbD 1 = s.dev.last ∧ x.toNat / 2 ^ 16 = s.dev.svn % 2 ^ 16 ∧
        x.toNat / 4 % 2 ^ 14 = 0) ∧
      (∀ off ∈ ([0x0, 0x8, 0x18] : List Nat), s.barAccess fn off 8 (some v) = .next s) ∧
      writes 0x10 (.featreqWrite v) ∧ writes 0x20 (.fwstageWrite fn v) ∧
      (∀ q < 32, let o := 0x10000 + 0x40 * q
        reads o (word (s.queue fn q).base) ∧ reads (o + 0x8) (word (s.queue fn q).lsize) ∧
        reads (o + 0x10) ((s.queue fn q).tail.setWidth 64) ∧ reads (o + 0x18) ((s.queue fn q).head.setWidth 64) ∧
        writes o (.qbaseWrite fn q v) ∧ writes (o + 0x8) (.qsizeWrite fn q v) ∧ writes (o + 0x10) (.qtailWrite fn q v) ∧
        s.barAccess fn (o + 0x18) 8 (some v) = .next s) ∧
      (∀ c < 4096, let o := 0x100000 + 0x1000 * c
        reads o (word ((if (s.ctxNo c).valid then 1 else 0) + if (s.ctxNo c).failed then 2 else 0)) ∧
        reads (o + 0x8) (word (s.ctxNo c).root) ∧ reads (o + 0x10) (word (s.ctxNo c).allow) ∧
        writes o (.ctxctlWrite c v) ∧ writes (o + 0x8) (.ctxrootWrite c v) ∧ writes (o + 0x10) (.registerWrite (.ctxallow c) v) ∧
        (∀ n j, n < 16 → j < 4 →
          reads (o + 0x100 + 0x20 * n + 8 * j) (kvGetD (s.ctxNo c).rwins n (Vector.replicate 4 0))[four j] ∧
          reads (o + 0x400 + 0x20 * n + 8 * j) (kvGetD (s.ctxNo c).expts n (Vector.replicate 4 0))[four j] ∧
          writes (o + 0x100 + 0x20 * n + 8 * j) (.registerWrite (.rwin c n j) v) ∧
          writes (o + 0x400 + 0x20 * n + 8 * j) (.registerWrite (.exprt c n j) v))) ∧
      (∀ off size, size ≠ 8 → s.barAccess fn off size (some v) = .next s ∧
        s.barAccess fn off size none = .next { s with dev := { s.dev with barRead := some 0 } })) ∧
    ((∃ x ∈ s.ctxs, x.2.valid = true) → exec (.featreqWrite v) s = .next s) ∧
    ((∀ x ∈ s.ctxs, x.2.valid = false) → exec (.featreqWrite v) s =
      .next { s with dev := { s.dev with featreq := v.setWidth 4, feat := s.dev.featoff &&& v.setWidth 4, featSet := true } }) ∧
    (∀ (img : FwImage) (kh : BitVec 512) (m : Nat), img.accepted kh m = true ↔
      img.head.extractLsb' 0 32 = 0x534C5230 ∧ img.head.extractLsb' 48 16 = 0 ∧ img.head.extractLsb' 1696 352 = 0 ∧
      Config.sha512 Config.signKey = kh ∧
      Config.verifies Config.signKey (img.bytes 0 80) (img.sigPart 80) (img.sigPart 146) = true ∧
      img.body.length = (img.head.extractLsb' 64 64).toNat ∧ Config.sha512 img.body = img.head.extractLsb' 128 512 ∧
      m ≤ (img.head.extractLsb' 32 16).toNat) ∧
    (s.dev.repl = none → ∀ fn : Nat,
      let img := s.imageAt v.toNat
      ∃ t, exec (.fwstageWrite fn v) s = .next t ∧ t.dev.fwstage = s.dev.fwstage.set (function fn) v ∧ t.mem = s.mem ∧ t.harts = s.harts ∧
      (s.dev.feat.getLsbD 3 = false → t.dev.staged = some img) ∧
      (s.dev.feat.getLsbD 3 = true → img.accepted s.dev.keyHash s.dev.minSvn = false → t.dev.last = true ∧ t.dev.repl = none) ∧
      (s.dev.feat.getLsbD 3 = true → img.accepted s.dev.keyHash s.dev.minSvn = true → t.dev.repl = some ⟨img, s.now, s.fwState⟩ ∧
        t.dev.inactive = img ∧ t.dev.slotB = s.dev.slotB ∧ t.dev.minSvn = max s.dev.minSvn img.svn ∧
        t.dev.ready = s.dev.ready &&& ~~~0xC#64)) ∧
    (∀ r, s.dev.repl = some r →
      let owed := ∀ p ∈ s.slices, p.2.owed = false
      let ready := if s.dev.fwUp = true ∧ s.dev.warm = none ∧ s.dev.coldReq = false then s.dev.ready ||| 0xC else s.dev.ready
      let reads := fun (t : State) => owed → (∀ g gr p, kvGet s.graphs g = some gr → kvGet r.saved.graphs g = some p → (t.graph g).pos = p) ∧
        ∀ x hq o, kvGet s.queues x = some hq → kvGet r.saved.queues x = some o → kvGet t.queues x = some { hq with head := o.head }
      (s.now ≤ r.since + 100000000 → ∃ t, exec .fwReplacementComplete s = .next t ∧ t.dev.repl = none ∧ t.dev.last = false ∧
        t.dev.slotB = !s.dev.slotB ∧ t.dev.ready = ready ∧ reads t ∧
        (owed → t.mem = s.mem ∧ ∀ k h, kvGet s.harts k = some h → t.hart k = { h with tr := { h.tr with tvec := t.dev.tvec } }) ∧
        ∀ n sl, kvGet s.slices n = some sl → sl.owed = true → sl.st = .ready → (t.sliceNo n).st = .ending) ∧
      (s.now > r.since + 100000000 → ∃ t, exec .fwReplacementTimeout s = .next t ∧ t.dev.repl = none ∧ t.dev.last = true ∧
        t.dev.slotB = s.dev.slotB ∧ t.dev.ready = ready ∧ reads t ∧ (owed → t.harts = s.harts ∧ t.mem = s.mem) ∧
        ∀ n sl, kvGet s.slices n = some sl → sl.owed = true → sl.st = .ready → (t.sliceNo n).st = .ending)) ∧
    (∀ n, n < 288 → exec (.deviceNumberAssign n) s = .next { s with dev := { s.dev with number := n } }) ∧
    (∀ k h, kvGet s.harts k = some h →
      (∃ t, exec (.stickyClear k v) s = .next t ∧ (t.hart k).csr = { h.csr with sticky := h.csr.sticky &&& ~~~(v.setWidth 4) } ∧
        (t.hart k).regs = h.regs ∧ t.mem = s.mem) ∧
      (∀ q < 4, h.tr.smode = true → (v.extractLsb' 8 8 - v.extractLsb' 0 8).toNat ≤ 16 →
        ∃ t, exec (.queueIndexWordWrite k (0x20 + q) v) s = .next t ∧ ((t.hart k).q.toX[four q]).head = v.extractLsb' 0 8 ∧
          ((t.hart k).q.toX[four q]).items.length = (v.extractLsb' 8 8 - v.extractLsb' 0 8).toNat ∧ (t.hart k).regs = h.regs) ∧
      (h.tr.smode = false → h.tr.halted = false → ∀ code, exec (.queueIndexWordWrite k code v) s = .next s))

/-- R371 to R373: a halt is requested, takes effect once what the hart has admitted has drained, and ends; a halted hart's
state is read and written through the debug block, and that of a running hart is not; DBGCTL is reachable at all times, on a
core without a hart too.
It rests on log 51. -/
def Obligations.DebugAccess : Prop :=
  ∀ (s : State) (core : Nat),
   (s.onCore core = none →
    (exec (.debugBlockAccess core 0x30000 none) s = .next { s with dev := { s.dev with dbgRead := (s.coreNo core).dbg.setWidth 64 <<< 3 } }) ∧
    (∀ x, exec (.debugBlockAccess core 0x30000 (some x)) s = .next (s.setCore core { s.coreNo core with dbg := x.extractLsb' 3 5 })) ∧
    (∀ off, off ≠ 0x30000 → exec (.debugBlockAccess core off none) s = .next { s with dev := { s.dev with dbgRead := 0 } } ∧
      ∀ x, exec (.debugBlockAccess core off (some x)) s = .next s)) ∧
   ∀ (c : CarId) (v : Caravan) (k : HartKey), s.onCore core = some (c, v, k) →
    let h := s.hart k
    (h.tr.halted = false → h.tr.cvhalt = false →
      ∃ t, exec (.dbgctlHaltreq core) s = .next t ∧ (t.hart k).tr.haltreq = true ∧ (t.hart k).regs = h.regs ∧ t.mem = s.mem ∧
        ∀ o, o ≠ k → t.hart o = s.hart o) ∧
    (h.tr.haltreq = true → h.calm .X = true → h.mem.pend = [] →
      (∀ q : Fin 4, ∀ e ∈ (h.q.vload[q]).items, e.visible = true) →
      ∃ t, exec (.hartHalted core) s = .next t ∧ (t.hart k).tr.halted = true ∧
      (t.hart k).tr.haltreq = false ∧ (t.hart k).regs = h.regs ∧ (t.hart k).a.pc = h.a.pc ∧ (t.hart k).x.pc = h.x.pc ∧ t.mem = s.mem) ∧
    (h.mem.pendLoad ≠ none ∨ h.mem.mid ≠ none ∨ h.mem.pend ≠ [] → exec (.hartHalted core) s = .next s) ∧
    (h.tr.halted = true → ∃ t, exec (.dbgctlResume core) s = .next t ∧ (t.hart k).tr.halted = false ∧
      (t.hart k).regs = h.regs ∧ (t.hart k).a = h.a ∧ (t.hart k).x = h.x ∧ t.mem = s.mem) ∧
    (h.tr.halted = true → ∀ r : Reg,
      (exec (.debugBlockAccess core (0x100 + 8 * r.toNat) none) s = .next { s with dev := { s.dev with dbgRead := h.readA r } }) ∧
      (∀ x, exec (.debugBlockAccess core (0x100 + 8 * r.toNat) (some x)) s = .next (s.modHart k (fun h => h.writeA r x)))) ∧
    (∃ t, exec (.debugBlockAccess core 0x30000 none) s = .next t ∧
      t = { s with dev := { s.dev with dbgRead := t.dev.dbgRead } } ∧ t.dev.dbgRead.getLsbD 3 = h.tr.stepa ∧
      t.dev.dbgRead.getLsbD 4 = h.tr.stepx ∧ t.dev.dbgRead.getLsbD 5 = h.tr.brkdbg ∧ t.dev.dbgRead.getLsbD 6 = h.tr.stepdbg ∧
      t.dev.dbgRead.getLsbD 7 = h.tr.cvhalt ∧ t.dev.dbgRead.getLsbD 8 = h.tr.halted ∧
      t.dev.dbgRead.toNat < 512 ∧ t.dev.dbgRead.toNat % 8 = 0) ∧
    (∀ x : Word, x.getLsbD 0 = false → x.getLsbD 1 = false →
      ∃ t, exec (.debugBlockAccess core 0x30000 (some x)) s = .next t ∧ t.mem = s.mem ∧
        t.hart k = { h with tr := { h.tr with stepa := x.getLsbD 3, stepx := x.getLsbD 4, brkdbg := x.getLsbD 5,
                                              stepdbg := x.getLsbD 6, cvhalt := x.getLsbD 7 } }) ∧
    (h.tr.halted = false → ∀ off, off ≠ 0x30000 →
      (exec (.debugBlockAccess core off none) s = .next { s with dev := { s.dev with dbgRead := 0 } }) ∧
      (∀ x, exec (.debugBlockAccess core off (some x)) s = .next s))

/-- R268, R378 to R382, R386, R387, R393, R394, R397, R399: resets, losses of power, units that become ready or fail, wear,
clocks that slow, and the watchdog's steps with their limits.
It rests on logs 24, 26, 28, 48, 49, 50: the factors of a core that an accrual does not name are the model's free values, and
a die that a turn lets answer no more keeps its slices ENDING (R399, step 4). -/
def Obligations.DeviceEvents : Prop :=
  ∀ s : State,
    let twice := ∃ a b rest, s.dev.restarts = a :: b :: rest ∧ a ≤ b + 1000000000
    let active := fun (d : Nat) => ∃ p ∈ s.slices, p.2.die = d ∧ (p.2.st = .ready ∨ p.2.st = .ending)
    let unquiet := ∃ d ∈ s.disps, d.2.quiesced = true ∧ d.2.quietAt + 100000000 ≤ s.now ∧ active d.1
    (∀ r, s.dev.warm = none →
      let resets := fun (i : Instr) =>
        exec i s = .next { s with dev := { s.dev with warm := some (r, s.now), failing := s.lost r } }
      resets (.warmReset r) ∧ (twice ∨ unquiet → resets (.watchdogWarmReset r)) ∧
      (¬twice → ¬unquiet → exec (.watchdogWarmReset r) s = .next s)) ∧
    (∀ r t0, s.dev.warm = some (r, t0) →
      (s.now < t0 + 50000000 → ∃ t, exec .warmResetReady s = .next t ∧ t.harts = [] ∧ t.cars = [] ∧ t.slices = [] ∧
        t.graphs = [] ∧ t.books = [] ∧ t.meshes = [] ∧ t.subs = [] ∧ t.dev.warm = none ∧ t.dev.repl = none ∧ t.now = s.now ∧
        (∀ c, kvGet s.ctxs c ≠ none → ((t.ctxNo c).failed = true ↔ (s.ctxNo c).failed = true ∨ c ∈ s.dev.failing)) ∧
        ∀ n, (t.coreNo n).wear = (s.coreNo n).wear) ∧
      (t0 + 50000000 ≤ s.now → exec .coldResetRequest s =
        .next { s with dev := { s.dev with ready := 0, coldReq := true, msix := true } })) ∧
    (s.dev.coldReq = true → ∀ fn < 2, ∀ off size, (∀ v, s.barAccess fn off size (some v) = .next s) ∧
      s.barAccess fn off size none = .next { s with dev := { s.dev with barRead := none } }) ∧
    (let a := s.dev.imgA
      let b := s.dev.imgB
      let ok := fun (i : FwImage) => i.accepted s.dev.keyHash s.dev.minSvn
      let act := if s.dev.slotB then b else a
      let other := if s.dev.slotB then a else b
      ∃ t, exec (.coldReset () ()) s = .next t ∧ t.dev.imgA = a ∧ t.dev.imgB = b ∧ t.now = 0 ∧ t.harts = [] ∧ t.cars = [] ∧ t.slices = [] ∧ t.queues = [] ∧
      t.ctxs = [] ∧ t.dev.ready = 0 ∧ t.dev.off = false ∧ t.dev.warm = none ∧ t.dev.keyHash = s.dev.keyHash ∧
      (ok act = true → t.dev.fwUp = true ∧ t.dev.slotB = s.dev.slotB ∧ t.dev.svn = act.svn ∧ t.dev.minSvn = max s.dev.minSvn act.svn) ∧
      (ok act = false → ok other = true → t.dev.fwUp = true ∧ t.dev.slotB = !s.dev.slotB ∧ t.dev.svn = other.svn) ∧
      (ok act = false → ok other = false → t.dev.fwUp = false ∧ t.dev.minSvn = s.dev.minSvn) ∧
      ∀ n, (t.coreNo n).wear = (s.coreNo n).nvWear ∧ (t.coreNo n).st = (s.coreNo n).st ∧
        ((s.coreNo n).capped = true → (t.coreNo n).capped = true)) ∧
    (exec .powerLoss s = .next { s with dev := { s.dev with off := true, ready := 0 } }) ∧
    (exec .thermalShutdown s = .next { s with dev := { s.dev with off := true, ready := 0 } }) ∧
    (∀ u, s.canReady u = true → s.dev.warm = none → ∃ t, exec (.unitReady u) s = .next t ∧ t.unitUp u = true ∧ t.mem = s.mem) ∧
    (∀ n < 4, s.canReady (.cd n) = true ↔ (∀ j < 3, s.unitUp (.hbm (3 * n + j)) = true) ∧ (s.disp n).quiesced = false) ∧
    (∀ u, ∃ t, exec (.unitFailure u) s = .next t ∧ t.unitUp u = false ∧ t.now = s.now) ∧
    (∀ rates core, s.dev.accrued + 1000000 ≤ s.now → core < 512 → (s.coreNo core).st ≠ .retired →
      ∃ bti em t, (∀ x, rates.find? (fun r => r.1 == core) = some x → x.2 = (bti, em)) ∧
        let w := (s.coreNo core).wear + max bti em
        exec (.wearAccrual rates) s = .next t ∧ t.dev.accrued = s.dev.accrued + 1000000 ∧
        (t.coreNo core).wear = w ∧ (w ≥ 209000000000000 → (t.coreNo core).st = .drained) ∧
        (187000000000000 ≤ w → w < 209000000000000 → (s.coreNo core).st = .nominal → (t.coreNo core).st = .derated) ∧
        (w ≥ 187000000000000 ∨ (s.coreNo core).capped = true → (t.coreNo core).capped = true) ∧
        (w ≥ 220000000000000 → (t.coreNo core).full = true)) ∧
    (∀ k, ((s.csrRead k .A .wearst).extractLsb' 16 16).toNat = if (s.coreNo (s.coreOf k)).capped = true then 2400 else 2900) ∧
    (∀ rates, s.now < s.dev.accrued + 1000000 → exec (.wearAccrual rates) s = .next s) ∧
    (∀ i ∈ ([.wearRecordSave, .orderlyShutdown] : List Instr), ∃ t, exec i s = .next t ∧ t.mem = s.mem ∧
      ∀ n, (t.coreNo n).nvWear = (t.coreNo n).wear ∧ (t.coreNo n).wear = (s.coreNo n).wear) ∧
    (∀ core, (∃ t, exec (.supplySag core) s = .next t ∧ (t.coreNo core).sag = true ∧ t.mem = s.mem) ∧
      (∃ t, exec (.supplyRecovery core) s = .next t ∧ (t.coreNo core).sag = false ∧ t.mem = s.mem)) ∧
    (∀ die n, n < 128 →
      (∃ t, exec (.thermalThrottle die) s = .next t ∧ (t.coreNo (128 * die + n)).heat = true ∧ t.mem = s.mem) ∧
      (∃ t, exec (.thermalRecovery die) s = .next t ∧ (t.coreNo (128 * die + n)).heat = false ∧ t.mem = s.mem)) ∧
    (let lost := (∃ b ∈ s.dev.beats.toList, b + 50000000 ≤ s.now) ∨ ∃ p ∈ s.slices, p.2.st = .ending ∧ p.2.endAt + 40000000 ≤ s.now;
      (¬lost → exec .cpRestart s = .next s) ∧
      (lost → s.dev.warm = none → ∃ t, exec .cpRestart s = .next t ∧ t.dev.repl = none ∧ t.dev.restarts.head? = some s.now ∧
        t.dev.beats.toList = [s.now, s.now] ∧ t.dev.slotB = (s.dev.slotB != s.dev.inactive.accepted s.dev.keyHash s.dev.minSvn) ∧
        ((∀ p ∈ s.slices, p.2.owed = false) → t.mem = s.mem ∧
          ∀ k h, kvGet s.harts k = some h → t.hart k = { h with tr := { h.tr with tvec := t.dev.tvec } }))) ∧
    (∀ die, die < 4 → s.dev.warm = none →
      let due := (s.disp die).swept = true ∨
        ∃ r rest, s.dev.restarts = r :: rest ∧ r + 100000000 ≤ s.now ∧ ∃ b ∈ s.dev.beats.toList, b ≤ r;
      (¬due → exec (.dieQuiesce die) s = .next s) ∧
      (due → ∃ t, exec (.dieQuiesce die) s = .next t ∧ (t.disp die).quiesced = true ∧ t.unitUp (.cd die) = false ∧
        ((s.disp die).quiesced = false → (t.disp die).quietAt = s.now) ∧
        ∀ p ∈ s.slices, p.2.die = die → p.2.st = .ready → kvGet s.slices p.1 = some p.2 →
          (t.sliceNo p.1).st = if s.own.defer then .ending else .failed))

/-- R402: each SPDM request in order is answered, and one out of order with an error; digests and the certificate are those
of slot 0, and measurements cover the ROM, both images, the fuses and the features, as they stand.
It rests on log 29, 30, 81: the order of requests is SPDM 1.3's, and the chain, the ROM's code, the hash and the signatures
are opaque values of Config. -/
def Obligations.Attestation : Prop :=
  ∀ (s : State) (fn : Nat), fn < 2 →
    let c := s.spdm fn
    let d := s.dev
    let answers := fun (i : Instr) (a : SpdmAnswer) => ∃ t, exec i s = .next t ∧ (t.spdm fn).last = some a ∧ t.mem = s.mem ∧ t.harts = s.harts
    answers (.getVersion fn) .version ∧
    (c.version = true → answers (.getCapabilities fn) .capabilities) ∧
    (c.version = false → answers (.getCapabilities fn) .error) ∧
    (c.caps = true → answers (.negotiateAlgorithms fn true true) .algorithms) ∧
    (∀ a b, a = false ∨ b = false → answers (.negotiateAlgorithms fn a b) .error) ∧
    (c.algs = true → answers (.getDigests fn) (.digests (Config.sha512 Config.certChain)) ∧
      answers (.getCertificate fn 0) (.certificate 0 Config.certChain) ∧
      (∀ n, n ≠ 0 → answers (.getCertificate fn n) .error) ∧
      (∀ nonce, ∃ sig, answers (.challenge fn nonce) (.challenge nonce sig)) ∧
      (∃ sig, answers (.getMeasurements fn 255) (.measurements
        [.rom (Config.sha512 Config.romCode), .active d.active.head (d.active.head.extractLsb' 128 512), .inactive d.inactive.head,
         .fuses d.minSvn d.fuses d.keyHash, .feat d.feat] sig)) ∧
      (∃ sig, answers (.getMeasurements fn 1) (.measurements [.rom (Config.sha512 Config.romCode)] sig)) ∧
      (∃ sig, answers (.getMeasurements fn 0) (.measurements [] sig)) ∧
      (∀ n, 5 < n → n ≠ 255 → answers (.getMeasurements fn n) .error)) ∧
    (c.algs = false → ∀ i ∈ ([.getDigests fn, .getCertificate fn 0, .challenge fn 0, .getMeasurements fn 255] : List Instr),
      answers i .error)

/-! ### Reset and invariants -/

/-- R33, R46, R107, R134, R206, R333, R359, R384, R391: what the rules of reset state: the almanac at 0, VT 0x14, QWAIT
0xF4240, PREGRACE 20000, empty queues, a host queue of 16 slots, no launch counted. Nothing here is one of the values
of log 5. The machine after reset meets the invariant. -/
def Obligations.ResetState : Prop :=
  State.reset.Inv ∧ State.reset.now = 0 ∧ State.reset.harts = [] ∧ State.reset.cars = [] ∧
  (∀ fn q, State.reset.queue fn q = { base := 0, lsize := 4, tail := 0, head := 0 }) ∧
  (∀ die, (State.reset.disp die).launches = 0) ∧
  (∀ k, let h := State.reset.hart k
    h.csr.vt = 0x14 ∧ h.csr.qwait = 0xF4240 ∧ h.tr.pregrace = 20000 ∧ h.csr.fflags = 0 ∧ h.regs.psm = 0 ∧ h.tr.smode = false ∧
    (∀ q : Fin 4, h.q.vload[q].items = [] ∧ h.q.vstore[q].items = [] ∧ h.q.toX[q].items = [] ∧ h.q.toA[q].items = []) ∧
    h.q.len.items = [])

/-- Every step keeps memory and poison in their canonical forms, so that equal memories are equal data.
It rests on log 4: the canonical form of memory is the model's. -/
def Obligations.StepKeepsTheInvariant : Prop := ∀ s t : State, s.Inv → step s = .next t → t.Inv
end

