-- ==== Sys2Proof/Laws/Dispatch.lean ====
section
/-! SUPPORT. Each arm of the dispatch: what `exec` does with a constructor is its meaning. -/

namespace Sys2Proof.Laws
open Sys2Proof Sys2Proof.Machine

@[simp] theorem exec_add (s : State) (x0) (x1) (x2) :
    exec (.add x0 x1 x2) s = execAdd x0 x1 x2 s := rfl
@[simp] theorem exec_sub (s : State) (x0) (x1) (x2) :
    exec (.sub x0 x1 x2) s = execSub x0 x1 x2 s := rfl
@[simp] theorem exec_and (s : State) (x0) (x1) (x2) :
    exec (.and x0 x1 x2) s = execAnd x0 x1 x2 s := rfl
@[simp] theorem exec_or (s : State) (x0) (x1) (x2) :
    exec (.or x0 x1 x2) s = execOr x0 x1 x2 s := rfl
@[simp] theorem exec_xor (s : State) (x0) (x1) (x2) :
    exec (.xor x0 x1 x2) s = execXor x0 x1 x2 s := rfl
@[simp] theorem exec_sll (s : State) (x0) (x1) (x2) :
    exec (.sll x0 x1 x2) s = execSll x0 x1 x2 s := rfl
@[simp] theorem exec_srl (s : State) (x0) (x1) (x2) :
    exec (.srl x0 x1 x2) s = execSrl x0 x1 x2 s := rfl
@[simp] theorem exec_sra (s : State) (x0) (x1) (x2) :
    exec (.sra x0 x1 x2) s = execSra x0 x1 x2 s := rfl
@[simp] theorem exec_slt (s : State) (x0) (x1) (x2) :
    exec (.slt x0 x1 x2) s = execSlt x0 x1 x2 s := rfl
@[simp] theorem exec_sltn (s : State) (x0) (x1) (x2) :
    exec (.sltn x0 x1 x2) s = execSltn x0 x1 x2 s := rfl
@[simp] theorem exec_min (s : State) (x0) (x1) (x2) :
    exec (.min x0 x1 x2) s = execMin x0 x1 x2 s := rfl
@[simp] theorem exec_max (s : State) (x0) (x1) (x2) :
    exec (.max x0 x1 x2) s = execMax x0 x1 x2 s := rfl
@[simp] theorem exec_minn (s : State) (x0) (x1) (x2) :
    exec (.minn x0 x1 x2) s = execMinn x0 x1 x2 s := rfl
@[simp] theorem exec_maxn (s : State) (x0) (x1) (x2) :
    exec (.maxn x0 x1 x2) s = execMaxn x0 x1 x2 s := rfl
@[simp] theorem exec_mul (s : State) (x0) (x1) (x2) :
    exec (.mul x0 x1 x2) s = execMul x0 x1 x2 s := rfl
@[simp] theorem exec_mulh (s : State) (x0) (x1) (x2) :
    exec (.mulh x0 x1 x2) s = execMulh x0 x1 x2 s := rfl
@[simp] theorem exec_mulhn (s : State) (x0) (x1) (x2) :
    exec (.mulhn x0 x1 x2) s = execMulhn x0 x1 x2 s := rfl
@[simp] theorem exec_div (s : State) (x0) (x1) (x2) :
    exec (.div x0 x1 x2) s = execDiv x0 x1 x2 s := rfl
@[simp] theorem exec_divn (s : State) (x0) (x1) (x2) :
    exec (.divn x0 x1 x2) s = execDivn x0 x1 x2 s := rfl
@[simp] theorem exec_rem (s : State) (x0) (x1) (x2) :
    exec (.rem x0 x1 x2) s = execRem x0 x1 x2 s := rfl
@[simp] theorem exec_remn (s : State) (x0) (x1) (x2) :
    exec (.remn x0 x1 x2) s = execRemn x0 x1 x2 s := rfl
@[simp] theorem exec_clz (s : State) (x0) (x1) :
    exec (.clz x0 x1) s = execClz x0 x1 s := rfl
@[simp] theorem exec_ctz (s : State) (x0) (x1) :
    exec (.ctz x0 x1) s = execCtz x0 x1 s := rfl
@[simp] theorem exec_popc (s : State) (x0) (x1) :
    exec (.popc x0 x1) s = execPopc x0 x1 s := rfl
@[simp] theorem exec_brev (s : State) (x0) (x1) :
    exec (.brev x0 x1) s = execBrev x0 x1 s := rfl
@[simp] theorem exec_addi (s : State) (x0) (x1) (x2) :
    exec (.addi x0 x1 x2) s = execAddi x0 x1 x2 s := rfl
@[simp] theorem exec_andi (s : State) (x0) (x1) (x2) :
    exec (.andi x0 x1 x2) s = execAndi x0 x1 x2 s := rfl
@[simp] theorem exec_ori (s : State) (x0) (x1) (x2) :
    exec (.ori x0 x1 x2) s = execOri x0 x1 x2 s := rfl
@[simp] theorem exec_xori (s : State) (x0) (x1) (x2) :
    exec (.xori x0 x1 x2) s = execXori x0 x1 x2 s := rfl
@[simp] theorem exec_slli (s : State) (x0) (x1) (x2) :
    exec (.slli x0 x1 x2) s = execSlli x0 x1 x2 s := rfl
@[simp] theorem exec_srli (s : State) (x0) (x1) (x2) :
    exec (.srli x0 x1 x2) s = execSrli x0 x1 x2 s := rfl
@[simp] theorem exec_srai (s : State) (x0) (x1) (x2) :
    exec (.srai x0 x1 x2) s = execSrai x0 x1 x2 s := rfl
@[simp] theorem exec_slti (s : State) (x0) (x1) (x2) :
    exec (.slti x0 x1 x2) s = execSlti x0 x1 x2 s := rfl
@[simp] theorem exec_lih (s : State) (x0) (x1) :
    exec (.lih x0 x1) s = execLih x0 x1 s := rfl
@[simp] theorem exec_beq (s : State) (x0) (x1) (x2) :
    exec (.beq x0 x1 x2) s = execBeq x0 x1 x2 s := rfl
@[simp] theorem exec_bne (s : State) (x0) (x1) (x2) :
    exec (.bne x0 x1 x2) s = execBne x0 x1 x2 s := rfl
@[simp] theorem exec_blt (s : State) (x0) (x1) (x2) :
    exec (.blt x0 x1 x2) s = execBlt x0 x1 x2 s := rfl
@[simp] theorem exec_bge (s : State) (x0) (x1) (x2) :
    exec (.bge x0 x1 x2) s = execBge x0 x1 x2 s := rfl
@[simp] theorem exec_bltn (s : State) (x0) (x1) (x2) :
    exec (.bltn x0 x1 x2) s = execBltn x0 x1 x2 s := rfl
@[simp] theorem exec_bgen (s : State) (x0) (x1) (x2) :
    exec (.bgen x0 x1 x2) s = execBgen x0 x1 x2 s := rfl
@[simp] theorem exec_jal (s : State) (x0) (x1) :
    exec (.jal x0 x1) s = execJal x0 x1 s := rfl
@[simp] theorem exec_jalr (s : State) (x0) (x1) (x2) :
    exec (.jalr x0 x1 x2) s = execJalr x0 x1 x2 s := rfl
@[simp] theorem exec_loop (s : State) (x0) (x1) :
    exec (.loop x0 x1) s = execLoop x0 x1 s := rfl
@[simp] theorem exec_loopi (s : State) (x0) (x1) :
    exec (.loopi x0 x1) s = execLoopi x0 x1 s := rfl
@[simp] theorem exec_lidx (s : State) (x0) (x1) :
    exec (.lidx x0 x1) s = execLidx x0 x1 s := rfl
@[simp] theorem exec_lbrk (s : State) (x0) :
    exec (.lbrk x0) s = execLbrk x0 s := rfl
@[simp] theorem exec_csrr (s : State) (x0) (x1) :
    exec (.csrr x0 x1) s = execCsrr x0 x1 s := rfl
@[simp] theorem exec_csrw (s : State) (x0) (x1) (x2) :
    exec (.csrw x0 x1 x2) s = execCsrw x0 x1 x2 s := rfl
@[simp] theorem exec_csrs (s : State) (x0) (x1) (x2) :
    exec (.csrs x0 x1 x2) s = execCsrs x0 x1 x2 s := rfl
@[simp] theorem exec_csrc (s : State) (x0) (x1) (x2) :
    exec (.csrc x0 x1 x2) s = execCsrc x0 x1 x2 s := rfl
@[simp] theorem exec_ecall (s : State) :
    exec .ecall s = execEcall s := rfl
@[simp] theorem exec_eret (s : State) :
    exec .eret s = execEret s := rfl
@[simp] theorem exec_brk (s : State) :
    exec .brk s = execBrk s := rfl
@[simp] theorem exec_wfe (s : State) :
    exec .wfe s = execWfe s := rfl
@[simp] theorem exec_fence (s : State) (x0) (x1) (x2) :
    exec (.fence x0 x1 x2) s = execFence x0 x1 x2 s := rfl
@[simp] theorem exec_fencei (s : State) :
    exec .fencei s = execFencei s := rfl
@[simp] theorem exec_fadd (s : State) (x0) (x1) (x2) (x3) (x4) :
    exec (.fadd x0 x1 x2 x3 x4) s = execFadd x0 x1 x2 x3 x4 s := rfl
@[simp] theorem exec_fsub (s : State) (x0) (x1) (x2) (x3) (x4) :
    exec (.fsub x0 x1 x2 x3 x4) s = execFsub x0 x1 x2 x3 x4 s := rfl
@[simp] theorem exec_fmul (s : State) (x0) (x1) (x2) (x3) (x4) :
    exec (.fmul x0 x1 x2 x3 x4) s = execFmul x0 x1 x2 x3 x4 s := rfl
@[simp] theorem exec_fdiv (s : State) (x0) (x1) (x2) (x3) (x4) :
    exec (.fdiv x0 x1 x2 x3 x4) s = execFdiv x0 x1 x2 x3 x4 s := rfl
@[simp] theorem exec_fsqrt (s : State) (x0) (x1) (x2) (x3) :
    exec (.fsqrt x0 x1 x2 x3) s = execFsqrt x0 x1 x2 x3 s := rfl
@[simp] theorem exec_ffma (s : State) (x0) (x1) (x2) (x3) (x4) :
    exec (.ffma x0 x1 x2 x3 x4) s = execFfma x0 x1 x2 x3 x4 s := rfl
@[simp] theorem exec_fmin (s : State) (x0) (x1) (x2) (x3) :
    exec (.fmin x0 x1 x2 x3) s = execFmin x0 x1 x2 x3 s := rfl
@[simp] theorem exec_fmax (s : State) (x0) (x1) (x2) (x3) :
    exec (.fmax x0 x1 x2 x3) s = execFmax x0 x1 x2 x3 s := rfl
@[simp] theorem exec_fcmp (s : State) (x0) (x1) (x2) (x3) (x4) :
    exec (.fcmp x0 x1 x2 x3 x4) s = execFcmp x0 x1 x2 x3 x4 s := rfl
@[simp] theorem exec_fcvt (s : State) (x0) (x1) (x2) (x3) (x4) :
    exec (.fcvt x0 x1 x2 x3 x4) s = execFcvt x0 x1 x2 x3 x4 s := rfl
@[simp] theorem exec_ldb (s : State) (x0) (x1) (x2) :
    exec (.ldb x0 x1 x2) s = execLdb x0 x1 x2 s := rfl
@[simp] theorem exec_ldbn (s : State) (x0) (x1) (x2) :
    exec (.ldbn x0 x1 x2) s = execLdbn x0 x1 x2 s := rfl
@[simp] theorem exec_ldh (s : State) (x0) (x1) (x2) :
    exec (.ldh x0 x1 x2) s = execLdh x0 x1 x2 s := rfl
@[simp] theorem exec_ldhn (s : State) (x0) (x1) (x2) :
    exec (.ldhn x0 x1 x2) s = execLdhn x0 x1 x2 s := rfl
@[simp] theorem exec_ldw (s : State) (x0) (x1) (x2) :
    exec (.ldw x0 x1 x2) s = execLdw x0 x1 x2 s := rfl
@[simp] theorem exec_ldwn (s : State) (x0) (x1) (x2) :
    exec (.ldwn x0 x1 x2) s = execLdwn x0 x1 x2 s := rfl
@[simp] theorem exec_ldd (s : State) (x0) (x1) (x2) :
    exec (.ldd x0 x1 x2) s = execLdd x0 x1 x2 s := rfl
@[simp] theorem exec_stb (s : State) (x0) (x1) (x2) :
    exec (.stb x0 x1 x2) s = execStb x0 x1 x2 s := rfl
@[simp] theorem exec_sth (s : State) (x0) (x1) (x2) :
    exec (.sth x0 x1 x2) s = execSth x0 x1 x2 s := rfl
@[simp] theorem exec_stw (s : State) (x0) (x1) (x2) :
    exec (.stw x0 x1 x2) s = execStw x0 x1 x2 s := rfl
@[simp] theorem exec_std (s : State) (x0) (x1) (x2) :
    exec (.std x0 x1 x2) s = execStd x0 x1 x2 s := rfl
@[simp] theorem exec_sptest (s : State) (x0) (x1) :
    exec (.sptest x0 x1) s = execSptest x0 x1 s := rfl
@[simp] theorem exec_spcast (s : State) (x0) (x1) :
    exec (.spcast x0 x1) s = execSpcast x0 x1 s := rfl
@[simp] theorem exec_pushs (s : State) (x0) (x1) :
    exec (.pushs x0 x1) s = execPushs x0 x1 s := rfl
@[simp] theorem exec_pops (s : State) (x0) (x1) :
    exec (.pops x0 x1) s = execPops x0 x1 s := rfl
@[simp] theorem exec_strip (s : State) (x0) (x1) (x2) (x3) (x4) (x5) :
    exec (.strip x0 x1 x2 x3 x4 x5) s = execStrip x0 x1 x2 x3 x4 x5 s := rfl
@[simp] theorem exec_setvl (s : State) (x0) (x1) :
    exec (.setvl x0 x1) s = execSetvl x0 x1 s := rfl
@[simp] theorem exec_vltake (s : State) (x0) :
    exec (.vltake x0) s = execVltake x0 s := rfl
@[simp] theorem exec_lchk (s : State) (x0) (x1) (x2) :
    exec (.lchk x0 x1 x2) s = execLchk x0 x1 x2 s := rfl
@[simp] theorem exec_vld (s : State) (x0) (x1) (x2) (x3) (x4) :
    exec (.vld x0 x1 x2 x3 x4) s = execVld x0 x1 x2 x3 x4 s := rfl
@[simp] theorem exec_vlds (s : State) (x0) (x1) (x2) (x3) (x4) (x5) :
    exec (.vlds x0 x1 x2 x3 x4 x5) s = execVlds x0 x1 x2 x3 x4 x5 s := rfl
@[simp] theorem exec_vldx (s : State) (x0) (x1) (x2) (x3) (x4) (x5) (x6) :
    exec (.vldx x0 x1 x2 x3 x4 x5 x6) s = execVldx x0 x1 x2 x3 x4 x5 x6 s := rfl
@[simp] theorem exec_vldff (s : State) (x0) (x1) (x2) (x3) (x4) :
    exec (.vldff x0 x1 x2 x3 x4) s = execVldff x0 x1 x2 x3 x4 s := rfl
@[simp] theorem exec_vldp (s : State) (x0) (x1) (x2) (x3) (x4) (x5) (x6) (x7) :
    exec (.vldp x0 x1 x2 x3 x4 x5 x6 x7) s = execVldp x0 x1 x2 x3 x4 x5 x6 x7 s := rfl
@[simp] theorem exec_vst (s : State) (x0) (x1) (x2) (x3) (x4) :
    exec (.vst x0 x1 x2 x3 x4) s = execVst x0 x1 x2 x3 x4 s := rfl
@[simp] theorem exec_vsts (s : State) (x0) (x1) (x2) (x3) (x4) (x5) :
    exec (.vsts x0 x1 x2 x3 x4 x5) s = execVsts x0 x1 x2 x3 x4 x5 s := rfl
@[simp] theorem exec_vstx (s : State) (x0) (x1) (x2) (x3) (x4) (x5) :
    exec (.vstx x0 x1 x2 x3 x4 x5) s = execVstx x0 x1 x2 x3 x4 x5 s := rfl
@[simp] theorem exec_vstxadd (s : State) (x0) (x1) (x2) (x3) (x4) (x5) (x6) :
    exec (.vstxadd x0 x1 x2 x3 x4 x5 x6) s = execVstxadd x0 x1 x2 x3 x4 x5 x6 s := rfl
@[simp] theorem exec_vstp (s : State) (x0) (x1) (x2) (x3) (x4) (x5) (x6) (x7) :
    exec (.vstp x0 x1 x2 x3 x4 x5 x6 x7) s = execVstp x0 x1 x2 x3 x4 x5 x6 x7 s := rfl
@[simp] theorem exec_amoadd (s : State) (x0) (x1) (x2) (x3) (x4) (x5) (x6) :
    exec (.amoadd x0 x1 x2 x3 x4 x5 x6) s = execAmoadd x0 x1 x2 x3 x4 x5 x6 s := rfl
@[simp] theorem exec_amoand (s : State) (x0) (x1) (x2) (x3) (x4) (x5) (x6) :
    exec (.amoand x0 x1 x2 x3 x4 x5 x6) s = execAmoand x0 x1 x2 x3 x4 x5 x6 s := rfl
@[simp] theorem exec_amoor (s : State) (x0) (x1) (x2) (x3) (x4) (x5) (x6) :
    exec (.amoor x0 x1 x2 x3 x4 x5 x6) s = execAmoor x0 x1 x2 x3 x4 x5 x6 s := rfl
@[simp] theorem exec_amoxor (s : State) (x0) (x1) (x2) (x3) (x4) (x5) (x6) :
    exec (.amoxor x0 x1 x2 x3 x4 x5 x6) s = execAmoxor x0 x1 x2 x3 x4 x5 x6 s := rfl
@[simp] theorem exec_amomin (s : State) (x0) (x1) (x2) (x3) (x4) (x5) (x6) :
    exec (.amomin x0 x1 x2 x3 x4 x5 x6) s = execAmomin x0 x1 x2 x3 x4 x5 x6 s := rfl
@[simp] theorem exec_amomax (s : State) (x0) (x1) (x2) (x3) (x4) (x5) (x6) :
    exec (.amomax x0 x1 x2 x3 x4 x5 x6) s = execAmomax x0 x1 x2 x3 x4 x5 x6 s := rfl
@[simp] theorem exec_amominn (s : State) (x0) (x1) (x2) (x3) (x4) (x5) (x6) :
    exec (.amominn x0 x1 x2 x3 x4 x5 x6) s = execAmominn x0 x1 x2 x3 x4 x5 x6 s := rfl
@[simp] theorem exec_amomaxn (s : State) (x0) (x1) (x2) (x3) (x4) (x5) (x6) :
    exec (.amomaxn x0 x1 x2 x3 x4 x5 x6) s = execAmomaxn x0 x1 x2 x3 x4 x5 x6 s := rfl
@[simp] theorem exec_amoswap (s : State) (x0) (x1) (x2) (x3) (x4) (x5) (x6) :
    exec (.amoswap x0 x1 x2 x3 x4 x5 x6) s = execAmoswap x0 x1 x2 x3 x4 x5 x6 s := rfl
@[simp] theorem exec_amocas (s : State) (x0) (x1) (x2) (x3) (x4) (x5) (x6) :
    exec (.amocas x0 x1 x2 x3 x4 x5 x6) s = execAmocas x0 x1 x2 x3 x4 x5 x6 s := rfl
@[simp] theorem exec_amofadd (s : State) (x0) (x1) (x2) (x3) (x4) (x5) (x6) :
    exec (.amofadd x0 x1 x2 x3 x4 x5 x6) s = execAmofadd x0 x1 x2 x3 x4 x5 x6 s := rfl
@[simp] theorem exec_vfadd (s : State) (x0) (x1) (x2) (x3) (x4) (x5) :
    exec (.vfadd x0 x1 x2 x3 x4 x5) s = execVfadd x0 x1 x2 x3 x4 x5 s := rfl
@[simp] theorem exec_vfsub (s : State) (x0) (x1) (x2) (x3) (x4) (x5) :
    exec (.vfsub x0 x1 x2 x3 x4 x5) s = execVfsub x0 x1 x2 x3 x4 x5 s := rfl
@[simp] theorem exec_vfmul (s : State) (x0) (x1) (x2) (x3) (x4) (x5) :
    exec (.vfmul x0 x1 x2 x3 x4 x5) s = execVfmul x0 x1 x2 x3 x4 x5 s := rfl
@[simp] theorem exec_vfdiv (s : State) (x0) (x1) (x2) (x3) (x4) (x5) :
    exec (.vfdiv x0 x1 x2 x3 x4 x5) s = execVfdiv x0 x1 x2 x3 x4 x5 s := rfl
@[simp] theorem exec_vfsqrt (s : State) (x0) (x1) (x2) (x3) :
    exec (.vfsqrt x0 x1 x2 x3) s = execVfsqrt x0 x1 x2 x3 s := rfl
@[simp] theorem exec_vfma (s : State) (x0) (x1) (x2) (x3) (x4) (x5) :
    exec (.vfma x0 x1 x2 x3 x4 x5) s = execVfma x0 x1 x2 x3 x4 x5 s := rfl
@[simp] theorem exec_vfms (s : State) (x0) (x1) (x2) (x3) (x4) (x5) :
    exec (.vfms x0 x1 x2 x3 x4 x5) s = execVfms x0 x1 x2 x3 x4 x5 s := rfl
@[simp] theorem exec_vfnma (s : State) (x0) (x1) (x2) (x3) (x4) (x5) :
    exec (.vfnma x0 x1 x2 x3 x4 x5) s = execVfnma x0 x1 x2 x3 x4 x5 s := rfl
@[simp] theorem exec_vfnms (s : State) (x0) (x1) (x2) (x3) (x4) (x5) :
    exec (.vfnms x0 x1 x2 x3 x4 x5) s = execVfnms x0 x1 x2 x3 x4 x5 s := rfl
@[simp] theorem exec_vfmin (s : State) (x0) (x1) (x2) (x3) (x4) :
    exec (.vfmin x0 x1 x2 x3 x4) s = execVfmin x0 x1 x2 x3 x4 s := rfl
@[simp] theorem exec_vfmax (s : State) (x0) (x1) (x2) (x3) (x4) :
    exec (.vfmax x0 x1 x2 x3 x4) s = execVfmax x0 x1 x2 x3 x4 s := rfl
@[simp] theorem exec_vfabs (s : State) (x0) (x1) (x2) :
    exec (.vfabs x0 x1 x2) s = execVfabs x0 x1 x2 s := rfl
@[simp] theorem exec_vfneg (s : State) (x0) (x1) (x2) :
    exec (.vfneg x0 x1 x2) s = execVfneg x0 x1 x2 s := rfl
@[simp] theorem exec_vfrcp (s : State) (x0) (x1) (x2) (x3) :
    exec (.vfrcp x0 x1 x2 x3) s = execVfrcp x0 x1 x2 x3 s := rfl
@[simp] theorem exec_vfrsq (s : State) (x0) (x1) (x2) (x3) :
    exec (.vfrsq x0 x1 x2 x3) s = execVfrsq x0 x1 x2 x3 s := rfl
@[simp] theorem exec_vfcmp (s : State) (x0) (x1) (x2) (x3) (x4) (x5) :
    exec (.vfcmp x0 x1 x2 x3 x4 x5) s = execVfcmp x0 x1 x2 x3 x4 x5 s := rfl
@[simp] theorem exec_vadd (s : State) (x0) (x1) (x2) (x3) (x4) :
    exec (.vadd x0 x1 x2 x3 x4) s = execVadd x0 x1 x2 x3 x4 s := rfl
@[simp] theorem exec_vsub (s : State) (x0) (x1) (x2) (x3) (x4) :
    exec (.vsub x0 x1 x2 x3 x4) s = execVsub x0 x1 x2 x3 x4 s := rfl
@[simp] theorem exec_vmul (s : State) (x0) (x1) (x2) (x3) (x4) :
    exec (.vmul x0 x1 x2 x3 x4) s = execVmul x0 x1 x2 x3 x4 s := rfl
@[simp] theorem exec_vmulh (s : State) (x0) (x1) (x2) (x3) (x4) :
    exec (.vmulh x0 x1 x2 x3 x4) s = execVmulh x0 x1 x2 x3 x4 s := rfl
@[simp] theorem exec_vand (s : State) (x0) (x1) (x2) (x3) (x4) :
    exec (.vand x0 x1 x2 x3 x4) s = execVand x0 x1 x2 x3 x4 s := rfl
@[simp] theorem exec_vor (s : State) (x0) (x1) (x2) (x3) (x4) :
    exec (.vor x0 x1 x2 x3 x4) s = execVor x0 x1 x2 x3 x4 s := rfl
@[simp] theorem exec_vxor (s : State) (x0) (x1) (x2) (x3) (x4) :
    exec (.vxor x0 x1 x2 x3 x4) s = execVxor x0 x1 x2 x3 x4 s := rfl
@[simp] theorem exec_vsll (s : State) (x0) (x1) (x2) (x3) (x4) :
    exec (.vsll x0 x1 x2 x3 x4) s = execVsll x0 x1 x2 x3 x4 s := rfl
@[simp] theorem exec_vsrl (s : State) (x0) (x1) (x2) (x3) (x4) :
    exec (.vsrl x0 x1 x2 x3 x4) s = execVsrl x0 x1 x2 x3 x4 s := rfl
@[simp] theorem exec_vsra (s : State) (x0) (x1) (x2) (x3) (x4) :
    exec (.vsra x0 x1 x2 x3 x4) s = execVsra x0 x1 x2 x3 x4 s := rfl
@[simp] theorem exec_vmin (s : State) (x0) (x1) (x2) (x3) (x4) :
    exec (.vmin x0 x1 x2 x3 x4) s = execVmin x0 x1 x2 x3 x4 s := rfl
@[simp] theorem exec_vmax (s : State) (x0) (x1) (x2) (x3) (x4) :
    exec (.vmax x0 x1 x2 x3 x4) s = execVmax x0 x1 x2 x3 x4 s := rfl
@[simp] theorem exec_vminn (s : State) (x0) (x1) (x2) (x3) (x4) :
    exec (.vminn x0 x1 x2 x3 x4) s = execVminn x0 x1 x2 x3 x4 s := rfl
@[simp] theorem exec_vmaxn (s : State) (x0) (x1) (x2) (x3) (x4) :
    exec (.vmaxn x0 x1 x2 x3 x4) s = execVmaxn x0 x1 x2 x3 x4 s := rfl
@[simp] theorem exec_vcmp (s : State) (x0) (x1) (x2) (x3) (x4) (x5) :
    exec (.vcmp x0 x1 x2 x3 x4 x5) s = execVcmp x0 x1 x2 x3 x4 x5 s := rfl
@[simp] theorem exec_vcvt (s : State) (x0) (x1) (x2) (x3) (x4) :
    exec (.vcvt x0 x1 x2 x3 x4) s = execVcvt x0 x1 x2 x3 x4 s := rfl
@[simp] theorem exec_vmv (s : State) (x0) (x1) (x2) :
    exec (.vmv x0 x1 x2) s = execVmv x0 x1 x2 s := rfl
@[simp] theorem exec_vbcast (s : State) (x0) (x1) (x2) (x3) :
    exec (.vbcast x0 x1 x2 x3) s = execVbcast x0 x1 x2 x3 s := rfl
@[simp] theorem exec_vmerge (s : State) (x0) (x1) (x2) (x3) (x4) :
    exec (.vmerge x0 x1 x2 x3 x4) s = execVmerge x0 x1 x2 x3 x4 s := rfl
@[simp] theorem exec_vslideup (s : State) (x0) (x1) (x2) (x3) (x4) :
    exec (.vslideup x0 x1 x2 x3 x4) s = execVslideup x0 x1 x2 x3 x4 s := rfl
@[simp] theorem exec_vslidedn (s : State) (x0) (x1) (x2) (x3) (x4) :
    exec (.vslidedn x0 x1 x2 x3 x4) s = execVslidedn x0 x1 x2 x3 x4 s := rfl
@[simp] theorem exec_vperm (s : State) (x0) (x1) (x2) (x3) :
    exec (.vperm x0 x1 x2 x3) s = execVperm x0 x1 x2 x3 s := rfl
@[simp] theorem exec_vcomp (s : State) (x0) (x1) (x2) :
    exec (.vcomp x0 x1 x2) s = execVcomp x0 x1 x2 s := rfl
@[simp] theorem exec_vexpd (s : State) (x0) (x1) (x2) :
    exec (.vexpd x0 x1 x2) s = execVexpd x0 x1 x2 s := rfl
@[simp] theorem exec_vextr (s : State) (x0) (x1) (x2) (x3) :
    exec (.vextr x0 x1 x2 x3) s = execVextr x0 x1 x2 x3 s := rfl
@[simp] theorem exec_vins (s : State) (x0) (x1) (x2) (x3) :
    exec (.vins x0 x1 x2 x3) s = execVins x0 x1 x2 x3 s := rfl
@[simp] theorem exec_viota (s : State) (x0) (x1) :
    exec (.viota x0 x1) s = execViota x0 x1 s := rfl
@[simp] theorem exec_vredsum (s : State) (x0) (x1) (x2) (x3) :
    exec (.vredsum x0 x1 x2 x3) s = execVredsum x0 x1 x2 x3 s := rfl
@[simp] theorem exec_vredtree (s : State) (x0) (x1) (x2) (x3) :
    exec (.vredtree x0 x1 x2 x3) s = execVredtree x0 x1 x2 x3 s := rfl
@[simp] theorem exec_vredmax (s : State) (x0) (x1) (x2) :
    exec (.vredmax x0 x1 x2) s = execVredmax x0 x1 x2 s := rfl
@[simp] theorem exec_vredmin (s : State) (x0) (x1) (x2) :
    exec (.vredmin x0 x1 x2) s = execVredmin x0 x1 x2 s := rfl
@[simp] theorem exec_vscan (s : State) (x0) (x1) (x2) (x3) :
    exec (.vscan x0 x1 x2 x3) s = execVscan x0 x1 x2 x3 s := rfl
@[simp] theorem exec_pand (s : State) (x0) (x1) (x2) :
    exec (.pand x0 x1 x2) s = execPand x0 x1 x2 s := rfl
@[simp] theorem exec_por (s : State) (x0) (x1) (x2) :
    exec (.por x0 x1 x2) s = execPor x0 x1 x2 s := rfl
@[simp] theorem exec_pxor (s : State) (x0) (x1) (x2) :
    exec (.pxor x0 x1 x2) s = execPxor x0 x1 x2 s := rfl
@[simp] theorem exec_pandn (s : State) (x0) (x1) (x2) :
    exec (.pandn x0 x1 x2) s = execPandn x0 x1 x2 s := rfl
@[simp] theorem exec_pnot (s : State) (x0) (x1) :
    exec (.pnot x0 x1) s = execPnot x0 x1 s := rfl
@[simp] theorem exec_pcnt (s : State) (x0) (x1) :
    exec (.pcnt x0 x1) s = execPcnt x0 x1 s := rfl
@[simp] theorem exec_pfirst (s : State) (x0) (x1) :
    exec (.pfirst x0 x1) s = execPfirst x0 x1 s := rfl
@[simp] theorem exec_pset (s : State) (x0) :
    exec (.pset x0) s = execPset x0 s := rfl
@[simp] theorem exec_pclr (s : State) (x0) :
    exec (.pclr x0) s = execPclr x0 s := rfl
@[simp] theorem exec_pmov (s : State) (x0) (x1) :
    exec (.pmov x0 x1) s = execPmov x0 x1 s := rfl
@[simp] theorem exec_vpsplit (s : State) (x0) (x1) (x2) (x3) (x4) :
    exec (.vpsplit x0 x1 x2 x3 x4) s = execVpsplit x0 x1 x2 x3 x4 s := rfl
@[simp] theorem exec_vpjoin (s : State) (x0) (x1) (x2) (x3) (x4) :
    exec (.vpjoin x0 x1 x2 x3 x4) s = execVpjoin x0 x1 x2 x3 x4 s := rfl
@[simp] theorem exec_vptrunc (s : State) (x0) (x1) (x2) (x3) (x4) :
    exec (.vptrunc x0 x1 x2 x3 x4) s = execVptrunc x0 x1 x2 x3 x4 s := rfl
@[simp] theorem exec_vprnd (s : State) (x0) (x1) (x2) (x3) (x4) :
    exec (.vprnd x0 x1 x2 x3 x4) s = execVprnd x0 x1 x2 x3 x4 s := rfl
@[simp] theorem exec_vqmx (s : State) (x0) (x1) (x2) :
    exec (.vqmx x0 x1 x2) s = execVqmx x0 x1 x2 s := rfl
@[simp] theorem exec_vdqmx (s : State) (x0) (x1) (x2) (x3) :
    exec (.vdqmx x0 x1 x2 x3) s = execVdqmx x0 x1 x2 x3 s := rfl
@[simp] theorem exec_vpacc (s : State) (x0) (x1) (x2) (x3) :
    exec (.vpacc x0 x1 x2 x3) s = execVpacc x0 x1 x2 x3 s := rfl
@[simp] theorem exec_vadamw (s : State) (x0) (x1) (x2) (x3) :
    exec (.vadamw x0 x1 x2 x3) s = execVadamw x0 x1 x2 x3 s := rfl
@[simp] theorem exec_vsgdm (s : State) (x0) (x1) (x2) (x3) :
    exec (.vsgdm x0 x1 x2 x3) s = execVsgdm x0 x1 x2 x3 s := rfl
@[simp] theorem exec_mma (s : State) (x0) (x1) (x2) (x3) (x4) :
    exec (.mma x0 x1 x2 x3 x4) s = execMma x0 x1 x2 x3 x4 s := rfl
@[simp] theorem exec_mmap (s : State) (x0) (x1) (x2) (x3) :
    exec (.mmap x0 x1 x2 x3) s = execMmap x0 x1 x2 x3 s := rfl
@[simp] theorem exec_mmaz (s : State) (x0) (x1) :
    exec (.mmaz x0 x1) s = execMmaz x0 x1 s := rfl
@[simp] theorem exec_mtrans (s : State) (x0) (x1) (x2) :
    exec (.mtrans x0 x1 x2) s = execMtrans x0 x1 x2 s := rfl
@[simp] theorem exec_psnget (s : State) (x0) :
    exec (.psnget x0) s = execPsnget x0 s := rfl
@[simp] theorem exec_psnclr (s : State) :
    exec .psnclr s = execPsnclr s := rfl
@[simp] theorem exec_cpy (s : State) (x0) (x1) :
    exec (.cpy x0 x1) s = execCpy x0 x1 s := rfl
@[simp] theorem exec_due (s : State) (x0) (x1) :
    exec (.due x0 x1) s = execDue x0 x1 s := rfl
@[simp] theorem exec_waitd (s : State) (x0) :
    exec (.waitd x0) s = execWaitd x0 s := rfl
@[simp] theorem exec_waith (s : State) (x0) (x1) :
    exec (.waith x0 x1) s = execWaith x0 x1 s := rfl
@[simp] theorem exec_cpyst (s : State) (x0) (x1) :
    exec (.cpyst x0 x1) s = execCpyst x0 x1 s := rfl
@[simp] theorem exec_abinit (s : State) (x0) (x1) (x2) :
    exec (.abinit x0 x1 x2) s = execAbinit x0 x1 x2 s := rfl
@[simp] theorem exec_waitab (s : State) (x0) (x1) :
    exec (.waitab x0 x1) s = execWaitab x0 x1 s := rfl
@[simp] theorem exec_mopen (s : State) (x0) (x1) :
    exec (.mopen x0 x1) s = execMopen x0 x1 s := rfl
@[simp] theorem exec_mnbr (s : State) (x0) (x1) (x2) :
    exec (.mnbr x0 x1 x2) s = execMnbr x0 x1 x2 s := rfl
@[simp] theorem exec_mcell (s : State) (x0) (x1) (x2) :
    exec (.mcell x0 x1 x2) s = execMcell x0 x1 x2 s := rfl
@[simp] theorem exec_mmark (s : State) (x0) (x1) :
    exec (.mmark x0 x1) s = execMmark x0 x1 s := rfl
@[simp] theorem exec_madapt (s : State) (x0) (x1) (x2) :
    exec (.madapt x0 x1 x2) s = execMadapt x0 x1 x2 s := rfl
@[simp] theorem exec_mcut (s : State) (x0) (x1) (x2) :
    exec (.mcut x0 x1 x2) s = execMcut x0 x1 x2 s := rfl
@[simp] theorem exec_mmig (s : State) (x0) (x1) (x2) :
    exec (.mmig x0 x1 x2) s = execMmig x0 x1 x2 s := rfl
@[simp] theorem exec_mhalo (s : State) (x0) (x1) (x2) :
    exec (.mhalo x0 x1 x2) s = execMhalo x0 x1 x2 s := rfl
@[simp] theorem exec_bhist (s : State) (x0) (x1) :
    exec (.bhist x0 x1) s = execBhist x0 x1 s := rfl
@[simp] theorem exec_bscan (s : State) (x0) (x1) :
    exec (.bscan x0 x1) s = execBscan x0 x1 s := rfl
@[simp] theorem exec_btopk (s : State) (x0) (x1) :
    exec (.btopk x0 x1) s = execBtopk x0 x1 s := rfl
@[simp] theorem exec_broute (s : State) (x0) (x1) :
    exec (.broute x0 x1) s = execBroute x0 x1 s := rfl
@[simp] theorem exec_bcolor (s : State) (x0) (x1) :
    exec (.bcolor x0 x1) s = execBcolor x0 x1 s := rfl
@[simp] theorem exec_bseg (s : State) (x0) (x1) :
    exec (.bseg x0 x1) s = execBseg x0 x1 s := rfl
@[simp] theorem exec_barw (s : State) (x0) :
    exec (.barw x0) s = execBarw x0 s := rfl
@[simp] theorem exec_bara (s : State) :
    exec .bara s = execBara s := rfl
@[simp] theorem exec_barq (s : State) (x0) :
    exec (.barq x0) s = execBarq x0 s := rfl
@[simp] theorem exec_sigw (s : State) (x0) (x1) (x2) :
    exec (.sigw x0 x1 x2) s = execSigw x0 x1 x2 s := rfl
@[simp] theorem exec_yield (s : State) :
    exec .yield s = execYield s := rfl
@[simp] theorem exec_launch (s : State) (x0) (x1) :
    exec (.launch x0 x1) s = execLaunch x0 x1 s := rfl
@[simp] theorem exec_illegalWord (s : State) (x0) :
    exec (.illegalWord x0) s = execIllegalWord x0 s := rfl
@[simp] theorem exec_qstall (s : State) (x0) (x1) :
    exec (.qstall x0 x1) s = execQstall x0 x1 s := rfl
@[simp] theorem exec_waittime (s : State) (x0) :
    exec (.waittime x0) s = execWaittime x0 s := rfl
@[simp] theorem exec_waitEnd (s : State) (x0) :
    exec (.waitEnd x0) s = execWaitEnd x0 s := rfl
@[simp] theorem exec_sigwRecheck (s : State) (x0) :
    exec (.sigwRecheck x0) s = execSigwRecheck x0 s := rfl
@[simp] theorem exec_overdue (s : State) (x0) :
    exec (.overdue x0) s = execOverdue x0 s := rfl
@[simp] theorem exec_budgetExhausted (s : State) (x0) :
    exec (.budgetExhausted x0) s = execBudgetExhausted x0 s := rfl
@[simp] theorem exec_budgetExtension (s : State) (x0) :
    exec (.budgetExtension x0) s = execBudgetExtension x0 s := rfl
@[simp] theorem exec_dispatcherDecision (s : State) (x0) (x1) :
    exec (.dispatcherDecision x0 x1) s = execDispatcherDecision x0 x1 s := rfl
@[simp] theorem exec_forcedStop (s : State) (x0) :
    exec (.forcedStop x0) s = execForcedStop x0 s := rfl
@[simp] theorem exec_caravanSave (s : State) (x0) :
    exec (.caravanSave x0) s = execCaravanSave x0 s := rfl
@[simp] theorem exec_saveImageWritten (s : State) (x0) :
    exec (.saveImageWritten x0) s = execSaveImageWritten x0 s := rfl
@[simp] theorem exec_caravanRetire (s : State) (x0) :
    exec (.caravanRetire x0) s = execCaravanRetire x0 s := rfl
@[simp] theorem exec_sliceFailedEnd (s : State) (x0) :
    exec (.sliceFailedEnd x0) s = execSliceFailedEnd x0 s := rfl
@[simp] theorem exec_endReport (s : State) (x0) :
    exec (.endReport x0) s = execEndReport x0 s := rfl
@[simp] theorem exec_copyChunkLanding (s : State) (x0) :
    exec (.copyChunkLanding x0) s = execCopyChunkLanding x0 s := rfl
@[simp] theorem exec_copyCompletion (s : State) (x0) :
    exec (.copyCompletion x0) s = execCopyCompletion x0 s := rfl
@[simp] theorem exec_linkFailure (s : State) (x0) :
    exec (.linkFailure x0) s = execLinkFailure x0 s := rfl
@[simp] theorem exec_linkRetransmission (s : State) (x0) :
    exec (.linkRetransmission x0) s = execLinkRetransmission x0 s := rfl
@[simp] theorem exec_remoteAccessRequest (s : State) (x0) :
    exec (.remoteAccessRequest x0) s = execRemoteAccessRequest x0 s := rfl
@[simp] theorem exec_remoteRefusal (s : State) (x0) :
    exec (.remoteRefusal x0) s = execRemoteRefusal x0 s := rfl
@[simp] theorem exec_mnbrEntryDelivery (s : State) (x0) :
    exec (.mnbrEntryDelivery x0) s = execMnbrEntryDelivery x0 s := rfl
@[simp] theorem exec_loadEntryArrival (s : State) (x0) (x1) :
    exec (.loadEntryArrival x0 x1) s = execLoadEntryArrival x0 x1 s := rfl
@[simp] theorem exec_storePerformed (s : State) (x0) (x1) :
    exec (.storePerformed x0 x1) s = execStorePerformed x0 x1 s := rfl
@[simp] theorem exec_rdInvalidationAck (s : State) (x0) (x1) :
    exec (.rdInvalidationAck x0 x1) s = execRdInvalidationAck x0 x1 s := rfl
@[simp] theorem exec_topologyCommandCompletion (s : State) (x0) :
    exec (.topologyCommandCompletion x0) s = execTopologyCommandCompletion x0 s := rfl
@[simp] theorem exec_collectTimeout (s : State) (x0) (x1) :
    exec (.collectTimeout x0 x1) s = execCollectTimeout x0 x1 s := rfl
@[simp] theorem exec_generationCommit (s : State) (x0) (x1) :
    exec (.generationCommit x0 x1) s = execGenerationCommit x0 x1 s := rfl
@[simp] theorem exec_bazaarCommandCompletion (s : State) (x0) :
    exec (.bazaarCommandCompletion x0) s = execBazaarCommandCompletion x0 s := rfl
@[simp] theorem exec_hostDemand (s : State) (x0) (x1) :
    exec (.hostDemand x0 x1) s = execHostDemand x0 x1 s := rfl
@[simp] theorem exec_regionMoveComplete (s : State) (x0) (x1) :
    exec (.regionMoveComplete x0 x1) s = execRegionMoveComplete x0 x1 s := rfl
@[simp] theorem exec_submissionSlotRead (s : State) (x0) (x1) (x2) :
    exec (.submissionSlotRead x0 x1 x2) s = execSubmissionSlotRead x0 x1 x2 s := rfl
@[simp] theorem exec_submissionEnd (s : State) (x0) :
    exec (.submissionEnd x0) s = execSubmissionEnd x0 s := rfl
@[simp] theorem exec_nodeLaunch (s : State) (x0) (x1) :
    exec (.nodeLaunch x0 x1) s = execNodeLaunch x0 x1 s := rfl
@[simp] theorem exec_nodeCopy (s : State) (x0) :
    exec (.nodeCopy x0) s = execNodeCopy x0 s := rfl
@[simp] theorem exec_nodeSignal (s : State) (x0) :
    exec (.nodeSignal x0) s = execNodeSignal x0 s := rfl
@[simp] theorem exec_nodeWait (s : State) (x0) :
    exec (.nodeWait x0) s = execNodeWait x0 s := rfl
@[simp] theorem exec_nodeCond (s : State) (x0) :
    exec (.nodeCond x0) s = execNodeCond x0 s := rfl
@[simp] theorem exec_nodeLoop (s : State) (x0) :
    exec (.nodeLoop x0) s = execNodeLoop x0 s := rfl
@[simp] theorem exec_nodeEnd (s : State) (x0) :
    exec (.nodeEnd x0) s = execNodeEnd x0 s := rfl
@[simp] theorem exec_qtailWrite (s : State) (x0) (x1) (x2) :
    exec (.qtailWrite x0 x1 x2) s = execQtailWrite x0 x1 x2 s := rfl
@[simp] theorem exec_qbaseWrite (s : State) (x0) (x1) (x2) :
    exec (.qbaseWrite x0 x1 x2) s = execQbaseWrite x0 x1 x2 s := rfl
@[simp] theorem exec_qsizeWrite (s : State) (x0) (x1) (x2) :
    exec (.qsizeWrite x0 x1 x2) s = execQsizeWrite x0 x1 x2 s := rfl
@[simp] theorem exec_ctxctlWrite (s : State) (x0) (x1) :
    exec (.ctxctlWrite x0 x1) s = execCtxctlWrite x0 x1 s := rfl
@[simp] theorem exec_ctxrootWrite (s : State) (x0) (x1) :
    exec (.ctxrootWrite x0 x1) s = execCtxrootWrite x0 x1 s := rfl
@[simp] theorem exec_featreqWrite (s : State) (x0) :
    exec (.featreqWrite x0) s = execFeatreqWrite x0 s := rfl
@[simp] theorem exec_fwstageWrite (s : State) (x0 x1) :
    exec (.fwstageWrite x0 x1) s = execFwstageWrite x0 x1 s := rfl
@[simp] theorem exec_fwReplacementComplete (s : State) :
    exec .fwReplacementComplete s = execFwReplacementComplete s := rfl
@[simp] theorem exec_fwReplacementTimeout (s : State) :
    exec .fwReplacementTimeout s = execFwReplacementTimeout s := rfl
@[simp] theorem exec_dbgctlHaltreq (s : State) (x0) :
    exec (.dbgctlHaltreq x0) s = execDbgctlHaltreq x0 s := rfl
@[simp] theorem exec_hartHalted (s : State) (x0) :
    exec (.hartHalted x0) s = execHartHalted x0 s := rfl
@[simp] theorem exec_dbgctlResume (s : State) (x0) :
    exec (.dbgctlResume x0) s = execDbgctlResume x0 s := rfl
@[simp] theorem exec_debugBlockAccess (s : State) (x0) (x1) (x2) :
    exec (.debugBlockAccess x0 x1 x2) s = execDebugBlockAccess x0 x1 x2 s := rfl
@[simp] theorem exec_queueIndexWordWrite (s : State) (x0) (x1) (x2) :
    exec (.queueIndexWordWrite x0 x1 x2) s = execQueueIndexWordWrite x0 x1 x2 s := rfl
@[simp] theorem exec_stickyClear (s : State) (x0) (x1) :
    exec (.stickyClear x0 x1) s = execStickyClear x0 x1 s := rfl
@[simp] theorem exec_registerWrite (s : State) (x0) (x1) :
    exec (.registerWrite x0 x1) s = execRegisterWrite x0 x1 s := rfl
@[simp] theorem exec_coreError (s : State) (x0) :
    exec (.coreError x0) s = execCoreError x0 s := rfl
@[simp] theorem exec_warmReset (s : State) (x0) :
    exec (.warmReset x0) s = execWarmReset x0 s := rfl
@[simp] theorem exec_warmResetReady (s : State) :
    exec .warmResetReady s = execWarmResetReady s := rfl
@[simp] theorem exec_wearAccrual (s : State) (x0) :
    exec (.wearAccrual x0) s = execWearAccrual x0 s := rfl
@[simp] theorem exec_wearRecordSave (s : State) :
    exec .wearRecordSave s = execWearRecordSave s := rfl
@[simp] theorem exec_coreFuse (s : State) (x0) :
    exec (.coreFuse x0) s = execCoreFuse x0 s := rfl
@[simp] theorem exec_supplySag (s : State) (x0) :
    exec (.supplySag x0) s = execSupplySag x0 s := rfl
@[simp] theorem exec_supplyRecovery (s : State) (x0) :
    exec (.supplyRecovery x0) s = execSupplyRecovery x0 s := rfl
@[simp] theorem exec_thermalThrottle (s : State) (x0) :
    exec (.thermalThrottle x0) s = execThermalThrottle x0 s := rfl
@[simp] theorem exec_thermalRecovery (s : State) (x0) :
    exec (.thermalRecovery x0) s = execThermalRecovery x0 s := rfl
@[simp] theorem exec_thermalShutdown (s : State) :
    exec .thermalShutdown s = execThermalShutdown s := rfl
@[simp] theorem exec_coldReset (a b : Unit) (s : State) :
    exec (.coldReset a b) s = execColdReset a b s := rfl
@[simp] theorem exec_unitReady (s : State) (x0) :
    exec (.unitReady x0) s = execUnitReady x0 s := rfl
@[simp] theorem exec_unitFailure (s : State) (x0) :
    exec (.unitFailure x0) s = execUnitFailure x0 s := rfl
@[simp] theorem exec_watchdogEndCaravan (s : State) (x0) :
    exec (.watchdogEndCaravan x0) s = execWatchdogEndCaravan x0 s := rfl
@[simp] theorem exec_watchdogEndSlice (s : State) (x0) :
    exec (.watchdogEndSlice x0) s = execWatchdogEndSlice x0 s := rfl
@[simp] theorem exec_cpRestart (s : State) :
    exec .cpRestart s = execCpRestart s := rfl
@[simp] theorem exec_dieQuiesce (s : State) (x0) :
    exec (.dieQuiesce x0) s = execDieQuiesce x0 s := rfl
@[simp] theorem exec_watchdogWarmReset (s : State) (x0) :
    exec (.watchdogWarmReset x0) s = execWatchdogWarmReset x0 s := rfl
@[simp] theorem exec_coldResetRequest (s : State) :
    exec .coldResetRequest s = execColdResetRequest s := rfl
@[simp] theorem exec_deviceNumberAssign (s : State) (x0) :
    exec (.deviceNumberAssign x0) s = execDeviceNumberAssign x0 s := rfl
@[simp] theorem exec_getVersion (s : State) (x0) :
    exec (.getVersion x0) s = execGetVersion x0 s := rfl
@[simp] theorem exec_getCapabilities (s : State) (x0) :
    exec (.getCapabilities x0) s = execGetCapabilities x0 s := rfl
@[simp] theorem exec_negotiateAlgorithms (s : State) (x0) (x1) (x2) :
    exec (.negotiateAlgorithms x0 x1 x2) s = execNegotiateAlgorithms x0 x1 x2 s := rfl
@[simp] theorem exec_getDigests (s : State) (x0) :
    exec (.getDigests x0) s = execGetDigests x0 s := rfl
@[simp] theorem exec_getCertificate (s : State) (x0) (x1) :
    exec (.getCertificate x0 x1) s = execGetCertificate x0 x1 s := rfl
@[simp] theorem exec_challenge (s : State) (x0) (x1) :
    exec (.challenge x0 x1) s = execChallenge x0 x1 s := rfl
@[simp] theorem exec_getMeasurements (s : State) (x0) (x1) :
    exec (.getMeasurements x0 x1) s = execGetMeasurements x0 x1 s := rfl
@[simp] theorem exec_loadPerformed (s : State) (x0) :
    exec (.loadPerformed x0) s = execLoadPerformed x0 s := rfl
@[simp] theorem exec_powerLoss (s : State) :
    exec .powerLoss s = execPowerLoss s := rfl
@[simp] theorem exec_orderlyShutdown (s : State) :
    exec .orderlyShutdown s = execOrderlyShutdown s := rfl
@[simp] theorem exec_nodeLimitExpired (s : State) (x0) :
    exec (.nodeLimitExpired x0) s = execNodeLimitExpired x0 s := rfl
@[simp] theorem exec_operatorRetireRequest (s : State) (x0) :
    exec (.operatorRetireRequest x0) s = execOperatorRetireRequest x0 s := rfl

end Sys2Proof.Laws
end

