-- ==== Sys2Proof/Laws/State.lean ====
section
/-! SUPPORT. What each update of the state leaves alone, field by field, and what the reads of a hart, a
caravan, a slice and a core find after an update. -/

namespace Sys2Proof.Laws
open Sys2Proof Sys2Proof.Machine

/-! ### Lists by key -/

@[simp] theorem kvGet_kvSet_same {α β : Type} [DecidableEq α] (l : List (α × β)) (a : α) (b : β) :
    kvGet (kvSet l a b) a = some b := by
  induction l with
  | nil => simp [kvSet, kvGet]
  | cons p t ih => obtain ⟨k, v⟩ := p; by_cases h : k = a <;> simp [kvSet, kvGet, h, ih]

theorem kvGet_kvSet_other {α β : Type} [DecidableEq α] (l : List (α × β)) {a c : α} (b : β) (h : c ≠ a) :
    kvGet (kvSet l a b) c = kvGet l c := by
  induction l with
  | nil => simp [kvSet, kvGet, Ne.symm h]
  | cons p t ih =>
    obtain ⟨k, v⟩ := p
    by_cases e : k = a
    · subst e; simp [kvSet, kvGet, Ne.symm h]
    · simp only [kvSet, if_neg e, kvGet, ih]

@[simp] theorem kvGetD_kvSet_same {α β : Type} [DecidableEq α] (l : List (α × β)) (a : α) (b d : β) :
    kvGetD (kvSet l a b) a d = b := by simp [kvGetD]

theorem kvGetD_kvSet_other {α β : Type} [DecidableEq α] (l : List (α × β)) {a c : α} (b d : β) (h : c ≠ a) :
    kvGetD (kvSet l a b) c d = kvGetD l c d := by simp [kvGetD, kvGet_kvSet_other l b h]

/-! ### Fields after an update -/

@[simp] theorem setHart_own (s : State) (k : HartKey) (h : Hart) : (s.setHart k h).own = s.own := rfl
@[simp] theorem setHart_now (s : State) (k : HartKey) (h : Hart) : (s.setHart k h).now = s.now := rfl
@[simp] theorem setHart_mem (s : State) (k : HartKey) (h : Hart) : (s.setHart k h).mem = s.mem := rfl
@[simp] theorem setHart_poison (s : State) (k : HartKey) (h : Hart) : (s.setHart k h).poison = s.poison := rfl
@[simp] theorem setHart_cars (s : State) (k : HartKey) (h : Hart) : (s.setHart k h).cars = s.cars := rfl
@[simp] theorem setHart_slices (s : State) (k : HartKey) (h : Hart) : (s.setHart k h).slices = s.slices := rfl
@[simp] theorem setHart_disps (s : State) (k : HartKey) (h : Hart) : (s.setHart k h).disps = s.disps := rfl
@[simp] theorem setHart_cores (s : State) (k : HartKey) (h : Hart) : (s.setHart k h).cores = s.cores := rfl
@[simp] theorem setHart_books (s : State) (k : HartKey) (h : Hart) : (s.setHart k h).books = s.books := rfl
@[simp] theorem setHart_meshes (s : State) (k : HartKey) (h : Hart) : (s.setHart k h).meshes = s.meshes := rfl
@[simp] theorem setHart_objs (s : State) (k : HartKey) (h : Hart) : (s.setHart k h).objs = s.objs := rfl
@[simp] theorem setHart_forests (s : State) (k : HartKey) (h : Hart) : (s.setHart k h).forests = s.forests := rfl
@[simp] theorem setHart_joins (s : State) (k : HartKey) (h : Hart) : (s.setHart k h).joins = s.joins := rfl
@[simp] theorem setHart_legs (s : State) (k : HartKey) (h : Hart) : (s.setHart k h).legs = s.legs := rfl
@[simp] theorem setHart_bazs (s : State) (k : HartKey) (h : Hart) : (s.setHart k h).bazs = s.bazs := rfl
@[simp] theorem setHart_graphs (s : State) (k : HartKey) (h : Hart) : (s.setHart k h).graphs = s.graphs := rfl
@[simp] theorem setHart_subs (s : State) (k : HartKey) (h : Hart) : (s.setHart k h).subs = s.subs := rfl
@[simp] theorem setHart_queues (s : State) (k : HartKey) (h : Hart) : (s.setHart k h).queues = s.queues := rfl
@[simp] theorem setHart_ctxs (s : State) (k : HartKey) (h : Hart) : (s.setHart k h).ctxs = s.ctxs := rfl
@[simp] theorem setHart_regions (s : State) (k : HartKey) (h : Hart) : (s.setHart k h).regions = s.regions := rfl
@[simp] theorem setHart_cps (s : State) (k : HartKey) (h : Hart) : (s.setHart k h).cps = s.cps := rfl
@[simp] theorem setHart_dev (s : State) (k : HartKey) (h : Hart) : (s.setHart k h).dev = s.dev := rfl

@[simp] theorem setH_own (s : State) (h : Hart) : (s.setH h).own = s.own := rfl
@[simp] theorem setH_now (s : State) (h : Hart) : (s.setH h).now = s.now := rfl
@[simp] theorem setH_mem (s : State) (h : Hart) : (s.setH h).mem = s.mem := rfl
@[simp] theorem setH_poison (s : State) (h : Hart) : (s.setH h).poison = s.poison := rfl
@[simp] theorem setH_cars (s : State) (h : Hart) : (s.setH h).cars = s.cars := rfl
@[simp] theorem setH_slices (s : State) (h : Hart) : (s.setH h).slices = s.slices := rfl
@[simp] theorem setH_disps (s : State) (h : Hart) : (s.setH h).disps = s.disps := rfl
@[simp] theorem setH_cores (s : State) (h : Hart) : (s.setH h).cores = s.cores := rfl
@[simp] theorem setH_books (s : State) (h : Hart) : (s.setH h).books = s.books := rfl
@[simp] theorem setH_meshes (s : State) (h : Hart) : (s.setH h).meshes = s.meshes := rfl
@[simp] theorem setH_objs (s : State) (h : Hart) : (s.setH h).objs = s.objs := rfl
@[simp] theorem setH_forests (s : State) (h : Hart) : (s.setH h).forests = s.forests := rfl
@[simp] theorem setH_joins (s : State) (h : Hart) : (s.setH h).joins = s.joins := rfl
@[simp] theorem setH_legs (s : State) (h : Hart) : (s.setH h).legs = s.legs := rfl
@[simp] theorem setH_bazs (s : State) (h : Hart) : (s.setH h).bazs = s.bazs := rfl
@[simp] theorem setH_graphs (s : State) (h : Hart) : (s.setH h).graphs = s.graphs := rfl
@[simp] theorem setH_subs (s : State) (h : Hart) : (s.setH h).subs = s.subs := rfl
@[simp] theorem setH_queues (s : State) (h : Hart) : (s.setH h).queues = s.queues := rfl
@[simp] theorem setH_ctxs (s : State) (h : Hart) : (s.setH h).ctxs = s.ctxs := rfl
@[simp] theorem setH_regions (s : State) (h : Hart) : (s.setH h).regions = s.regions := rfl
@[simp] theorem setH_cps (s : State) (h : Hart) : (s.setH h).cps = s.cps := rfl
@[simp] theorem setH_dev (s : State) (h : Hart) : (s.setH h).dev = s.dev := rfl

@[simp] theorem modH_own (s : State) (f : Hart → Hart) : (s.modH f).own = s.own := rfl
@[simp] theorem modH_now (s : State) (f : Hart → Hart) : (s.modH f).now = s.now := rfl
@[simp] theorem modH_mem (s : State) (f : Hart → Hart) : (s.modH f).mem = s.mem := rfl
@[simp] theorem modH_poison (s : State) (f : Hart → Hart) : (s.modH f).poison = s.poison := rfl
@[simp] theorem modH_cars (s : State) (f : Hart → Hart) : (s.modH f).cars = s.cars := rfl
@[simp] theorem modH_slices (s : State) (f : Hart → Hart) : (s.modH f).slices = s.slices := rfl
@[simp] theorem modH_disps (s : State) (f : Hart → Hart) : (s.modH f).disps = s.disps := rfl
@[simp] theorem modH_cores (s : State) (f : Hart → Hart) : (s.modH f).cores = s.cores := rfl
@[simp] theorem modH_books (s : State) (f : Hart → Hart) : (s.modH f).books = s.books := rfl
@[simp] theorem modH_meshes (s : State) (f : Hart → Hart) : (s.modH f).meshes = s.meshes := rfl
@[simp] theorem modH_objs (s : State) (f : Hart → Hart) : (s.modH f).objs = s.objs := rfl
@[simp] theorem modH_forests (s : State) (f : Hart → Hart) : (s.modH f).forests = s.forests := rfl
@[simp] theorem modH_joins (s : State) (f : Hart → Hart) : (s.modH f).joins = s.joins := rfl
@[simp] theorem modH_legs (s : State) (f : Hart → Hart) : (s.modH f).legs = s.legs := rfl
@[simp] theorem modH_bazs (s : State) (f : Hart → Hart) : (s.modH f).bazs = s.bazs := rfl
@[simp] theorem modH_graphs (s : State) (f : Hart → Hart) : (s.modH f).graphs = s.graphs := rfl
@[simp] theorem modH_subs (s : State) (f : Hart → Hart) : (s.modH f).subs = s.subs := rfl
@[simp] theorem modH_queues (s : State) (f : Hart → Hart) : (s.modH f).queues = s.queues := rfl
@[simp] theorem modH_ctxs (s : State) (f : Hart → Hart) : (s.modH f).ctxs = s.ctxs := rfl
@[simp] theorem modH_regions (s : State) (f : Hart → Hart) : (s.modH f).regions = s.regions := rfl
@[simp] theorem modH_cps (s : State) (f : Hart → Hart) : (s.modH f).cps = s.cps := rfl
@[simp] theorem modH_dev (s : State) (f : Hart → Hart) : (s.modH f).dev = s.dev := rfl

@[simp] theorem modHart_own (s : State) (k : HartKey) (f : Hart → Hart) : (s.modHart k f).own = s.own := rfl
@[simp] theorem modHart_now (s : State) (k : HartKey) (f : Hart → Hart) : (s.modHart k f).now = s.now := rfl
@[simp] theorem modHart_mem (s : State) (k : HartKey) (f : Hart → Hart) : (s.modHart k f).mem = s.mem := rfl
@[simp] theorem modHart_poison (s : State) (k : HartKey) (f : Hart → Hart) : (s.modHart k f).poison = s.poison := rfl
@[simp] theorem modHart_cars (s : State) (k : HartKey) (f : Hart → Hart) : (s.modHart k f).cars = s.cars := rfl
@[simp] theorem modHart_slices (s : State) (k : HartKey) (f : Hart → Hart) : (s.modHart k f).slices = s.slices := rfl
@[simp] theorem modHart_disps (s : State) (k : HartKey) (f : Hart → Hart) : (s.modHart k f).disps = s.disps := rfl
@[simp] theorem modHart_cores (s : State) (k : HartKey) (f : Hart → Hart) : (s.modHart k f).cores = s.cores := rfl
@[simp] theorem modHart_books (s : State) (k : HartKey) (f : Hart → Hart) : (s.modHart k f).books = s.books := rfl
@[simp] theorem modHart_meshes (s : State) (k : HartKey) (f : Hart → Hart) : (s.modHart k f).meshes = s.meshes := rfl
@[simp] theorem modHart_objs (s : State) (k : HartKey) (f : Hart → Hart) : (s.modHart k f).objs = s.objs := rfl
@[simp] theorem modHart_forests (s : State) (k : HartKey) (f : Hart → Hart) : (s.modHart k f).forests = s.forests := rfl
@[simp] theorem modHart_joins (s : State) (k : HartKey) (f : Hart → Hart) : (s.modHart k f).joins = s.joins := rfl
@[simp] theorem modHart_legs (s : State) (k : HartKey) (f : Hart → Hart) : (s.modHart k f).legs = s.legs := rfl
@[simp] theorem modHart_bazs (s : State) (k : HartKey) (f : Hart → Hart) : (s.modHart k f).bazs = s.bazs := rfl
@[simp] theorem modHart_graphs (s : State) (k : HartKey) (f : Hart → Hart) : (s.modHart k f).graphs = s.graphs := rfl
@[simp] theorem modHart_subs (s : State) (k : HartKey) (f : Hart → Hart) : (s.modHart k f).subs = s.subs := rfl
@[simp] theorem modHart_queues (s : State) (k : HartKey) (f : Hart → Hart) : (s.modHart k f).queues = s.queues := rfl
@[simp] theorem modHart_ctxs (s : State) (k : HartKey) (f : Hart → Hart) : (s.modHart k f).ctxs = s.ctxs := rfl
@[simp] theorem modHart_regions (s : State) (k : HartKey) (f : Hart → Hart) : (s.modHart k f).regions = s.regions := rfl
@[simp] theorem modHart_cps (s : State) (k : HartKey) (f : Hart → Hart) : (s.modHart k f).cps = s.cps := rfl
@[simp] theorem modHart_dev (s : State) (k : HartKey) (f : Hart → Hart) : (s.modHart k f).dev = s.dev := rfl

@[simp] theorem setSeq_own (s : State) (q : Seq) : (s.setSeq q).own = s.own := rfl
@[simp] theorem setSeq_now (s : State) (q : Seq) : (s.setSeq q).now = s.now := rfl
@[simp] theorem setSeq_mem (s : State) (q : Seq) : (s.setSeq q).mem = s.mem := rfl
@[simp] theorem setSeq_poison (s : State) (q : Seq) : (s.setSeq q).poison = s.poison := rfl
@[simp] theorem setSeq_cars (s : State) (q : Seq) : (s.setSeq q).cars = s.cars := rfl
@[simp] theorem setSeq_slices (s : State) (q : Seq) : (s.setSeq q).slices = s.slices := rfl
@[simp] theorem setSeq_disps (s : State) (q : Seq) : (s.setSeq q).disps = s.disps := rfl
@[simp] theorem setSeq_cores (s : State) (q : Seq) : (s.setSeq q).cores = s.cores := rfl
@[simp] theorem setSeq_books (s : State) (q : Seq) : (s.setSeq q).books = s.books := rfl
@[simp] theorem setSeq_meshes (s : State) (q : Seq) : (s.setSeq q).meshes = s.meshes := rfl
@[simp] theorem setSeq_objs (s : State) (q : Seq) : (s.setSeq q).objs = s.objs := rfl
@[simp] theorem setSeq_forests (s : State) (q : Seq) : (s.setSeq q).forests = s.forests := rfl
@[simp] theorem setSeq_joins (s : State) (q : Seq) : (s.setSeq q).joins = s.joins := rfl
@[simp] theorem setSeq_legs (s : State) (q : Seq) : (s.setSeq q).legs = s.legs := rfl
@[simp] theorem setSeq_bazs (s : State) (q : Seq) : (s.setSeq q).bazs = s.bazs := rfl
@[simp] theorem setSeq_graphs (s : State) (q : Seq) : (s.setSeq q).graphs = s.graphs := rfl
@[simp] theorem setSeq_subs (s : State) (q : Seq) : (s.setSeq q).subs = s.subs := rfl
@[simp] theorem setSeq_queues (s : State) (q : Seq) : (s.setSeq q).queues = s.queues := rfl
@[simp] theorem setSeq_ctxs (s : State) (q : Seq) : (s.setSeq q).ctxs = s.ctxs := rfl
@[simp] theorem setSeq_regions (s : State) (q : Seq) : (s.setSeq q).regions = s.regions := rfl
@[simp] theorem setSeq_cps (s : State) (q : Seq) : (s.setSeq q).cps = s.cps := rfl
@[simp] theorem setSeq_dev (s : State) (q : Seq) : (s.setSeq q).dev = s.dev := rfl

@[simp] theorem actAs_now (s : State) (k : HartKey) (sd : Side) : (s.actAs k sd).now = s.now := rfl
@[simp] theorem actAs_mem (s : State) (k : HartKey) (sd : Side) : (s.actAs k sd).mem = s.mem := rfl
@[simp] theorem actAs_poison (s : State) (k : HartKey) (sd : Side) : (s.actAs k sd).poison = s.poison := rfl
@[simp] theorem actAs_harts (s : State) (k : HartKey) (sd : Side) : (s.actAs k sd).harts = s.harts := rfl
@[simp] theorem actAs_cars (s : State) (k : HartKey) (sd : Side) : (s.actAs k sd).cars = s.cars := rfl
@[simp] theorem actAs_slices (s : State) (k : HartKey) (sd : Side) : (s.actAs k sd).slices = s.slices := rfl
@[simp] theorem actAs_disps (s : State) (k : HartKey) (sd : Side) : (s.actAs k sd).disps = s.disps := rfl
@[simp] theorem actAs_cores (s : State) (k : HartKey) (sd : Side) : (s.actAs k sd).cores = s.cores := rfl
@[simp] theorem actAs_books (s : State) (k : HartKey) (sd : Side) : (s.actAs k sd).books = s.books := rfl
@[simp] theorem actAs_meshes (s : State) (k : HartKey) (sd : Side) : (s.actAs k sd).meshes = s.meshes := rfl
@[simp] theorem actAs_objs (s : State) (k : HartKey) (sd : Side) : (s.actAs k sd).objs = s.objs := rfl
@[simp] theorem actAs_forests (s : State) (k : HartKey) (sd : Side) : (s.actAs k sd).forests = s.forests := rfl
@[simp] theorem actAs_joins (s : State) (k : HartKey) (sd : Side) : (s.actAs k sd).joins = s.joins := rfl
@[simp] theorem actAs_legs (s : State) (k : HartKey) (sd : Side) : (s.actAs k sd).legs = s.legs := rfl
@[simp] theorem actAs_bazs (s : State) (k : HartKey) (sd : Side) : (s.actAs k sd).bazs = s.bazs := rfl
@[simp] theorem actAs_graphs (s : State) (k : HartKey) (sd : Side) : (s.actAs k sd).graphs = s.graphs := rfl
@[simp] theorem actAs_subs (s : State) (k : HartKey) (sd : Side) : (s.actAs k sd).subs = s.subs := rfl
@[simp] theorem actAs_queues (s : State) (k : HartKey) (sd : Side) : (s.actAs k sd).queues = s.queues := rfl
@[simp] theorem actAs_ctxs (s : State) (k : HartKey) (sd : Side) : (s.actAs k sd).ctxs = s.ctxs := rfl
@[simp] theorem actAs_regions (s : State) (k : HartKey) (sd : Side) : (s.actAs k sd).regions = s.regions := rfl
@[simp] theorem actAs_cps (s : State) (k : HartKey) (sd : Side) : (s.actAs k sd).cps = s.cps := rfl
@[simp] theorem actAs_dev (s : State) (k : HartKey) (sd : Side) : (s.actAs k sd).dev = s.dev := rfl

@[simp] theorem setCar_own (s : State) (c : CarId) (v : Caravan) : (s.setCar c v).own = s.own := rfl
@[simp] theorem setCar_now (s : State) (c : CarId) (v : Caravan) : (s.setCar c v).now = s.now := rfl
@[simp] theorem setCar_mem (s : State) (c : CarId) (v : Caravan) : (s.setCar c v).mem = s.mem := rfl
@[simp] theorem setCar_poison (s : State) (c : CarId) (v : Caravan) : (s.setCar c v).poison = s.poison := rfl
@[simp] theorem setCar_harts (s : State) (c : CarId) (v : Caravan) : (s.setCar c v).harts = s.harts := rfl
@[simp] theorem setCar_slices (s : State) (c : CarId) (v : Caravan) : (s.setCar c v).slices = s.slices := rfl
@[simp] theorem setCar_disps (s : State) (c : CarId) (v : Caravan) : (s.setCar c v).disps = s.disps := rfl
@[simp] theorem setCar_cores (s : State) (c : CarId) (v : Caravan) : (s.setCar c v).cores = s.cores := rfl
@[simp] theorem setCar_books (s : State) (c : CarId) (v : Caravan) : (s.setCar c v).books = s.books := rfl
@[simp] theorem setCar_meshes (s : State) (c : CarId) (v : Caravan) : (s.setCar c v).meshes = s.meshes := rfl
@[simp] theorem setCar_objs (s : State) (c : CarId) (v : Caravan) : (s.setCar c v).objs = s.objs := rfl
@[simp] theorem setCar_forests (s : State) (c : CarId) (v : Caravan) : (s.setCar c v).forests = s.forests := rfl
@[simp] theorem setCar_joins (s : State) (c : CarId) (v : Caravan) : (s.setCar c v).joins = s.joins := rfl
@[simp] theorem setCar_legs (s : State) (c : CarId) (v : Caravan) : (s.setCar c v).legs = s.legs := rfl
@[simp] theorem setCar_bazs (s : State) (c : CarId) (v : Caravan) : (s.setCar c v).bazs = s.bazs := rfl
@[simp] theorem setCar_graphs (s : State) (c : CarId) (v : Caravan) : (s.setCar c v).graphs = s.graphs := rfl
@[simp] theorem setCar_subs (s : State) (c : CarId) (v : Caravan) : (s.setCar c v).subs = s.subs := rfl
@[simp] theorem setCar_queues (s : State) (c : CarId) (v : Caravan) : (s.setCar c v).queues = s.queues := rfl
@[simp] theorem setCar_ctxs (s : State) (c : CarId) (v : Caravan) : (s.setCar c v).ctxs = s.ctxs := rfl
@[simp] theorem setCar_regions (s : State) (c : CarId) (v : Caravan) : (s.setCar c v).regions = s.regions := rfl
@[simp] theorem setCar_cps (s : State) (c : CarId) (v : Caravan) : (s.setCar c v).cps = s.cps := rfl
@[simp] theorem setCar_dev (s : State) (c : CarId) (v : Caravan) : (s.setCar c v).dev = s.dev := rfl

@[simp] theorem setSlice_own (s : State) (n : Nat) (v : Slice) : (s.setSlice n v).own = s.own := rfl
@[simp] theorem setSlice_now (s : State) (n : Nat) (v : Slice) : (s.setSlice n v).now = s.now := rfl
@[simp] theorem setSlice_mem (s : State) (n : Nat) (v : Slice) : (s.setSlice n v).mem = s.mem := rfl
@[simp] theorem setSlice_poison (s : State) (n : Nat) (v : Slice) : (s.setSlice n v).poison = s.poison := rfl
@[simp] theorem setSlice_harts (s : State) (n : Nat) (v : Slice) : (s.setSlice n v).harts = s.harts := rfl
@[simp] theorem setSlice_cars (s : State) (n : Nat) (v : Slice) : (s.setSlice n v).cars = s.cars := rfl
@[simp] theorem setSlice_disps (s : State) (n : Nat) (v : Slice) : (s.setSlice n v).disps = s.disps := rfl
@[simp] theorem setSlice_cores (s : State) (n : Nat) (v : Slice) : (s.setSlice n v).cores = s.cores := rfl
@[simp] theorem setSlice_books (s : State) (n : Nat) (v : Slice) : (s.setSlice n v).books = s.books := rfl
@[simp] theorem setSlice_meshes (s : State) (n : Nat) (v : Slice) : (s.setSlice n v).meshes = s.meshes := rfl
@[simp] theorem setSlice_objs (s : State) (n : Nat) (v : Slice) : (s.setSlice n v).objs = s.objs := rfl
@[simp] theorem setSlice_forests (s : State) (n : Nat) (v : Slice) : (s.setSlice n v).forests = s.forests := rfl
@[simp] theorem setSlice_joins (s : State) (n : Nat) (v : Slice) : (s.setSlice n v).joins = s.joins := rfl
@[simp] theorem setSlice_legs (s : State) (n : Nat) (v : Slice) : (s.setSlice n v).legs = s.legs := rfl
@[simp] theorem setSlice_bazs (s : State) (n : Nat) (v : Slice) : (s.setSlice n v).bazs = s.bazs := rfl
@[simp] theorem setSlice_graphs (s : State) (n : Nat) (v : Slice) : (s.setSlice n v).graphs = s.graphs := rfl
@[simp] theorem setSlice_subs (s : State) (n : Nat) (v : Slice) : (s.setSlice n v).subs = s.subs := rfl
@[simp] theorem setSlice_queues (s : State) (n : Nat) (v : Slice) : (s.setSlice n v).queues = s.queues := rfl
@[simp] theorem setSlice_ctxs (s : State) (n : Nat) (v : Slice) : (s.setSlice n v).ctxs = s.ctxs := rfl
@[simp] theorem setSlice_regions (s : State) (n : Nat) (v : Slice) : (s.setSlice n v).regions = s.regions := rfl
@[simp] theorem setSlice_cps (s : State) (n : Nat) (v : Slice) : (s.setSlice n v).cps = s.cps := rfl
@[simp] theorem setSlice_dev (s : State) (n : Nat) (v : Slice) : (s.setSlice n v).dev = s.dev := rfl

@[simp] theorem setCore_own (s : State) (n : Nat) (v : Core) : (s.setCore n v).own = s.own := rfl
@[simp] theorem setCore_now (s : State) (n : Nat) (v : Core) : (s.setCore n v).now = s.now := rfl
@[simp] theorem setCore_mem (s : State) (n : Nat) (v : Core) : (s.setCore n v).mem = s.mem := rfl
@[simp] theorem setCore_poison (s : State) (n : Nat) (v : Core) : (s.setCore n v).poison = s.poison := rfl
@[simp] theorem setCore_harts (s : State) (n : Nat) (v : Core) : (s.setCore n v).harts = s.harts := rfl
@[simp] theorem setCore_cars (s : State) (n : Nat) (v : Core) : (s.setCore n v).cars = s.cars := rfl
@[simp] theorem setCore_slices (s : State) (n : Nat) (v : Core) : (s.setCore n v).slices = s.slices := rfl
@[simp] theorem setCore_disps (s : State) (n : Nat) (v : Core) : (s.setCore n v).disps = s.disps := rfl
@[simp] theorem setCore_books (s : State) (n : Nat) (v : Core) : (s.setCore n v).books = s.books := rfl
@[simp] theorem setCore_meshes (s : State) (n : Nat) (v : Core) : (s.setCore n v).meshes = s.meshes := rfl
@[simp] theorem setCore_objs (s : State) (n : Nat) (v : Core) : (s.setCore n v).objs = s.objs := rfl
@[simp] theorem setCore_forests (s : State) (n : Nat) (v : Core) : (s.setCore n v).forests = s.forests := rfl
@[simp] theorem setCore_joins (s : State) (n : Nat) (v : Core) : (s.setCore n v).joins = s.joins := rfl
@[simp] theorem setCore_legs (s : State) (n : Nat) (v : Core) : (s.setCore n v).legs = s.legs := rfl
@[simp] theorem setCore_bazs (s : State) (n : Nat) (v : Core) : (s.setCore n v).bazs = s.bazs := rfl
@[simp] theorem setCore_graphs (s : State) (n : Nat) (v : Core) : (s.setCore n v).graphs = s.graphs := rfl
@[simp] theorem setCore_subs (s : State) (n : Nat) (v : Core) : (s.setCore n v).subs = s.subs := rfl
@[simp] theorem setCore_queues (s : State) (n : Nat) (v : Core) : (s.setCore n v).queues = s.queues := rfl
@[simp] theorem setCore_ctxs (s : State) (n : Nat) (v : Core) : (s.setCore n v).ctxs = s.ctxs := rfl
@[simp] theorem setCore_regions (s : State) (n : Nat) (v : Core) : (s.setCore n v).regions = s.regions := rfl
@[simp] theorem setCore_cps (s : State) (n : Nat) (v : Core) : (s.setCore n v).cps = s.cps := rfl
@[simp] theorem setCore_dev (s : State) (n : Nat) (v : Core) : (s.setCore n v).dev = s.dev := rfl

@[simp] theorem setDisp_own (s : State) (n : Nat) (v : Disp) : (s.setDisp n v).own = s.own := rfl
@[simp] theorem setDisp_now (s : State) (n : Nat) (v : Disp) : (s.setDisp n v).now = s.now := rfl
@[simp] theorem setDisp_mem (s : State) (n : Nat) (v : Disp) : (s.setDisp n v).mem = s.mem := rfl
@[simp] theorem setDisp_poison (s : State) (n : Nat) (v : Disp) : (s.setDisp n v).poison = s.poison := rfl
@[simp] theorem setDisp_harts (s : State) (n : Nat) (v : Disp) : (s.setDisp n v).harts = s.harts := rfl
@[simp] theorem setDisp_cars (s : State) (n : Nat) (v : Disp) : (s.setDisp n v).cars = s.cars := rfl
@[simp] theorem setDisp_slices (s : State) (n : Nat) (v : Disp) : (s.setDisp n v).slices = s.slices := rfl
@[simp] theorem setDisp_cores (s : State) (n : Nat) (v : Disp) : (s.setDisp n v).cores = s.cores := rfl
@[simp] theorem setDisp_books (s : State) (n : Nat) (v : Disp) : (s.setDisp n v).books = s.books := rfl
@[simp] theorem setDisp_meshes (s : State) (n : Nat) (v : Disp) : (s.setDisp n v).meshes = s.meshes := rfl
@[simp] theorem setDisp_objs (s : State) (n : Nat) (v : Disp) : (s.setDisp n v).objs = s.objs := rfl
@[simp] theorem setDisp_forests (s : State) (n : Nat) (v : Disp) : (s.setDisp n v).forests = s.forests := rfl
@[simp] theorem setDisp_joins (s : State) (n : Nat) (v : Disp) : (s.setDisp n v).joins = s.joins := rfl
@[simp] theorem setDisp_legs (s : State) (n : Nat) (v : Disp) : (s.setDisp n v).legs = s.legs := rfl
@[simp] theorem setDisp_bazs (s : State) (n : Nat) (v : Disp) : (s.setDisp n v).bazs = s.bazs := rfl
@[simp] theorem setDisp_graphs (s : State) (n : Nat) (v : Disp) : (s.setDisp n v).graphs = s.graphs := rfl
@[simp] theorem setDisp_subs (s : State) (n : Nat) (v : Disp) : (s.setDisp n v).subs = s.subs := rfl
@[simp] theorem setDisp_queues (s : State) (n : Nat) (v : Disp) : (s.setDisp n v).queues = s.queues := rfl
@[simp] theorem setDisp_ctxs (s : State) (n : Nat) (v : Disp) : (s.setDisp n v).ctxs = s.ctxs := rfl
@[simp] theorem setDisp_regions (s : State) (n : Nat) (v : Disp) : (s.setDisp n v).regions = s.regions := rfl
@[simp] theorem setDisp_cps (s : State) (n : Nat) (v : Disp) : (s.setDisp n v).cps = s.cps := rfl
@[simp] theorem setDisp_dev (s : State) (n : Nat) (v : Disp) : (s.setDisp n v).dev = s.dev := rfl

@[simp] theorem put_own (s : State) (key : Nat) (bs : List (Byte × Byte)) (act : PoisonAct) : (s.put key bs act).own = s.own := rfl
@[simp] theorem put_now (s : State) (key : Nat) (bs : List (Byte × Byte)) (act : PoisonAct) : (s.put key bs act).now = s.now := rfl
@[simp] theorem put_cars (s : State) (key : Nat) (bs : List (Byte × Byte)) (act : PoisonAct) : (s.put key bs act).cars = s.cars := rfl
@[simp] theorem put_slices (s : State) (key : Nat) (bs : List (Byte × Byte)) (act : PoisonAct) : (s.put key bs act).slices = s.slices := rfl
@[simp] theorem put_disps (s : State) (key : Nat) (bs : List (Byte × Byte)) (act : PoisonAct) : (s.put key bs act).disps = s.disps := rfl
@[simp] theorem put_cores (s : State) (key : Nat) (bs : List (Byte × Byte)) (act : PoisonAct) : (s.put key bs act).cores = s.cores := rfl
@[simp] theorem put_books (s : State) (key : Nat) (bs : List (Byte × Byte)) (act : PoisonAct) : (s.put key bs act).books = s.books := rfl
@[simp] theorem put_meshes (s : State) (key : Nat) (bs : List (Byte × Byte)) (act : PoisonAct) : (s.put key bs act).meshes = s.meshes := rfl
@[simp] theorem put_objs (s : State) (key : Nat) (bs : List (Byte × Byte)) (act : PoisonAct) : (s.put key bs act).objs = s.objs := rfl
@[simp] theorem put_forests (s : State) (key : Nat) (bs : List (Byte × Byte)) (act : PoisonAct) : (s.put key bs act).forests = s.forests := rfl
@[simp] theorem put_joins (s : State) (key : Nat) (bs : List (Byte × Byte)) (act : PoisonAct) : (s.put key bs act).joins = s.joins := rfl
@[simp] theorem put_legs (s : State) (key : Nat) (bs : List (Byte × Byte)) (act : PoisonAct) : (s.put key bs act).legs = s.legs := rfl
@[simp] theorem put_bazs (s : State) (key : Nat) (bs : List (Byte × Byte)) (act : PoisonAct) : (s.put key bs act).bazs = s.bazs := rfl
@[simp] theorem put_graphs (s : State) (key : Nat) (bs : List (Byte × Byte)) (act : PoisonAct) : (s.put key bs act).graphs = s.graphs := rfl
@[simp] theorem put_subs (s : State) (key : Nat) (bs : List (Byte × Byte)) (act : PoisonAct) : (s.put key bs act).subs = s.subs := rfl
@[simp] theorem put_queues (s : State) (key : Nat) (bs : List (Byte × Byte)) (act : PoisonAct) : (s.put key bs act).queues = s.queues := rfl
@[simp] theorem put_ctxs (s : State) (key : Nat) (bs : List (Byte × Byte)) (act : PoisonAct) : (s.put key bs act).ctxs = s.ctxs := rfl
@[simp] theorem put_regions (s : State) (key : Nat) (bs : List (Byte × Byte)) (act : PoisonAct) : (s.put key bs act).regions = s.regions := rfl
@[simp] theorem put_cps (s : State) (key : Nat) (bs : List (Byte × Byte)) (act : PoisonAct) : (s.put key bs act).cps = s.cps := rfl
@[simp] theorem put_dev (s : State) (key : Nat) (bs : List (Byte × Byte)) (act : PoisonAct) : (s.put key bs act).dev = s.dev := rfl

@[simp] theorem putBytes_own (s : State) (bs : List (Nat × Byte × Bool)) : (s.putBytes bs).own = s.own := rfl
@[simp] theorem putBytes_now (s : State) (bs : List (Nat × Byte × Bool)) : (s.putBytes bs).now = s.now := rfl
@[simp] theorem putBytes_cars (s : State) (bs : List (Nat × Byte × Bool)) : (s.putBytes bs).cars = s.cars := rfl
@[simp] theorem putBytes_slices (s : State) (bs : List (Nat × Byte × Bool)) : (s.putBytes bs).slices = s.slices := rfl
@[simp] theorem putBytes_disps (s : State) (bs : List (Nat × Byte × Bool)) : (s.putBytes bs).disps = s.disps := rfl
@[simp] theorem putBytes_cores (s : State) (bs : List (Nat × Byte × Bool)) : (s.putBytes bs).cores = s.cores := rfl
@[simp] theorem putBytes_books (s : State) (bs : List (Nat × Byte × Bool)) : (s.putBytes bs).books = s.books := rfl
@[simp] theorem putBytes_meshes (s : State) (bs : List (Nat × Byte × Bool)) : (s.putBytes bs).meshes = s.meshes := rfl
@[simp] theorem putBytes_objs (s : State) (bs : List (Nat × Byte × Bool)) : (s.putBytes bs).objs = s.objs := rfl
@[simp] theorem putBytes_forests (s : State) (bs : List (Nat × Byte × Bool)) : (s.putBytes bs).forests = s.forests := rfl
@[simp] theorem putBytes_joins (s : State) (bs : List (Nat × Byte × Bool)) : (s.putBytes bs).joins = s.joins := rfl
@[simp] theorem putBytes_legs (s : State) (bs : List (Nat × Byte × Bool)) : (s.putBytes bs).legs = s.legs := rfl
@[simp] theorem putBytes_bazs (s : State) (bs : List (Nat × Byte × Bool)) : (s.putBytes bs).bazs = s.bazs := rfl
@[simp] theorem putBytes_graphs (s : State) (bs : List (Nat × Byte × Bool)) : (s.putBytes bs).graphs = s.graphs := rfl
@[simp] theorem putBytes_subs (s : State) (bs : List (Nat × Byte × Bool)) : (s.putBytes bs).subs = s.subs := rfl
@[simp] theorem putBytes_queues (s : State) (bs : List (Nat × Byte × Bool)) : (s.putBytes bs).queues = s.queues := rfl
@[simp] theorem putBytes_ctxs (s : State) (bs : List (Nat × Byte × Bool)) : (s.putBytes bs).ctxs = s.ctxs := rfl
@[simp] theorem putBytes_regions (s : State) (bs : List (Nat × Byte × Bool)) : (s.putBytes bs).regions = s.regions := rfl
@[simp] theorem putBytes_cps (s : State) (bs : List (Nat × Byte × Bool)) : (s.putBytes bs).cps = s.cps := rfl
@[simp] theorem putBytes_dev (s : State) (bs : List (Nat × Byte × Bool)) : (s.putBytes bs).dev = s.dev := rfl

@[simp] theorem unbook_own (s : State) (i : CmdId) : (s.unbook i).own = s.own := rfl
@[simp] theorem unbook_now (s : State) (i : CmdId) : (s.unbook i).now = s.now := rfl
@[simp] theorem unbook_mem (s : State) (i : CmdId) : (s.unbook i).mem = s.mem := rfl
@[simp] theorem unbook_poison (s : State) (i : CmdId) : (s.unbook i).poison = s.poison := rfl
@[simp] theorem unbook_harts (s : State) (i : CmdId) : (s.unbook i).harts = s.harts := rfl
@[simp] theorem unbook_cars (s : State) (i : CmdId) : (s.unbook i).cars = s.cars := rfl
@[simp] theorem unbook_slices (s : State) (i : CmdId) : (s.unbook i).slices = s.slices := rfl
@[simp] theorem unbook_disps (s : State) (i : CmdId) : (s.unbook i).disps = s.disps := rfl
@[simp] theorem unbook_cores (s : State) (i : CmdId) : (s.unbook i).cores = s.cores := rfl
@[simp] theorem unbook_meshes (s : State) (i : CmdId) : (s.unbook i).meshes = s.meshes := rfl
@[simp] theorem unbook_objs (s : State) (i : CmdId) : (s.unbook i).objs = s.objs := rfl
@[simp] theorem unbook_forests (s : State) (i : CmdId) : (s.unbook i).forests = s.forests := rfl
@[simp] theorem unbook_joins (s : State) (i : CmdId) : (s.unbook i).joins = s.joins := rfl
@[simp] theorem unbook_legs (s : State) (i : CmdId) : (s.unbook i).legs = s.legs := rfl
@[simp] theorem unbook_bazs (s : State) (i : CmdId) : (s.unbook i).bazs = s.bazs := rfl
@[simp] theorem unbook_graphs (s : State) (i : CmdId) : (s.unbook i).graphs = s.graphs := rfl
@[simp] theorem unbook_subs (s : State) (i : CmdId) : (s.unbook i).subs = s.subs := rfl
@[simp] theorem unbook_queues (s : State) (i : CmdId) : (s.unbook i).queues = s.queues := rfl
@[simp] theorem unbook_ctxs (s : State) (i : CmdId) : (s.unbook i).ctxs = s.ctxs := rfl
@[simp] theorem unbook_regions (s : State) (i : CmdId) : (s.unbook i).regions = s.regions := rfl
@[simp] theorem unbook_cps (s : State) (i : CmdId) : (s.unbook i).cps = s.cps := rfl
@[simp] theorem unbook_dev (s : State) (i : CmdId) : (s.unbook i).dev = s.dev := rfl

/-! ### Harts, caravans, slices and cores after an update -/

@[simp] theorem hart_setHart_same (s : State) (k : HartKey) (h : Hart) : (s.setHart k h).hart k = h := by
  simp [State.hart, State.setHart]

theorem hart_setHart_other (s : State) {k j : HartKey} (h : Hart) (e : j ≠ k) : (s.setHart k h).hart j = s.hart j := by
  simp [State.hart, State.setHart, kvGetD_kvSet_other _ _ _ e]

@[simp] theorem hart_modHart_same (s : State) (k : HartKey) (f : Hart → Hart) : (s.modHart k f).hart k = f (s.hart k) := by
  simp [State.modHart]

theorem hart_modHart_other (s : State) {k j : HartKey} (f : Hart → Hart) (e : j ≠ k) :
    (s.modHart k f).hart j = s.hart j := by simp [State.modHart, hart_setHart_other _ _ e]

@[simp] theorem h_setH (s : State) (h : Hart) : (s.setH h).h = h := by simp [State.h, State.setH]

theorem hart_setH_other (s : State) {j : HartKey} (h : Hart) (e : j ≠ s.own.cur) : (s.setH h).hart j = s.hart j := by
  simp [State.setH, hart_setHart_other _ _ e]

@[simp] theorem h_modH (s : State) (f : Hart → Hart) : (s.modH f).h = f s.h := by simp [State.modH]

theorem hart_modH_other (s : State) {j : HartKey} (f : Hart → Hart) (e : j ≠ s.own.cur) :
    (s.modH f).hart j = s.hart j := by simp [State.modH, hart_setH_other _ _ e]

@[simp] theorem hseq_setSeq (h : Hart) (sd : Side) (q : Seq) : (h.setSeq sd q).seq sd = q := by cases sd <;> rfl

@[simp] theorem hseq_setSeq_other (h : Hart) (q : Seq) (sd sd' : Side) (e : sd' ≠ sd) :
    (h.setSeq sd q).seq sd' = h.seq sd' := by cases sd <;> cases sd' <;> simp_all [Hart.setSeq, Hart.seq]

@[simp] theorem seq_setSeq (s : State) (q : Seq) : (s.setSeq q).seq = q := by
  simp [State.seq, State.setSeq]

@[simp] theorem h_actAs (s : State) (k : HartKey) (sd : Side) : (s.actAs k sd).h = s.hart k := rfl

@[simp] theorem hart_actAs (s : State) (k j : HartKey) (sd : Side) : (s.actAs k sd).hart j = s.hart j := rfl

@[simp] theorem carOf_setCar_same (s : State) (c : CarId) (v : Caravan) : (s.setCar c v).carOf c = v := by
  simp [State.carOf, State.setCar]

theorem carOf_setCar_other (s : State) {c e : CarId} (v : Caravan) (h : e ≠ c) : (s.setCar c v).carOf e = s.carOf e := by
  simp [State.carOf, State.setCar, kvGetD_kvSet_other _ _ _ h]

@[simp] theorem carOf_setHart (s : State) (k : HartKey) (h : Hart) (c : CarId) : (s.setHart k h).carOf c = s.carOf c := rfl

@[simp] theorem carOf_modH (s : State) (f : Hart → Hart) (c : CarId) : (s.modH f).carOf c = s.carOf c := rfl

@[simp] theorem caravan_modH (s : State) (f : Hart → Hart) (k : HartKey) : (s.modH f).caravan k = s.caravan k := rfl

@[simp] theorem sliceNo_setSlice_same (s : State) (n : Nat) (v : Slice) : (s.setSlice n v).sliceNo n = v := by
  simp [State.sliceNo, State.setSlice]

@[simp] theorem coreNo_setCore_same (s : State) (n : Nat) (v : Core) : (s.setCore n v).coreNo n = v := by
  simp [State.coreNo, State.setCore]

@[simp] theorem disp_setDisp_same (s : State) (n : Nat) (v : Disp) : (s.setDisp n v).disp n = v := by
  simp [State.disp, State.setDisp]

/-! ### Parts of a hart after an update -/

@[simp] theorem hwriteA_a (h : Hart) (r : Reg) (v : Word) : (h.writeA r v).a = h.a := by
  unfold Hart.writeA; split <;> rfl
@[simp] theorem hwriteA_x (h : Hart) (r : Reg) (v : Word) : (h.writeA r v).x = h.x := by
  unfold Hart.writeA; split <;> rfl
@[simp] theorem hwriteA_aside (h : Hart) (r : Reg) (v : Word) : (h.writeA r v).aside = h.aside := by
  unfold Hart.writeA; split <;> rfl
@[simp] theorem hwriteA_q (h : Hart) (r : Reg) (v : Word) : (h.writeA r v).q = h.q := by
  unfold Hart.writeA; split <;> rfl
@[simp] theorem hwriteA_csr (h : Hart) (r : Reg) (v : Word) : (h.writeA r v).csr = h.csr := by
  unfold Hart.writeA; split <;> rfl
@[simp] theorem hwriteA_tr (h : Hart) (r : Reg) (v : Word) : (h.writeA r v).tr = h.tr := by
  unfold Hart.writeA; split <;> rfl
@[simp] theorem hwriteA_wph (h : Hart) (r : Reg) (v : Word) : (h.writeA r v).wph = h.wph := by
  unfold Hart.writeA; split <;> rfl
@[simp] theorem hwriteA_event (h : Hart) (r : Reg) (v : Word) : (h.writeA r v).event = h.event := by
  unfold Hart.writeA; split <;> rfl
@[simp] theorem hwriteA_mem (h : Hart) (r : Reg) (v : Word) : (h.writeA r v).mem = h.mem := by
  unfold Hart.writeA; split <;> rfl
@[simp] theorem hwriteA_eng (h : Hart) (r : Reg) (v : Word) : (h.writeA r v).eng = h.eng := by
  unfold Hart.writeA; split <;> rfl
@[simp] theorem hwriteA_trapAt (h : Hart) (r : Reg) (v : Word) : (h.writeA r v).trapAt = h.trapAt := by
  unfold Hart.writeA; split <;> rfl
@[simp] theorem hwriteA_icache (h : Hart) (r : Reg) (v : Word) : (h.writeA r v).icache = h.icache := by
  unfold Hart.writeA; split <;> rfl
@[simp] theorem hwriteA_spare (h : Hart) (r : Reg) (v : Word) : (h.writeA r v).spare = h.spare := by
  unfold Hart.writeA; split <;> rfl

@[simp] theorem hwriteX_a (h : Hart) (r : Reg) (v : Word) : (h.writeX r v).a = h.a := by
  unfold Hart.writeX; split
  · rfl
  · split <;> rfl
@[simp] theorem hwriteX_x (h : Hart) (r : Reg) (v : Word) : (h.writeX r v).x = h.x := by
  unfold Hart.writeX; split
  · rfl
  · split <;> rfl
@[simp] theorem hwriteX_aside (h : Hart) (r : Reg) (v : Word) : (h.writeX r v).aside = h.aside := by
  unfold Hart.writeX; split
  · rfl
  · split <;> rfl
@[simp] theorem hwriteX_csr (h : Hart) (r : Reg) (v : Word) : (h.writeX r v).csr = h.csr := by
  unfold Hart.writeX; split
  · rfl
  · split <;> rfl
@[simp] theorem hwriteX_tr (h : Hart) (r : Reg) (v : Word) : (h.writeX r v).tr = h.tr := by
  unfold Hart.writeX; split
  · rfl
  · split <;> rfl
@[simp] theorem hwriteX_wph (h : Hart) (r : Reg) (v : Word) : (h.writeX r v).wph = h.wph := by
  unfold Hart.writeX; split
  · rfl
  · split <;> rfl
@[simp] theorem hwriteX_event (h : Hart) (r : Reg) (v : Word) : (h.writeX r v).event = h.event := by
  unfold Hart.writeX; split
  · rfl
  · split <;> rfl
@[simp] theorem hwriteX_mem (h : Hart) (r : Reg) (v : Word) : (h.writeX r v).mem = h.mem := by
  unfold Hart.writeX; split
  · rfl
  · split <;> rfl
@[simp] theorem hwriteX_eng (h : Hart) (r : Reg) (v : Word) : (h.writeX r v).eng = h.eng := by
  unfold Hart.writeX; split
  · rfl
  · split <;> rfl
@[simp] theorem hwriteX_trapAt (h : Hart) (r : Reg) (v : Word) : (h.writeX r v).trapAt = h.trapAt := by
  unfold Hart.writeX; split
  · rfl
  · split <;> rfl
@[simp] theorem hwriteX_icache (h : Hart) (r : Reg) (v : Word) : (h.writeX r v).icache = h.icache := by
  unfold Hart.writeX; split
  · rfl
  · split <;> rfl
@[simp] theorem hwriteX_spare (h : Hart) (r : Reg) (v : Word) : (h.writeX r v).spare = h.spare := by
  unfold Hart.writeX; split
  · rfl
  · split <;> rfl

@[simp] theorem hpushToA_a (h : Hart) (n : Fin 4) (v : Word) : (h.pushToA n v).a = h.a := rfl
@[simp] theorem hpushToA_x (h : Hart) (n : Fin 4) (v : Word) : (h.pushToA n v).x = h.x := rfl
@[simp] theorem hpushToA_aside (h : Hart) (n : Fin 4) (v : Word) : (h.pushToA n v).aside = h.aside := rfl
@[simp] theorem hpushToA_regs (h : Hart) (n : Fin 4) (v : Word) : (h.pushToA n v).regs = h.regs := rfl
@[simp] theorem hpushToA_csr (h : Hart) (n : Fin 4) (v : Word) : (h.pushToA n v).csr = h.csr := rfl
@[simp] theorem hpushToA_tr (h : Hart) (n : Fin 4) (v : Word) : (h.pushToA n v).tr = h.tr := rfl
@[simp] theorem hpushToA_wph (h : Hart) (n : Fin 4) (v : Word) : (h.pushToA n v).wph = h.wph := rfl
@[simp] theorem hpushToA_event (h : Hart) (n : Fin 4) (v : Word) : (h.pushToA n v).event = h.event := rfl
@[simp] theorem hpushToA_mem (h : Hart) (n : Fin 4) (v : Word) : (h.pushToA n v).mem = h.mem := rfl
@[simp] theorem hpushToA_eng (h : Hart) (n : Fin 4) (v : Word) : (h.pushToA n v).eng = h.eng := rfl
@[simp] theorem hpushToA_trapAt (h : Hart) (n : Fin 4) (v : Word) : (h.pushToA n v).trapAt = h.trapAt := rfl
@[simp] theorem hpushToA_icache (h : Hart) (n : Fin 4) (v : Word) : (h.pushToA n v).icache = h.icache := rfl
@[simp] theorem hpushToA_spare (h : Hart) (n : Fin 4) (v : Word) : (h.pushToA n v).spare = h.spare := rfl

@[simp] theorem hpushToX_a (h : Hart) (n : Fin 4) (v : Word) : (h.pushToX n v).a = h.a := rfl
@[simp] theorem hpushToX_x (h : Hart) (n : Fin 4) (v : Word) : (h.pushToX n v).x = h.x := rfl
@[simp] theorem hpushToX_aside (h : Hart) (n : Fin 4) (v : Word) : (h.pushToX n v).aside = h.aside := rfl
@[simp] theorem hpushToX_regs (h : Hart) (n : Fin 4) (v : Word) : (h.pushToX n v).regs = h.regs := rfl
@[simp] theorem hpushToX_csr (h : Hart) (n : Fin 4) (v : Word) : (h.pushToX n v).csr = h.csr := rfl
@[simp] theorem hpushToX_tr (h : Hart) (n : Fin 4) (v : Word) : (h.pushToX n v).tr = h.tr := rfl
@[simp] theorem hpushToX_wph (h : Hart) (n : Fin 4) (v : Word) : (h.pushToX n v).wph = h.wph := rfl
@[simp] theorem hpushToX_event (h : Hart) (n : Fin 4) (v : Word) : (h.pushToX n v).event = h.event := rfl
@[simp] theorem hpushToX_mem (h : Hart) (n : Fin 4) (v : Word) : (h.pushToX n v).mem = h.mem := rfl
@[simp] theorem hpushToX_eng (h : Hart) (n : Fin 4) (v : Word) : (h.pushToX n v).eng = h.eng := rfl
@[simp] theorem hpushToX_trapAt (h : Hart) (n : Fin 4) (v : Word) : (h.pushToX n v).trapAt = h.trapAt := rfl
@[simp] theorem hpushToX_icache (h : Hart) (n : Fin 4) (v : Word) : (h.pushToX n v).icache = h.icache := rfl
@[simp] theorem hpushToX_spare (h : Hart) (n : Fin 4) (v : Word) : (h.pushToX n v).spare = h.spare := rfl

@[simp] theorem habandon_aside (h : Hart) : (h.abandon).aside = h.aside := rfl
@[simp] theorem habandon_regs (h : Hart) : (h.abandon).regs = h.regs := rfl
@[simp] theorem habandon_q (h : Hart) : (h.abandon).q = h.q := rfl
@[simp] theorem habandon_csr (h : Hart) : (h.abandon).csr = h.csr := rfl
@[simp] theorem habandon_tr (h : Hart) : (h.abandon).tr = h.tr := rfl
@[simp] theorem habandon_wph (h : Hart) : (h.abandon).wph = h.wph := rfl
@[simp] theorem habandon_event (h : Hart) : (h.abandon).event = h.event := rfl
@[simp] theorem habandon_eng (h : Hart) : (h.abandon).eng = h.eng := rfl
@[simp] theorem habandon_trapAt (h : Hart) : (h.abandon).trapAt = h.trapAt := rfl
@[simp] theorem habandon_icache (h : Hart) : (h.abandon).icache = h.icache := rfl
@[simp] theorem habandon_spare (h : Hart) : (h.abandon).spare = h.spare := rfl

@[simp] theorem hrecord_a (h : Hart) (sd : Side) (t : Trap) (r : Word) : (h.record sd t r).a = h.a := rfl
@[simp] theorem hrecord_x (h : Hart) (sd : Side) (t : Trap) (r : Word) : (h.record sd t r).x = h.x := rfl
@[simp] theorem hrecord_aside (h : Hart) (sd : Side) (t : Trap) (r : Word) : (h.record sd t r).aside = h.aside := rfl
@[simp] theorem hrecord_regs (h : Hart) (sd : Side) (t : Trap) (r : Word) : (h.record sd t r).regs = h.regs := rfl
@[simp] theorem hrecord_q (h : Hart) (sd : Side) (t : Trap) (r : Word) : (h.record sd t r).q = h.q := rfl
@[simp] theorem hrecord_csr (h : Hart) (sd : Side) (t : Trap) (r : Word) : (h.record sd t r).csr = h.csr := rfl
@[simp] theorem hrecord_wph (h : Hart) (sd : Side) (t : Trap) (r : Word) : (h.record sd t r).wph = h.wph := rfl
@[simp] theorem hrecord_event (h : Hart) (sd : Side) (t : Trap) (r : Word) : (h.record sd t r).event = h.event := rfl
@[simp] theorem hrecord_mem (h : Hart) (sd : Side) (t : Trap) (r : Word) : (h.record sd t r).mem = h.mem := rfl
@[simp] theorem hrecord_eng (h : Hart) (sd : Side) (t : Trap) (r : Word) : (h.record sd t r).eng = h.eng := rfl
@[simp] theorem hrecord_trapAt (h : Hart) (sd : Side) (t : Trap) (r : Word) : (h.record sd t r).trapAt = h.trapAt := rfl
@[simp] theorem hrecord_icache (h : Hart) (sd : Side) (t : Trap) (r : Word) : (h.record sd t r).icache = h.icache := rfl
@[simp] theorem hrecord_spare (h : Hart) (sd : Side) (t : Trap) (r : Word) : (h.record sd t r).spare = h.spare := rfl

@[simp] theorem henterHandler_regs (h : Hart) (n : Nat) : (h.enterHandler n).regs = h.regs := rfl
@[simp] theorem henterHandler_q (h : Hart) (n : Nat) : (h.enterHandler n).q = h.q := rfl
@[simp] theorem henterHandler_csr (h : Hart) (n : Nat) : (h.enterHandler n).csr = h.csr := rfl
@[simp] theorem henterHandler_wph (h : Hart) (n : Nat) : (h.enterHandler n).wph = h.wph := rfl
@[simp] theorem henterHandler_event (h : Hart) (n : Nat) : (h.enterHandler n).event = h.event := rfl
@[simp] theorem henterHandler_mem (h : Hart) (n : Nat) : (h.enterHandler n).mem = h.mem := rfl
@[simp] theorem henterHandler_eng (h : Hart) (n : Nat) : (h.enterHandler n).eng = h.eng := rfl
@[simp] theorem henterHandler_icache (h : Hart) (n : Nat) : (h.enterHandler n).icache = h.icache := rfl
@[simp] theorem henterHandler_spare (h : Hart) (n : Nat) : (h.enterHandler n).spare = h.spare := rfl

@[simp] theorem heret_regs (h : Hart) : (h.eret).regs = h.regs := rfl
@[simp] theorem heret_q (h : Hart) : (h.eret).q = h.q := rfl
@[simp] theorem heret_csr (h : Hart) : (h.eret).csr = h.csr := rfl
@[simp] theorem heret_wph (h : Hart) : (h.eret).wph = h.wph := rfl
@[simp] theorem heret_event (h : Hart) : (h.eret).event = h.event := rfl
@[simp] theorem heret_mem (h : Hart) : (h.eret).mem = h.mem := rfl
@[simp] theorem heret_eng (h : Hart) : (h.eret).eng = h.eng := rfl
@[simp] theorem heret_trapAt (h : Hart) : (h.eret).trapAt = h.trapAt := rfl
@[simp] theorem heret_icache (h : Hart) : (h.eret).icache = h.icache := rfl
@[simp] theorem heret_spare (h : Hart) : (h.eret).spare = h.spare := rfl

@[simp] theorem hsetSeq_aside (h : Hart) (sd : Side) (q : Seq) : (h.setSeq sd q).aside = h.aside := by cases sd <;> rfl
@[simp] theorem hsetSeq_regs (h : Hart) (sd : Side) (q : Seq) : (h.setSeq sd q).regs = h.regs := by cases sd <;> rfl
@[simp] theorem hsetSeq_q (h : Hart) (sd : Side) (q : Seq) : (h.setSeq sd q).q = h.q := by cases sd <;> rfl
@[simp] theorem hsetSeq_csr (h : Hart) (sd : Side) (q : Seq) : (h.setSeq sd q).csr = h.csr := by cases sd <;> rfl
@[simp] theorem hsetSeq_tr (h : Hart) (sd : Side) (q : Seq) : (h.setSeq sd q).tr = h.tr := by cases sd <;> rfl
@[simp] theorem hsetSeq_wph (h : Hart) (sd : Side) (q : Seq) : (h.setSeq sd q).wph = h.wph := by cases sd <;> rfl
@[simp] theorem hsetSeq_event (h : Hart) (sd : Side) (q : Seq) : (h.setSeq sd q).event = h.event := by cases sd <;> rfl
@[simp] theorem hsetSeq_mem (h : Hart) (sd : Side) (q : Seq) : (h.setSeq sd q).mem = h.mem := by cases sd <;> rfl
@[simp] theorem hsetSeq_eng (h : Hart) (sd : Side) (q : Seq) : (h.setSeq sd q).eng = h.eng := by cases sd <;> rfl
@[simp] theorem hsetSeq_trapAt (h : Hart) (sd : Side) (q : Seq) : (h.setSeq sd q).trapAt = h.trapAt := by cases sd <;> rfl
@[simp] theorem hsetSeq_icache (h : Hart) (sd : Side) (q : Seq) : (h.setSeq sd q).icache = h.icache := by cases sd <;> rfl
@[simp] theorem hsetSeq_spare (h : Hart) (sd : Side) (q : Seq) : (h.setSeq sd q).spare = h.spare := by cases sd <;> rfl

theorem readA_writeA_same (h : Hart) (r : Reg) (v : Word) (e : r ≠ 0) : (h.writeA r v).readA r = v := by
  unfold Hart.writeA Hart.readA
  rw [if_neg e, if_neg e]
  simp

theorem readA_writeA_other (h : Hart) {r q : Reg} (v : Word) (e : q ≠ r) : (h.writeA r v).readA q = h.readA q := by
  have n : r.toNat ≠ q.toNat := fun c => e (BitVec.eq_of_toNat_eq c.symm)
  unfold Hart.writeA Hart.readA
  split
  · rfl
  · split
    · rfl
    · exact Vector.getElem_set_ne r.isLt q.isLt n

@[simp] theorem readA_zero (h : Hart) : h.readA 0 = 0 := rfl

@[simp] theorem writeA_zero (h : Hart) (v : Word) : h.writeA 0 v = h := rfl

@[simp] theorem writeX_zero (h : Hart) (v : Word) : h.writeX 0 v = h := rfl

end Sys2Proof.Laws
end

