-- ==== Sys2Proof/Laws/Memory.lean ====
section
/-! SUPPORT. Reads after writes, and that every memory operation keeps the canonical forms of memory and of the
poison list. -/

namespace Sys2Proof.Laws
open Sys2Proof Sys2Proof.Machine

/-! ### The canonical form of memory -/

/-- Every key of a canonical list lies above its bound. -/
theorem memWfFrom_cons {lo : Option Nat} {k : Nat} {b : Byte} {t : List Host.Cell} :
    memWfFrom lo ((k, b) :: t) = true ↔ (∀ l, lo = some l → l < k) ∧ b ≠ 0 ∧ memWfFrom (some k) t = true := by
  cases lo <;> simp [memWfFrom, and_assoc]

theorem memWfFrom_weaken {lo : Option Nat} {hi : Nat} {m : List Host.Cell} (h : memWfFrom (some hi) m = true)
    (e : ∀ l, lo = some l → l ≤ hi) : memWfFrom lo m = true := by
  cases m with
  | nil => cases lo <;> rfl
  | cons p t =>
    obtain ⟨k, b⟩ := p
    rw [memWfFrom_cons] at h ⊢
    exact ⟨fun l hl => Nat.lt_of_le_of_lt (e l hl) (h.1 hi rfl), h.2⟩

/-- A byte below every listed key reads 0. -/
theorem memGet_low {m : List Host.Cell} {lo a : Nat} (h : memWfFrom (some lo) m = true) (e : a ≤ lo) :
    memGet m a = 0 := by
  induction m generalizing lo with
  | nil => rfl
  | cons p t ih =>
    obtain ⟨k, b⟩ := p
    rw [memWfFrom_cons] at h
    have hk := h.1 lo rfl
    rw [memGet, if_neg (by omega)]
    exact ih h.2.2 (by omega)

theorem memSet_wfFrom {m : List Host.Cell} {lo : Option Nat} (h : memWfFrom lo m = true) (a : Nat) (b : Byte)
    (e : ∀ l, lo = some l → l < a) : memWfFrom lo (memSet m a b) = true := by
  induction m generalizing lo with
  | nil =>
    unfold memSet
    split
    · exact h
    · next hb => exact memWfFrom_cons.2 ⟨e, hb, rfl⟩
  | cons p t ih =>
    obtain ⟨k, c⟩ := p
    have h' := memWfFrom_cons.1 h
    unfold memSet
    split
    · next lt =>
      split
      · exact h
      · next hb => exact memWfFrom_cons.2 ⟨e, hb, memWfFrom_cons.2 ⟨fun l hl => by cases hl; exact lt, h'.2⟩⟩
    · next ge =>
      split
      · next eq =>
        subst eq
        split
        · exact memWfFrom_weaken h'.2.2 (fun l hl => Nat.le_of_lt (e l hl))
        · next hb => exact memWfFrom_cons.2 ⟨e, hb, h'.2.2⟩
      · next ne =>
        exact memWfFrom_cons.2 ⟨h'.1, h'.2.1, ih h'.2.2 (fun l hl => by cases hl; omega)⟩

/-- A write of a byte keeps the canonical form. -/
theorem memSet_wf {m : List Host.Cell} (h : Memory.wf m = true) (a : Nat) (b : Byte) : Memory.wf (memSet m a b) = true :=
  memSet_wfFrom h a b (fun _ hl => nomatch hl)

theorem memGet_memSet_from {m : List Host.Cell} {lo : Option Nat} (h : memWfFrom lo m = true) (a : Nat) (b : Byte)
    (c : Nat) : memGet (memSet m a b) c = if c = a then b else memGet m c := by
  induction m generalizing lo with
  | nil =>
    unfold memSet
    split
    · next hb => subst hb; split <;> rfl
    · simp only [memGet]; split <;> split <;> simp_all
  | cons p t ih =>
    obtain ⟨k, d⟩ := p
    have h' := memWfFrom_cons.1 h
    unfold memSet
    split
    · next lt =>
      have low : memGet ((k, d) :: t) a = 0 := by
        rw [memGet, if_neg (by omega)]
        exact memGet_low h'.2.2 (by omega)
      split
      · next hb => subst hb; split
                   · next e => subst e; exact low
                   · rfl
      · simp only [memGet]
        split
        · next e => subst e; simp
        · next e => rw [if_neg (Ne.symm e)]
    · next ge =>
      split
      · next eq =>
        subst eq
        split
        · next hb =>
          subst hb
          split
          · next e => subst e; exact memGet_low h'.2.2 (Nat.le_refl _)
          · next e => rw [memGet, if_neg (Ne.symm e)]
        · simp only [memGet]
          split
          · next e => subst e; simp
          · next e => rw [if_neg (Ne.symm e)]
      · next ne =>
        simp only [memGet]
        split
        · next e => subst e; rw [if_neg (by omega)]
        · exact ih h'.2.2

/-- A byte reads as written, and every other byte as before. -/
theorem memGet_memSet {m : List Host.Cell} (h : Memory.wf m = true) (a : Nat) (b : Byte) (c : Nat) :
    memGet (memSet m a b) c = if c = a then b else memGet m c := memGet_memSet_from h a b c

/-- A masked write keeps the canonical form. -/
theorem memPut_wf {m : List Host.Cell} (h : Memory.wf m = true) (a : Nat) (bs : List (Byte × Byte)) :
    Memory.wf (memPut m a bs) = true := by
  induction bs generalizing m a with
  | nil => exact h
  | cons p t ih => exact ih (memSet_wf h _ _) _

/-- A masked write leaves the bytes outside it alone. -/
theorem memGet_memPut_out {m : List Host.Cell} (h : Memory.wf m = true) (a : Nat) (bs : List (Byte × Byte)) (c : Nat)
    (e : c < a ∨ a + bs.length ≤ c) : memGet (memPut m a bs) c = memGet m c := by
  induction bs generalizing m a with
  | nil => rfl
  | cons p t ih =>
    simp only [List.length_cons] at e
    rw [memPut, ih (memSet_wf h _ _) _ (by omega), memGet_memSet h, if_neg (by omega)]

/-- Bytes written whole read back. -/
theorem memBytes_memPut_whole {m : List Host.Cell} (h : Memory.wf m = true) (a : Nat) (bs : List Byte) :
    memBytes (memPut m a (whole bs)) a bs.length = bs := by
  induction bs generalizing m a with
  | nil => rfl
  | cons b t ih =>
    have w := memSet_wf h a ((memGet m a &&& ~~~(0xFF : Byte)) ||| (b &&& 0xFF))
    have v : (memGet m a &&& ~~~(0xFF : Byte)) ||| (b &&& 0xFF) = b := by
      rw [show ~~~(0xFF : Byte) = 0#8 from rfl, BitVec.and_zero, BitVec.zero_or]
      exact BitVec.and_allOnes
    show memGet (memPut (memSet m a _) (a + 1) (whole t)) a :: memBytes (memPut (memSet m a _) (a + 1) (whole t)) (a + 1) t.length = _
    rw [memGet_memPut_out w _ _ _ (by omega), memGet_memSet h, if_pos rfl, ih w, v]

/-- `memPut` with a fold of single writes keeps the canonical form. -/
theorem foldl_memSet_wf {α : Type} (f : α → Nat) (g : α → Byte) (l : List α) {m : List Host.Cell}
    (h : Memory.wf m = true) : Memory.wf (l.foldl (fun m x => memSet m (f x) (g x)) m) = true := by
  induction l generalizing m with
  | nil => exact h
  | cons x t ih => exact ih (memSet_wf h _ _)

/-- Removing listed bytes keeps the canonical form. -/
theorem memFilter_wfFrom (p : Host.Cell → Bool) {m : List Host.Cell} {lo : Option Nat} (h : memWfFrom lo m = true) :
    memWfFrom lo (m.filter p) = true := by
  induction m generalizing lo with
  | nil => exact h
  | cons c t ih =>
    obtain ⟨k, b⟩ := c
    have h' := memWfFrom_cons.1 h
    rw [List.filter_cons]
    split
    · exact memWfFrom_cons.2 ⟨h'.1, h'.2.1, ih h'.2.2⟩
    · exact memWfFrom_weaken (ih h'.2.2) (fun l hl => Nat.le_of_lt (h'.1 l hl))

theorem memFilter_wf (p : Host.Cell → Bool) {m : List Host.Cell} (h : Memory.wf m = true) :
    Memory.wf (m.filter p) = true := memFilter_wfFrom p h

/-! ### The canonical form of the poison list -/

theorem poisonWf_cons {a : Nat} {t : List Nat} :
    Poison.wf (a :: t) = true ↔ (∀ b ∈ t.head?, a < b) ∧ Poison.wf t = true := by
  cases t <;> simp [Poison.wf]

theorem insNat_head {p : List Nat} {a l : Nat} (h : ∀ b ∈ p.head?, l < b) (e : l < a) :
    ∀ b ∈ (insNat p a).head?, l < b := by
  cases p with
  | nil => simpa [insNat] using e
  | cons k t =>
    unfold insNat
    split
    · simpa using e
    · split <;> simpa using h

theorem insNat_wf {p : List Nat} (h : Poison.wf p = true) (a : Nat) : Poison.wf (insNat p a) = true := by
  induction p with
  | nil => rfl
  | cons k t ih =>
    have h' := poisonWf_cons.1 h
    unfold insNat
    split
    · next lt => exact poisonWf_cons.2 ⟨by simpa using lt, h⟩
    · split
      · exact h
      · exact poisonWf_cons.2 ⟨insNat_head h'.1 (by omega), ih h'.2⟩

theorem poisonFilter_head (f : Nat → Bool) {p : List Nat} {l : Nat} (h : Poison.wf p = true)
    (e : ∀ b ∈ p.head?, l < b) : ∀ b ∈ (p.filter f).head?, l < b := by
  induction p with
  | nil => simp
  | cons k t ih =>
    have h' := poisonWf_cons.1 h
    have ek : l < k := e k (by simp)
    rw [List.filter_cons]
    split
    · simpa using ek
    · exact ih h'.2 (fun b hb => Nat.lt_trans ek (h'.1 b hb))

theorem poisonFilter_wf (f : Nat → Bool) {p : List Nat} (h : Poison.wf p = true) : Poison.wf (p.filter f) = true := by
  induction p with
  | nil => rfl
  | cons k t ih =>
    have h' := poisonWf_cons.1 h
    rw [List.filter_cons]
    split
    · exact poisonWf_cons.2 ⟨poisonFilter_head f h'.2 h'.1, ih h'.2⟩
    · exact ih h'.2

theorem foldl_insNat_wf (l : List Nat) {p : List Nat} (h : Poison.wf p = true) : Poison.wf (l.foldl insNat p) = true := by
  induction l generalizing p with
  | nil => exact h
  | cons a t ih => exact ih (insNat_wf h a)

theorem poisonSet_wf {p : List Nat} (h : Poison.wf p = true) (a n : Nat) : Poison.wf (poisonSet p a n) = true :=
  foldl_insNat_wf _ h

theorem poisonClear_wf {p : List Nat} (h : Poison.wf p = true) (a n : Nat) : Poison.wf (poisonClear p a n) = true :=
  poisonFilter_wf _ h

theorem poisonDo_wf {p : List Nat} (h : Poison.wf p = true) (act : PoisonAct) (a n : Nat) :
    Poison.wf (poisonDo p act a n) = true := by
  cases act
  · exact h
  · exact poisonClear_wf h a n
  · exact poisonSet_wf h a n

/-! ### States -/

/-- The invariant depends on memory and the poison list alone. -/
theorem inv_of_eq {s t : State} (h : s.Inv) (m : t.mem = s.mem) (p : t.poison = s.poison) : t.Inv := by
  unfold State.Inv at *; rw [m, p]; exact h

theorem put_inv {s : State} (h : s.Inv) (key : Nat) (bs : List (Byte × Byte)) (act : PoisonAct) : (s.put key bs act).Inv := by
  refine ⟨memPut_wf h.1 _ _, ?_⟩
  show Poison.wf (if keyHoldsPoison key then _ else _) = true
  split
  · exact poisonDo_wf h.2 _ _ _
  · exact h.2

theorem foldl_poison_wf {α : Type} (f : List Nat → α → List Nat) (hf : ∀ p x, Poison.wf p = true → Poison.wf (f p x) = true)
    (l : List α) {p : List Nat} (h : Poison.wf p = true) : Poison.wf (l.foldl f p) = true := by
  induction l generalizing p with
  | nil => exact h
  | cons a t ih => exact ih (hf p a h)

theorem putBytes_inv {s : State} (h : s.Inv) (bs : List (Nat × Byte × Bool)) : (s.putBytes bs).Inv :=
  ⟨foldl_memSet_wf (fun b : Nat × Byte × Bool => b.1) (fun b => b.2.1) bs h.1,
    foldl_poison_wf _ (fun _ _ hp => poisonSet_wf hp _ _) _ (foldl_poison_wf _ (fun _ _ hp => poisonClear_wf hp _ _) _ h.2)⟩

end Sys2Proof.Laws
end

