-- ==== Sys2Proof/Laws/Engines.lean ====
section
/-! SUPPORT. What the shared operations of the engines leave alone: causes of lateness, stretched clocks, rounds of mesh
commands, and the acts of command processors. -/

namespace Sys2Proof.Laws
open Sys2Proof Sys2Proof.Machine

/-! ### Rounds -/

@[simp] theorem setRound_mem (s : State) (r : Round) (f : Round → Round) : (s.setRound r f).mem = s.mem := rfl
@[simp] theorem setRound_poison (s : State) (r : Round) (f : Round → Round) : (s.setRound r f).poison = s.poison := rfl
@[simp] theorem setRound_harts (s : State) (r : Round) (f : Round → Round) : (s.setRound r f).harts = s.harts := rfl
@[simp] theorem setRound_forests (s : State) (r : Round) (f : Round → Round) : (s.setRound r f).forests = s.forests := rfl
@[simp] theorem setRound_meshes (s : State) (r : Round) (f : Round → Round) : (s.setRound r f).meshes = s.meshes := rfl

@[simp] theorem noteFull_mem (s : State) (r : Round) : (s.noteFull r).mem = s.mem := rfl
@[simp] theorem noteFull_harts (s : State) (r : Round) : (s.noteFull r).harts = s.harts := rfl
@[simp] theorem noteFull_forests (s : State) (r : Round) : (s.noteFull r).forests = s.forests := rfl

/-! ### Causes of lateness and stretched clocks -/

@[simp] theorem setCmd_mem (s : State) (i : CmdId) (r : HRec) : (s.setCmd i r).mem = s.mem := by
  unfold State.setCmd; repeat' split
  all_goals rfl

@[simp] theorem setCmd_poison (s : State) (i : CmdId) (r : HRec) : (s.setCmd i r).poison = s.poison := by
  unfold State.setCmd; repeat' split
  all_goals rfl

@[simp] theorem setCmd_cores (s : State) (i : CmdId) (r : HRec) : (s.setCmd i r).cores = s.cores := by
  unfold State.setCmd; repeat' split
  all_goals rfl

/-- Whatever each command's record leaves alone, a cause for the holders of bookings leaves alone. -/
theorem slowBooked_same {α : Type} (g : State → α) (e : ∀ s i r, g (State.setCmd s i r) = g s) (s : State) (cause : Nat)
    (sel : Booking → Bool) : g (s.slowBooked cause sel) = g s := by
  unfold State.slowBooked
  generalize s.books.filter sel = bs
  induction bs generalizing s with
  | nil => rfl
  | cons b t ih =>
    rw [List.foldl_cons, ih]
    split
    · exact e _ _ _
    · rfl

@[simp] theorem slowBooked_mem (s : State) (cause : Nat) (sel : Booking → Bool) : (s.slowBooked cause sel).mem = s.mem :=
  slowBooked_same State.mem setCmd_mem s cause sel

@[simp] theorem slowBooked_poison (s : State) (cause : Nat) (sel : Booking → Bool) : (s.slowBooked cause sel).poison = s.poison :=
  slowBooked_same State.poison setCmd_poison s cause sel

@[simp] theorem slowBooked_cores (s : State) (cause : Nat) (sel : Booking → Bool) : (s.slowBooked cause sel).cores = s.cores :=
  slowBooked_same State.cores setCmd_cores s cause sel

@[simp] theorem stretch_mem (s : State) (core : Nat) (f : Core → Core) : (s.stretch core f).mem = s.mem := by
  unfold State.stretch
  dsimp only
  split
  · split
    · rfl
    · rw [slowBooked_mem]; rfl
  · rfl

@[simp] theorem stretch_poison (s : State) (core : Nat) (f : Core → Core) : (s.stretch core f).poison = s.poison := by
  unfold State.stretch
  dsimp only
  split
  · split
    · rfl
    · rw [slowBooked_poison]; rfl
  · rfl

/-! ### Command processors -/

/-- An act of a command processor answers a next state, and keeps memory and poison in their canonical forms. -/
theorem cpAct_inv {s : State} (h : s.Inv) (n : Fin 8) (op : CpOp) : ∃ t, s.cpAct n op = .next t ∧ t.Inv :=
  ⟨_, rfl, inv_of_eq (putBytes_inv h _) rfl rfl⟩

end Sys2Proof.Laws
end

