-- ==== Sys2Proof/Laws/Fields.lean ====
section
/-! SUPPORT. Each field of a word that an encoding form builds is what the form put there (R49). -/

namespace Sys2Proof.Laws
open Sys2Proof

@[simp] theorem fOp_mkR (op : BitVec 7) (d : BitVec 5) (a : BitVec 5) (b : BitVec 5) (fm : BitVec 2) (pg : BitVec 3) (fn : BitVec 5) :
    fOp (mkR op d a b fm pg fn) = op := by
  ext i hi
  simp only [fOp, mkR, BitVec.getElem_extractLsb']
  change BitVec.getLsbD (w := 7+5+5+5+2+3+5) (op ++ d ++ a ++ b ++ fm ++ pg ++ fn) (25 + i) = _
  rw [BitVec.getLsbD_append, if_neg (by omega), BitVec.getLsbD_append, if_neg (by omega), BitVec.getLsbD_append, if_neg (by omega), BitVec.getLsbD_append, if_neg (by omega), BitVec.getLsbD_append, if_neg (by omega), BitVec.getLsbD_append, if_neg (by omega)]
  rw [← BitVec.getLsbD_eq_getElem]
  congr 1
  omega

@[simp] theorem fD_mkR (op : BitVec 7) (d : BitVec 5) (a : BitVec 5) (b : BitVec 5) (fm : BitVec 2) (pg : BitVec 3) (fn : BitVec 5) :
    fD (mkR op d a b fm pg fn) = d := by
  ext i hi
  simp only [fD, mkR, BitVec.getElem_extractLsb']
  change BitVec.getLsbD (w := 7+5+5+5+2+3+5) (op ++ d ++ a ++ b ++ fm ++ pg ++ fn) (20 + i) = _
  rw [BitVec.getLsbD_append, if_neg (by omega), BitVec.getLsbD_append, if_neg (by omega), BitVec.getLsbD_append, if_neg (by omega), BitVec.getLsbD_append, if_neg (by omega), BitVec.getLsbD_append, if_neg (by omega), BitVec.getLsbD_append, if_pos (by omega)]
  rw [← BitVec.getLsbD_eq_getElem]
  congr 1
  omega

@[simp] theorem fA_mkR (op : BitVec 7) (d : BitVec 5) (a : BitVec 5) (b : BitVec 5) (fm : BitVec 2) (pg : BitVec 3) (fn : BitVec 5) :
    fA (mkR op d a b fm pg fn) = a := by
  ext i hi
  simp only [fA, mkR, BitVec.getElem_extractLsb']
  change BitVec.getLsbD (w := 7+5+5+5+2+3+5) (op ++ d ++ a ++ b ++ fm ++ pg ++ fn) (15 + i) = _
  rw [BitVec.getLsbD_append, if_neg (by omega), BitVec.getLsbD_append, if_neg (by omega), BitVec.getLsbD_append, if_neg (by omega), BitVec.getLsbD_append, if_neg (by omega), BitVec.getLsbD_append, if_pos (by omega)]
  rw [← BitVec.getLsbD_eq_getElem]
  congr 1
  omega

@[simp] theorem fB_mkR (op : BitVec 7) (d : BitVec 5) (a : BitVec 5) (b : BitVec 5) (fm : BitVec 2) (pg : BitVec 3) (fn : BitVec 5) :
    fB (mkR op d a b fm pg fn) = b := by
  ext i hi
  simp only [fB, mkR, BitVec.getElem_extractLsb']
  change BitVec.getLsbD (w := 7+5+5+5+2+3+5) (op ++ d ++ a ++ b ++ fm ++ pg ++ fn) (10 + i) = _
  rw [BitVec.getLsbD_append, if_neg (by omega), BitVec.getLsbD_append, if_neg (by omega), BitVec.getLsbD_append, if_neg (by omega), BitVec.getLsbD_append, if_pos (by omega)]
  rw [← BitVec.getLsbD_eq_getElem]
  congr 1
  omega

@[simp] theorem fFM_mkR (op : BitVec 7) (d : BitVec 5) (a : BitVec 5) (b : BitVec 5) (fm : BitVec 2) (pg : BitVec 3) (fn : BitVec 5) :
    fFM (mkR op d a b fm pg fn) = fm := by
  ext i hi
  simp only [fFM, mkR, BitVec.getElem_extractLsb']
  change BitVec.getLsbD (w := 7+5+5+5+2+3+5) (op ++ d ++ a ++ b ++ fm ++ pg ++ fn) (8 + i) = _
  rw [BitVec.getLsbD_append, if_neg (by omega), BitVec.getLsbD_append, if_neg (by omega), BitVec.getLsbD_append, if_pos (by omega)]
  rw [← BitVec.getLsbD_eq_getElem]
  congr 1
  omega

@[simp] theorem fPG_mkR (op : BitVec 7) (d : BitVec 5) (a : BitVec 5) (b : BitVec 5) (fm : BitVec 2) (pg : BitVec 3) (fn : BitVec 5) :
    fPG (mkR op d a b fm pg fn) = pg := by
  ext i hi
  simp only [fPG, mkR, BitVec.getElem_extractLsb']
  change BitVec.getLsbD (w := 7+5+5+5+2+3+5) (op ++ d ++ a ++ b ++ fm ++ pg ++ fn) (5 + i) = _
  rw [BitVec.getLsbD_append, if_neg (by omega), BitVec.getLsbD_append, if_pos (by omega)]
  rw [← BitVec.getLsbD_eq_getElem]
  congr 1
  omega

@[simp] theorem fFN_mkR (op : BitVec 7) (d : BitVec 5) (a : BitVec 5) (b : BitVec 5) (fm : BitVec 2) (pg : BitVec 3) (fn : BitVec 5) :
    fFN (mkR op d a b fm pg fn) = fn := by
  ext i hi
  simp only [fFN, mkR, BitVec.getElem_extractLsb']
  change BitVec.getLsbD (w := 7+5+5+5+2+3+5) (op ++ d ++ a ++ b ++ fm ++ pg ++ fn) (0 + i) = _
  rw [BitVec.getLsbD_append, if_pos (by omega)]
  rw [← BitVec.getLsbD_eq_getElem]
  congr 1
  omega

@[simp] theorem fM2_mkR (op : BitVec 7) (d : BitVec 5) (a : BitVec 5) (b : BitVec 5) (fm : BitVec 2) (pg : BitVec 3) (fn : BitVec 5) :
    fM2 (mkR op d a b fm pg fn) = fn.extractLsb' 3 2 := by
  ext i hi
  simp only [fM2, mkR, BitVec.getElem_extractLsb']
  change BitVec.getLsbD (w := 7+5+5+5+2+3+5) (op ++ d ++ a ++ b ++ fm ++ pg ++ fn) (3 + i) = _
  rw [BitVec.getLsbD_append, if_pos (by omega)]

@[simp] theorem fLow3_mkR (op : BitVec 7) (d : BitVec 5) (a : BitVec 5) (b : BitVec 5) (fm : BitVec 2) (pg : BitVec 3) (fn : BitVec 5) :
    fLow3 (mkR op d a b fm pg fn) = fn.extractLsb' 0 3 := by
  ext i hi
  simp only [fLow3, mkR, BitVec.getElem_extractLsb']
  change BitVec.getLsbD (w := 7+5+5+5+2+3+5) (op ++ d ++ a ++ b ++ fm ++ pg ++ fn) (0 + i) = _
  rw [BitVec.getLsbD_append, if_pos (by omega)]

@[simp] theorem fBit4_mkR (op : BitVec 7) (d : BitVec 5) (a : BitVec 5) (b : BitVec 5) (fm : BitVec 2) (pg : BitVec 3) (fn : BitVec 5) :
    fBit4 (mkR op d a b fm pg fn) = fn.extractLsb' 4 1 := by
  ext i hi
  simp only [fBit4, mkR, BitVec.getElem_extractLsb']
  change BitVec.getLsbD (w := 7+5+5+5+2+3+5) (op ++ d ++ a ++ b ++ fm ++ pg ++ fn) (4 + i) = _
  rw [BitVec.getLsbD_append, if_pos (by omega)]

@[simp] theorem fN_mkR (op : BitVec 7) (d : BitVec 5) (a : BitVec 5) (b : BitVec 5) (fm : BitVec 2) (pg : BitVec 3) (fn : BitVec 5) :
    fN (mkR op d a b fm pg fn) = fn.extractLsb' 2 2 := by
  ext i hi
  simp only [fN, mkR, BitVec.getElem_extractLsb']
  change BitVec.getLsbD (w := 7+5+5+5+2+3+5) (op ++ d ++ a ++ b ++ fm ++ pg ++ fn) (2 + i) = _
  rw [BitVec.getLsbD_append, if_pos (by omega)]

@[simp] theorem fLow2_mkR (op : BitVec 7) (d : BitVec 5) (a : BitVec 5) (b : BitVec 5) (fm : BitVec 2) (pg : BitVec 3) (fn : BitVec 5) :
    fLow2 (mkR op d a b fm pg fn) = fn.extractLsb' 0 2 := by
  ext i hi
  simp only [fLow2, mkR, BitVec.getElem_extractLsb']
  change BitVec.getLsbD (w := 7+5+5+5+2+3+5) (op ++ d ++ a ++ b ++ fm ++ pg ++ fn) (0 + i) = _
  rw [BitVec.getLsbD_append, if_pos (by omega)]

@[simp] theorem fB2_mkR (op : BitVec 7) (d : BitVec 5) (a : BitVec 5) (b : BitVec 5) (fm : BitVec 2) (pg : BitVec 3) (fn : BitVec 5) :
    fB2 (mkR op d a b fm pg fn) = b.extractLsb' 3 2 := by
  ext i hi
  simp only [fB2, mkR, BitVec.getElem_extractLsb']
  change BitVec.getLsbD (w := 7+5+5+5+2+3+5) (op ++ d ++ a ++ b ++ fm ++ pg ++ fn) (13 + i) = _
  rw [BitVec.getLsbD_append, if_neg (by omega), BitVec.getLsbD_append, if_neg (by omega), BitVec.getLsbD_append, if_neg (by omega), BitVec.getLsbD_append, if_pos (by omega)]
  congr 1
  omega

@[simp] theorem fB3_mkR (op : BitVec 7) (d : BitVec 5) (a : BitVec 5) (b : BitVec 5) (fm : BitVec 2) (pg : BitVec 3) (fn : BitVec 5) :
    fB3 (mkR op d a b fm pg fn) = b.extractLsb' 0 3 := by
  ext i hi
  simp only [fB3, mkR, BitVec.getElem_extractLsb']
  change BitVec.getLsbD (w := 7+5+5+5+2+3+5) (op ++ d ++ a ++ b ++ fm ++ pg ++ fn) (10 + i) = _
  rw [BitVec.getLsbD_append, if_neg (by omega), BitVec.getLsbD_append, if_neg (by omega), BitVec.getLsbD_append, if_neg (by omega), BitVec.getLsbD_append, if_pos (by omega)]
  congr 1
  omega

@[simp] theorem fOp_mkI (op : BitVec 7) (d : BitVec 5) (a : BitVec 5) (imm : BitVec 15) :
    fOp (mkI op d a imm) = op := by
  ext i hi
  simp only [fOp, mkI, BitVec.getElem_extractLsb']
  change BitVec.getLsbD (w := 7+5+5+15) (op ++ d ++ a ++ imm) (25 + i) = _
  rw [BitVec.getLsbD_append, if_neg (by omega), BitVec.getLsbD_append, if_neg (by omega), BitVec.getLsbD_append, if_neg (by omega)]
  rw [← BitVec.getLsbD_eq_getElem]
  congr 1
  omega

@[simp] theorem fD_mkI (op : BitVec 7) (d : BitVec 5) (a : BitVec 5) (imm : BitVec 15) :
    fD (mkI op d a imm) = d := by
  ext i hi
  simp only [fD, mkI, BitVec.getElem_extractLsb']
  change BitVec.getLsbD (w := 7+5+5+15) (op ++ d ++ a ++ imm) (20 + i) = _
  rw [BitVec.getLsbD_append, if_neg (by omega), BitVec.getLsbD_append, if_neg (by omega), BitVec.getLsbD_append, if_pos (by omega)]
  rw [← BitVec.getLsbD_eq_getElem]
  congr 1
  omega

@[simp] theorem fA_mkI (op : BitVec 7) (d : BitVec 5) (a : BitVec 5) (imm : BitVec 15) :
    fA (mkI op d a imm) = a := by
  ext i hi
  simp only [fA, mkI, BitVec.getElem_extractLsb']
  change BitVec.getLsbD (w := 7+5+5+15) (op ++ d ++ a ++ imm) (15 + i) = _
  rw [BitVec.getLsbD_append, if_neg (by omega), BitVec.getLsbD_append, if_pos (by omega)]
  rw [← BitVec.getLsbD_eq_getElem]
  congr 1
  omega

@[simp] theorem fImm15_mkI (op : BitVec 7) (d : BitVec 5) (a : BitVec 5) (imm : BitVec 15) :
    fImm15 (mkI op d a imm) = imm := by
  ext i hi
  simp only [fImm15, mkI, BitVec.getElem_extractLsb']
  change BitVec.getLsbD (w := 7+5+5+15) (op ++ d ++ a ++ imm) (0 + i) = _
  rw [BitVec.getLsbD_append, if_pos (by omega)]
  rw [← BitVec.getLsbD_eq_getElem]
  congr 1
  omega

@[simp] theorem fSh9_mkI (op : BitVec 7) (d : BitVec 5) (a : BitVec 5) (imm : BitVec 15) :
    fSh9 (mkI op d a imm) = imm.extractLsb' 6 9 := by
  ext i hi
  simp only [fSh9, mkI, BitVec.getElem_extractLsb']
  change BitVec.getLsbD (w := 7+5+5+15) (op ++ d ++ a ++ imm) (6 + i) = _
  rw [BitVec.getLsbD_append, if_pos (by omega)]

@[simp] theorem fSh6_mkI (op : BitVec 7) (d : BitVec 5) (a : BitVec 5) (imm : BitVec 15) :
    fSh6 (mkI op d a imm) = imm.extractLsb' 0 6 := by
  ext i hi
  simp only [fSh6, mkI, BitVec.getElem_extractLsb']
  change BitVec.getLsbD (w := 7+5+5+15) (op ++ d ++ a ++ imm) (0 + i) = _
  rw [BitVec.getLsbD_append, if_pos (by omega)]

@[simp] theorem fOp_mkL (op : BitVec 7) (d : BitVec 5) (imm : BitVec 20) :
    fOp (mkL op d imm) = op := by
  ext i hi
  simp only [fOp, mkL, BitVec.getElem_extractLsb']
  change BitVec.getLsbD (w := 7+5+20) (op ++ d ++ imm) (25 + i) = _
  rw [BitVec.getLsbD_append, if_neg (by omega), BitVec.getLsbD_append, if_neg (by omega)]
  rw [← BitVec.getLsbD_eq_getElem]
  congr 1
  omega

@[simp] theorem fD_mkL (op : BitVec 7) (d : BitVec 5) (imm : BitVec 20) :
    fD (mkL op d imm) = d := by
  ext i hi
  simp only [fD, mkL, BitVec.getElem_extractLsb']
  change BitVec.getLsbD (w := 7+5+20) (op ++ d ++ imm) (20 + i) = _
  rw [BitVec.getLsbD_append, if_neg (by omega), BitVec.getLsbD_append, if_pos (by omega)]
  rw [← BitVec.getLsbD_eq_getElem]
  congr 1
  omega

@[simp] theorem fImm20_mkL (op : BitVec 7) (d : BitVec 5) (imm : BitVec 20) :
    fImm20 (mkL op d imm) = imm := by
  ext i hi
  simp only [fImm20, mkL, BitVec.getElem_extractLsb']
  change BitVec.getLsbD (w := 7+5+20) (op ++ d ++ imm) (0 + i) = _
  rw [BitVec.getLsbD_append, if_pos (by omega)]
  rw [← BitVec.getLsbD_eq_getElem]
  congr 1
  omega

@[simp] theorem fOp_mkB (op : BitVec 7) (a : BitVec 5) (b : BitVec 5) (cnd : BitVec 3) (off : BitVec 12) :
    fOp (mkB op a b cnd off) = op := by
  ext i hi
  simp only [fOp, mkB, BitVec.getElem_extractLsb']
  change BitVec.getLsbD (w := 7+5+5+3+12) (op ++ a ++ b ++ cnd ++ off) (25 + i) = _
  rw [BitVec.getLsbD_append, if_neg (by omega), BitVec.getLsbD_append, if_neg (by omega), BitVec.getLsbD_append, if_neg (by omega), BitVec.getLsbD_append, if_neg (by omega)]
  rw [← BitVec.getLsbD_eq_getElem]
  congr 1
  omega

@[simp] theorem fD_mkB (op : BitVec 7) (a : BitVec 5) (b : BitVec 5) (cnd : BitVec 3) (off : BitVec 12) :
    fD (mkB op a b cnd off) = a := by
  ext i hi
  simp only [fD, mkB, BitVec.getElem_extractLsb']
  change BitVec.getLsbD (w := 7+5+5+3+12) (op ++ a ++ b ++ cnd ++ off) (20 + i) = _
  rw [BitVec.getLsbD_append, if_neg (by omega), BitVec.getLsbD_append, if_neg (by omega), BitVec.getLsbD_append, if_neg (by omega), BitVec.getLsbD_append, if_pos (by omega)]
  rw [← BitVec.getLsbD_eq_getElem]
  congr 1
  omega

@[simp] theorem fA_mkB (op : BitVec 7) (a : BitVec 5) (b : BitVec 5) (cnd : BitVec 3) (off : BitVec 12) :
    fA (mkB op a b cnd off) = b := by
  ext i hi
  simp only [fA, mkB, BitVec.getElem_extractLsb']
  change BitVec.getLsbD (w := 7+5+5+3+12) (op ++ a ++ b ++ cnd ++ off) (15 + i) = _
  rw [BitVec.getLsbD_append, if_neg (by omega), BitVec.getLsbD_append, if_neg (by omega), BitVec.getLsbD_append, if_pos (by omega)]
  rw [← BitVec.getLsbD_eq_getElem]
  congr 1
  omega

@[simp] theorem fCnd_mkB (op : BitVec 7) (a : BitVec 5) (b : BitVec 5) (cnd : BitVec 3) (off : BitVec 12) :
    fCnd (mkB op a b cnd off) = cnd := by
  ext i hi
  simp only [fCnd, mkB, BitVec.getElem_extractLsb']
  change BitVec.getLsbD (w := 7+5+5+3+12) (op ++ a ++ b ++ cnd ++ off) (12 + i) = _
  rw [BitVec.getLsbD_append, if_neg (by omega), BitVec.getLsbD_append, if_pos (by omega)]
  rw [← BitVec.getLsbD_eq_getElem]
  congr 1
  omega

@[simp] theorem fOff12_mkB (op : BitVec 7) (a : BitVec 5) (b : BitVec 5) (cnd : BitVec 3) (off : BitVec 12) :
    fOff12 (mkB op a b cnd off) = off := by
  ext i hi
  simp only [fOff12, mkB, BitVec.getElem_extractLsb']
  change BitVec.getLsbD (w := 7+5+5+3+12) (op ++ a ++ b ++ cnd ++ off) (0 + i) = _
  rw [BitVec.getLsbD_append, if_pos (by omega)]
  rw [← BitVec.getLsbD_eq_getElem]
  congr 1
  omega

@[simp] theorem fOp_mkH (op : BitVec 7) (a : BitVec 5) (z : BitVec 8) (e : BitVec 12) :
    fOp (mkH op a z e) = op := by
  ext i hi
  simp only [fOp, mkH, BitVec.getElem_extractLsb']
  change BitVec.getLsbD (w := 7+5+8+12) (op ++ a ++ z ++ e) (25 + i) = _
  rw [BitVec.getLsbD_append, if_neg (by omega), BitVec.getLsbD_append, if_neg (by omega), BitVec.getLsbD_append, if_neg (by omega)]
  rw [← BitVec.getLsbD_eq_getElem]
  congr 1
  omega

@[simp] theorem fD_mkH (op : BitVec 7) (a : BitVec 5) (z : BitVec 8) (e : BitVec 12) :
    fD (mkH op a z e) = a := by
  ext i hi
  simp only [fD, mkH, BitVec.getElem_extractLsb']
  change BitVec.getLsbD (w := 7+5+8+12) (op ++ a ++ z ++ e) (20 + i) = _
  rw [BitVec.getLsbD_append, if_neg (by omega), BitVec.getLsbD_append, if_neg (by omega), BitVec.getLsbD_append, if_pos (by omega)]
  rw [← BitVec.getLsbD_eq_getElem]
  congr 1
  omega

@[simp] theorem fH8_mkH (op : BitVec 7) (a : BitVec 5) (z : BitVec 8) (e : BitVec 12) :
    fH8 (mkH op a z e) = z := by
  ext i hi
  simp only [fH8, mkH, BitVec.getElem_extractLsb']
  change BitVec.getLsbD (w := 7+5+8+12) (op ++ a ++ z ++ e) (12 + i) = _
  rw [BitVec.getLsbD_append, if_neg (by omega), BitVec.getLsbD_append, if_pos (by omega)]
  rw [← BitVec.getLsbD_eq_getElem]
  congr 1
  omega

@[simp] theorem fOff12_mkH (op : BitVec 7) (a : BitVec 5) (z : BitVec 8) (e : BitVec 12) :
    fOff12 (mkH op a z e) = e := by
  ext i hi
  simp only [fOff12, mkH, BitVec.getElem_extractLsb']
  change BitVec.getLsbD (w := 7+5+8+12) (op ++ a ++ z ++ e) (0 + i) = _
  rw [BitVec.getLsbD_append, if_pos (by omega)]
  rw [← BitVec.getLsbD_eq_getElem]
  congr 1
  omega

@[simp] theorem fOp_mkH2 (op : BitVec 7) (c : BitVec 13) (e : BitVec 12) :
    fOp (mkH2 op c e) = op := by
  ext i hi
  simp only [fOp, mkH2, BitVec.getElem_extractLsb']
  change BitVec.getLsbD (w := 7+13+12) (op ++ c ++ e) (25 + i) = _
  rw [BitVec.getLsbD_append, if_neg (by omega), BitVec.getLsbD_append, if_neg (by omega)]
  rw [← BitVec.getLsbD_eq_getElem]
  congr 1
  omega

@[simp] theorem fCount_mkH2 (op : BitVec 7) (c : BitVec 13) (e : BitVec 12) :
    fCount (mkH2 op c e) = c := by
  ext i hi
  simp only [fCount, mkH2, BitVec.getElem_extractLsb']
  change BitVec.getLsbD (w := 7+13+12) (op ++ c ++ e) (12 + i) = _
  rw [BitVec.getLsbD_append, if_neg (by omega), BitVec.getLsbD_append, if_pos (by omega)]
  rw [← BitVec.getLsbD_eq_getElem]
  congr 1
  omega

@[simp] theorem fOff12_mkH2 (op : BitVec 7) (c : BitVec 13) (e : BitVec 12) :
    fOff12 (mkH2 op c e) = e := by
  ext i hi
  simp only [fOff12, mkH2, BitVec.getElem_extractLsb']
  change BitVec.getLsbD (w := 7+13+12) (op ++ c ++ e) (0 + i) = _
  rw [BitVec.getLsbD_append, if_pos (by omega)]
  rw [← BitVec.getLsbD_eq_getElem]
  congr 1
  omega

@[simp] theorem fOp_mkF (op : BitVec 7) (p : BitVec 3) (s : BitVec 3) (sc : BitVec 3) (fn : BitVec 5) :
    fOp (mkF op p s sc fn) = op := by
  ext i hi
  simp only [fOp, mkF, BitVec.getElem_extractLsb']
  change BitVec.getLsbD (w := 7+3+3+3+11+5) (op ++ p ++ s ++ sc ++ 0#11 ++ fn) (25 + i) = _
  rw [BitVec.getLsbD_append, if_neg (by omega), BitVec.getLsbD_append, if_neg (by omega), BitVec.getLsbD_append, if_neg (by omega), BitVec.getLsbD_append, if_neg (by omega), BitVec.getLsbD_append, if_neg (by omega)]
  rw [← BitVec.getLsbD_eq_getElem]
  congr 1
  omega

@[simp] theorem fPred_mkF (op : BitVec 7) (p : BitVec 3) (s : BitVec 3) (sc : BitVec 3) (fn : BitVec 5) :
    fPred (mkF op p s sc fn) = p := by
  ext i hi
  simp only [fPred, mkF, BitVec.getElem_extractLsb']
  change BitVec.getLsbD (w := 7+3+3+3+11+5) (op ++ p ++ s ++ sc ++ 0#11 ++ fn) (22 + i) = _
  rw [BitVec.getLsbD_append, if_neg (by omega), BitVec.getLsbD_append, if_neg (by omega), BitVec.getLsbD_append, if_neg (by omega), BitVec.getLsbD_append, if_neg (by omega), BitVec.getLsbD_append, if_pos (by omega)]
  rw [← BitVec.getLsbD_eq_getElem]
  congr 1
  omega

@[simp] theorem fSucc_mkF (op : BitVec 7) (p : BitVec 3) (s : BitVec 3) (sc : BitVec 3) (fn : BitVec 5) :
    fSucc (mkF op p s sc fn) = s := by
  ext i hi
  simp only [fSucc, mkF, BitVec.getElem_extractLsb']
  change BitVec.getLsbD (w := 7+3+3+3+11+5) (op ++ p ++ s ++ sc ++ 0#11 ++ fn) (19 + i) = _
  rw [BitVec.getLsbD_append, if_neg (by omega), BitVec.getLsbD_append, if_neg (by omega), BitVec.getLsbD_append, if_neg (by omega), BitVec.getLsbD_append, if_pos (by omega)]
  rw [← BitVec.getLsbD_eq_getElem]
  congr 1
  omega

@[simp] theorem fFScope_mkF (op : BitVec 7) (p : BitVec 3) (s : BitVec 3) (sc : BitVec 3) (fn : BitVec 5) :
    fFScope (mkF op p s sc fn) = sc := by
  ext i hi
  simp only [fFScope, mkF, BitVec.getElem_extractLsb']
  change BitVec.getLsbD (w := 7+3+3+3+11+5) (op ++ p ++ s ++ sc ++ 0#11 ++ fn) (16 + i) = _
  rw [BitVec.getLsbD_append, if_neg (by omega), BitVec.getLsbD_append, if_neg (by omega), BitVec.getLsbD_append, if_pos (by omega)]
  rw [← BitVec.getLsbD_eq_getElem]
  congr 1
  omega

@[simp] theorem fF11_mkF (op : BitVec 7) (p : BitVec 3) (s : BitVec 3) (sc : BitVec 3) (fn : BitVec 5) :
    fF11 (mkF op p s sc fn) = 0#11 := by
  ext i hi
  simp only [fF11, mkF, BitVec.getElem_extractLsb']
  change BitVec.getLsbD (w := 7+3+3+3+11+5) (op ++ p ++ s ++ sc ++ 0#11 ++ fn) (5 + i) = _
  rw [BitVec.getLsbD_append, if_neg (by omega), BitVec.getLsbD_append, if_pos (by omega)]
  rw [← BitVec.getLsbD_eq_getElem]
  congr 1
  omega

@[simp] theorem fFN_mkF (op : BitVec 7) (p : BitVec 3) (s : BitVec 3) (sc : BitVec 3) (fn : BitVec 5) :
    fFN (mkF op p s sc fn) = fn := by
  ext i hi
  simp only [fFN, mkF, BitVec.getElem_extractLsb']
  change BitVec.getLsbD (w := 7+3+3+3+11+5) (op ++ p ++ s ++ sc ++ 0#11 ++ fn) (0 + i) = _
  rw [BitVec.getLsbD_append, if_pos (by omega)]
  rw [← BitVec.getLsbD_eq_getElem]
  congr 1
  omega

@[simp] theorem fOp_mkM (op : BitVec 7) (q : BitVec 5) (b : BitVec 5) (s : BitVec 5) (pl : BitVec 2) (acq : Bool) (nt : Bool) (u : Bool) (esz : BitVec 3) :
    fOp (mkM op q b s pl acq nt u esz) = op := by
  ext i hi
  simp only [fOp, mkM, BitVec.getElem_extractLsb']
  change BitVec.getLsbD (w := 7+5+5+5+2+1+1+1+2+3) (op ++ q ++ b ++ s ++ pl ++ BitVec.ofBool acq ++ BitVec.ofBool nt ++ BitVec.ofBool u ++ 0#2 ++ esz) (25 + i) = _
  rw [BitVec.getLsbD_append, if_neg (by omega), BitVec.getLsbD_append, if_neg (by omega), BitVec.getLsbD_append, if_neg (by omega), BitVec.getLsbD_append, if_neg (by omega), BitVec.getLsbD_append, if_neg (by omega), BitVec.getLsbD_append, if_neg (by omega), BitVec.getLsbD_append, if_neg (by omega), BitVec.getLsbD_append, if_neg (by omega), BitVec.getLsbD_append, if_neg (by omega)]
  rw [← BitVec.getLsbD_eq_getElem]
  congr 1
  omega

@[simp] theorem fD_mkM (op : BitVec 7) (q : BitVec 5) (b : BitVec 5) (s : BitVec 5) (pl : BitVec 2) (acq : Bool) (nt : Bool) (u : Bool) (esz : BitVec 3) :
    fD (mkM op q b s pl acq nt u esz) = q := by
  ext i hi
  simp only [fD, mkM, BitVec.getElem_extractLsb']
  change BitVec.getLsbD (w := 7+5+5+5+2+1+1+1+2+3) (op ++ q ++ b ++ s ++ pl ++ BitVec.ofBool acq ++ BitVec.ofBool nt ++ BitVec.ofBool u ++ 0#2 ++ esz) (20 + i) = _
  rw [BitVec.getLsbD_append, if_neg (by omega), BitVec.getLsbD_append, if_neg (by omega), BitVec.getLsbD_append, if_neg (by omega), BitVec.getLsbD_append, if_neg (by omega), BitVec.getLsbD_append, if_neg (by omega), BitVec.getLsbD_append, if_neg (by omega), BitVec.getLsbD_append, if_neg (by omega), BitVec.getLsbD_append, if_neg (by omega), BitVec.getLsbD_append, if_pos (by omega)]
  rw [← BitVec.getLsbD_eq_getElem]
  congr 1
  omega

@[simp] theorem fA_mkM (op : BitVec 7) (q : BitVec 5) (b : BitVec 5) (s : BitVec 5) (pl : BitVec 2) (acq : Bool) (nt : Bool) (u : Bool) (esz : BitVec 3) :
    fA (mkM op q b s pl acq nt u esz) = b := by
  ext i hi
  simp only [fA, mkM, BitVec.getElem_extractLsb']
  change BitVec.getLsbD (w := 7+5+5+5+2+1+1+1+2+3) (op ++ q ++ b ++ s ++ pl ++ BitVec.ofBool acq ++ BitVec.ofBool nt ++ BitVec.ofBool u ++ 0#2 ++ esz) (15 + i) = _
  rw [BitVec.getLsbD_append, if_neg (by omega), BitVec.getLsbD_append, if_neg (by omega), BitVec.getLsbD_append, if_neg (by omega), BitVec.getLsbD_append, if_neg (by omega), BitVec.getLsbD_append, if_neg (by omega), BitVec.getLsbD_append, if_neg (by omega), BitVec.getLsbD_append, if_neg (by omega), BitVec.getLsbD_append, if_pos (by omega)]
  rw [← BitVec.getLsbD_eq_getElem]
  congr 1
  omega

@[simp] theorem fB_mkM (op : BitVec 7) (q : BitVec 5) (b : BitVec 5) (s : BitVec 5) (pl : BitVec 2) (acq : Bool) (nt : Bool) (u : Bool) (esz : BitVec 3) :
    fB (mkM op q b s pl acq nt u esz) = s := by
  ext i hi
  simp only [fB, mkM, BitVec.getElem_extractLsb']
  change BitVec.getLsbD (w := 7+5+5+5+2+1+1+1+2+3) (op ++ q ++ b ++ s ++ pl ++ BitVec.ofBool acq ++ BitVec.ofBool nt ++ BitVec.ofBool u ++ 0#2 ++ esz) (10 + i) = _
  rw [BitVec.getLsbD_append, if_neg (by omega), BitVec.getLsbD_append, if_neg (by omega), BitVec.getLsbD_append, if_neg (by omega), BitVec.getLsbD_append, if_neg (by omega), BitVec.getLsbD_append, if_neg (by omega), BitVec.getLsbD_append, if_neg (by omega), BitVec.getLsbD_append, if_pos (by omega)]
  rw [← BitVec.getLsbD_eq_getElem]
  congr 1
  omega

@[simp] theorem fFM_mkM (op : BitVec 7) (q : BitVec 5) (b : BitVec 5) (s : BitVec 5) (pl : BitVec 2) (acq : Bool) (nt : Bool) (u : Bool) (esz : BitVec 3) :
    fFM (mkM op q b s pl acq nt u esz) = pl := by
  ext i hi
  simp only [fFM, mkM, BitVec.getElem_extractLsb']
  change BitVec.getLsbD (w := 7+5+5+5+2+1+1+1+2+3) (op ++ q ++ b ++ s ++ pl ++ BitVec.ofBool acq ++ BitVec.ofBool nt ++ BitVec.ofBool u ++ 0#2 ++ esz) (8 + i) = _
  rw [BitVec.getLsbD_append, if_neg (by omega), BitVec.getLsbD_append, if_neg (by omega), BitVec.getLsbD_append, if_neg (by omega), BitVec.getLsbD_append, if_neg (by omega), BitVec.getLsbD_append, if_neg (by omega), BitVec.getLsbD_append, if_pos (by omega)]
  rw [← BitVec.getLsbD_eq_getElem]
  congr 1
  omega

@[simp] theorem fFL7_mkM (op : BitVec 7) (q : BitVec 5) (b : BitVec 5) (s : BitVec 5) (pl : BitVec 2) (acq : Bool) (nt : Bool) (u : Bool) (esz : BitVec 3) :
    fFL7 (mkM op q b s pl acq nt u esz) = acq := by
  unfold fFL7 mkM
  change BitVec.getLsbD (w := 7+5+5+5+2+1+1+1+2+3) (op ++ q ++ b ++ s ++ pl ++ BitVec.ofBool acq ++ BitVec.ofBool nt ++ BitVec.ofBool u ++ 0#2 ++ esz) (7) = _
  rw [BitVec.getLsbD_append, if_neg (by omega), BitVec.getLsbD_append, if_neg (by omega), BitVec.getLsbD_append, if_neg (by omega), BitVec.getLsbD_append, if_neg (by omega), BitVec.getLsbD_append, if_pos (by omega)]
  simp

@[simp] theorem fFL6_mkM (op : BitVec 7) (q : BitVec 5) (b : BitVec 5) (s : BitVec 5) (pl : BitVec 2) (acq : Bool) (nt : Bool) (u : Bool) (esz : BitVec 3) :
    fFL6 (mkM op q b s pl acq nt u esz) = nt := by
  unfold fFL6 mkM
  change BitVec.getLsbD (w := 7+5+5+5+2+1+1+1+2+3) (op ++ q ++ b ++ s ++ pl ++ BitVec.ofBool acq ++ BitVec.ofBool nt ++ BitVec.ofBool u ++ 0#2 ++ esz) (6) = _
  rw [BitVec.getLsbD_append, if_neg (by omega), BitVec.getLsbD_append, if_neg (by omega), BitVec.getLsbD_append, if_neg (by omega), BitVec.getLsbD_append, if_pos (by omega)]
  simp

@[simp] theorem fFL5_mkM (op : BitVec 7) (q : BitVec 5) (b : BitVec 5) (s : BitVec 5) (pl : BitVec 2) (acq : Bool) (nt : Bool) (u : Bool) (esz : BitVec 3) :
    fFL5 (mkM op q b s pl acq nt u esz) = u := by
  unfold fFL5 mkM
  change BitVec.getLsbD (w := 7+5+5+5+2+1+1+1+2+3) (op ++ q ++ b ++ s ++ pl ++ BitVec.ofBool acq ++ BitVec.ofBool nt ++ BitVec.ofBool u ++ 0#2 ++ esz) (5) = _
  rw [BitVec.getLsbD_append, if_neg (by omega), BitVec.getLsbD_append, if_neg (by omega), BitVec.getLsbD_append, if_pos (by omega)]
  simp

@[simp] theorem fM2_mkM (op : BitVec 7) (q : BitVec 5) (b : BitVec 5) (s : BitVec 5) (pl : BitVec 2) (acq : Bool) (nt : Bool) (u : Bool) (esz : BitVec 3) :
    fM2 (mkM op q b s pl acq nt u esz) = 0#2 := by
  ext i hi
  simp only [fM2, mkM, BitVec.getElem_extractLsb']
  change BitVec.getLsbD (w := 7+5+5+5+2+1+1+1+2+3) (op ++ q ++ b ++ s ++ pl ++ BitVec.ofBool acq ++ BitVec.ofBool nt ++ BitVec.ofBool u ++ 0#2 ++ esz) (3 + i) = _
  rw [BitVec.getLsbD_append, if_neg (by omega), BitVec.getLsbD_append, if_pos (by omega)]
  rw [← BitVec.getLsbD_eq_getElem]
  congr 1
  omega

@[simp] theorem fLow3_mkM (op : BitVec 7) (q : BitVec 5) (b : BitVec 5) (s : BitVec 5) (pl : BitVec 2) (acq : Bool) (nt : Bool) (u : Bool) (esz : BitVec 3) :
    fLow3 (mkM op q b s pl acq nt u esz) = esz := by
  ext i hi
  simp only [fLow3, mkM, BitVec.getElem_extractLsb']
  change BitVec.getLsbD (w := 7+5+5+5+2+1+1+1+2+3) (op ++ q ++ b ++ s ++ pl ++ BitVec.ofBool acq ++ BitVec.ofBool nt ++ BitVec.ofBool u ++ 0#2 ++ esz) (0 + i) = _
  rw [BitVec.getLsbD_append, if_pos (by omega)]
  rw [← BitVec.getLsbD_eq_getElem]
  congr 1
  omega

@[simp] theorem fOp_mkA (op : BitVec 7) (d : BitVec 5) (a : BitVec 5) (b : BitVec 5) (acq : Bool) (rel : Bool) (sc : BitVec 3) (w64 : Bool) (fn : BitVec 4) :
    fOp (mkA op d a b acq rel sc w64 fn) = op := by
  ext i hi
  simp only [fOp, mkA, BitVec.getElem_extractLsb']
  change BitVec.getLsbD (w := 7+5+5+5+1+1+3+1+4) (op ++ d ++ a ++ b ++ BitVec.ofBool acq ++ BitVec.ofBool rel ++ sc ++ BitVec.ofBool w64 ++ fn) (25 + i) = _
  rw [BitVec.getLsbD_append, if_neg (by omega), BitVec.getLsbD_append, if_neg (by omega), BitVec.getLsbD_append, if_neg (by omega), BitVec.getLsbD_append, if_neg (by omega), BitVec.getLsbD_append, if_neg (by omega), BitVec.getLsbD_append, if_neg (by omega), BitVec.getLsbD_append, if_neg (by omega), BitVec.getLsbD_append, if_neg (by omega)]
  rw [← BitVec.getLsbD_eq_getElem]
  congr 1
  omega

@[simp] theorem fD_mkA (op : BitVec 7) (d : BitVec 5) (a : BitVec 5) (b : BitVec 5) (acq : Bool) (rel : Bool) (sc : BitVec 3) (w64 : Bool) (fn : BitVec 4) :
    fD (mkA op d a b acq rel sc w64 fn) = d := by
  ext i hi
  simp only [fD, mkA, BitVec.getElem_extractLsb']
  change BitVec.getLsbD (w := 7+5+5+5+1+1+3+1+4) (op ++ d ++ a ++ b ++ BitVec.ofBool acq ++ BitVec.ofBool rel ++ sc ++ BitVec.ofBool w64 ++ fn) (20 + i) = _
  rw [BitVec.getLsbD_append, if_neg (by omega), BitVec.getLsbD_append, if_neg (by omega), BitVec.getLsbD_append, if_neg (by omega), BitVec.getLsbD_append, if_neg (by omega), BitVec.getLsbD_append, if_neg (by omega), BitVec.getLsbD_append, if_neg (by omega), BitVec.getLsbD_append, if_neg (by omega), BitVec.getLsbD_append, if_pos (by omega)]
  rw [← BitVec.getLsbD_eq_getElem]
  congr 1
  omega

@[simp] theorem fA_mkA (op : BitVec 7) (d : BitVec 5) (a : BitVec 5) (b : BitVec 5) (acq : Bool) (rel : Bool) (sc : BitVec 3) (w64 : Bool) (fn : BitVec 4) :
    fA (mkA op d a b acq rel sc w64 fn) = a := by
  ext i hi
  simp only [fA, mkA, BitVec.getElem_extractLsb']
  change BitVec.getLsbD (w := 7+5+5+5+1+1+3+1+4) (op ++ d ++ a ++ b ++ BitVec.ofBool acq ++ BitVec.ofBool rel ++ sc ++ BitVec.ofBool w64 ++ fn) (15 + i) = _
  rw [BitVec.getLsbD_append, if_neg (by omega), BitVec.getLsbD_append, if_neg (by omega), BitVec.getLsbD_append, if_neg (by omega), BitVec.getLsbD_append, if_neg (by omega), BitVec.getLsbD_append, if_neg (by omega), BitVec.getLsbD_append, if_neg (by omega), BitVec.getLsbD_append, if_pos (by omega)]
  rw [← BitVec.getLsbD_eq_getElem]
  congr 1
  omega

@[simp] theorem fB_mkA (op : BitVec 7) (d : BitVec 5) (a : BitVec 5) (b : BitVec 5) (acq : Bool) (rel : Bool) (sc : BitVec 3) (w64 : Bool) (fn : BitVec 4) :
    fB (mkA op d a b acq rel sc w64 fn) = b := by
  ext i hi
  simp only [fB, mkA, BitVec.getElem_extractLsb']
  change BitVec.getLsbD (w := 7+5+5+5+1+1+3+1+4) (op ++ d ++ a ++ b ++ BitVec.ofBool acq ++ BitVec.ofBool rel ++ sc ++ BitVec.ofBool w64 ++ fn) (10 + i) = _
  rw [BitVec.getLsbD_append, if_neg (by omega), BitVec.getLsbD_append, if_neg (by omega), BitVec.getLsbD_append, if_neg (by omega), BitVec.getLsbD_append, if_neg (by omega), BitVec.getLsbD_append, if_neg (by omega), BitVec.getLsbD_append, if_pos (by omega)]
  rw [← BitVec.getLsbD_eq_getElem]
  congr 1
  omega

@[simp] theorem fAcq_mkA (op : BitVec 7) (d : BitVec 5) (a : BitVec 5) (b : BitVec 5) (acq : Bool) (rel : Bool) (sc : BitVec 3) (w64 : Bool) (fn : BitVec 4) :
    fAcq (mkA op d a b acq rel sc w64 fn) = acq := by
  unfold fAcq mkA
  change BitVec.getLsbD (w := 7+5+5+5+1+1+3+1+4) (op ++ d ++ a ++ b ++ BitVec.ofBool acq ++ BitVec.ofBool rel ++ sc ++ BitVec.ofBool w64 ++ fn) (9) = _
  rw [BitVec.getLsbD_append, if_neg (by omega), BitVec.getLsbD_append, if_neg (by omega), BitVec.getLsbD_append, if_neg (by omega), BitVec.getLsbD_append, if_neg (by omega), BitVec.getLsbD_append, if_pos (by omega)]
  simp

@[simp] theorem fRel_mkA (op : BitVec 7) (d : BitVec 5) (a : BitVec 5) (b : BitVec 5) (acq : Bool) (rel : Bool) (sc : BitVec 3) (w64 : Bool) (fn : BitVec 4) :
    fRel (mkA op d a b acq rel sc w64 fn) = rel := by
  unfold fRel mkA
  change BitVec.getLsbD (w := 7+5+5+5+1+1+3+1+4) (op ++ d ++ a ++ b ++ BitVec.ofBool acq ++ BitVec.ofBool rel ++ sc ++ BitVec.ofBool w64 ++ fn) (8) = _
  rw [BitVec.getLsbD_append, if_neg (by omega), BitVec.getLsbD_append, if_neg (by omega), BitVec.getLsbD_append, if_neg (by omega), BitVec.getLsbD_append, if_pos (by omega)]
  simp

@[simp] theorem fPG_mkA (op : BitVec 7) (d : BitVec 5) (a : BitVec 5) (b : BitVec 5) (acq : Bool) (rel : Bool) (sc : BitVec 3) (w64 : Bool) (fn : BitVec 4) :
    fPG (mkA op d a b acq rel sc w64 fn) = sc := by
  ext i hi
  simp only [fPG, mkA, BitVec.getElem_extractLsb']
  change BitVec.getLsbD (w := 7+5+5+5+1+1+3+1+4) (op ++ d ++ a ++ b ++ BitVec.ofBool acq ++ BitVec.ofBool rel ++ sc ++ BitVec.ofBool w64 ++ fn) (5 + i) = _
  rw [BitVec.getLsbD_append, if_neg (by omega), BitVec.getLsbD_append, if_neg (by omega), BitVec.getLsbD_append, if_pos (by omega)]
  rw [← BitVec.getLsbD_eq_getElem]
  congr 1
  omega

@[simp] theorem fBit4_mkA (op : BitVec 7) (d : BitVec 5) (a : BitVec 5) (b : BitVec 5) (acq : Bool) (rel : Bool) (sc : BitVec 3) (w64 : Bool) (fn : BitVec 4) :
    fBit4 (mkA op d a b acq rel sc w64 fn) = BitVec.ofBool w64 := by
  ext i hi
  simp only [fBit4, mkA, BitVec.getElem_extractLsb']
  change BitVec.getLsbD (w := 7+5+5+5+1+1+3+1+4) (op ++ d ++ a ++ b ++ BitVec.ofBool acq ++ BitVec.ofBool rel ++ sc ++ BitVec.ofBool w64 ++ fn) (4 + i) = _
  rw [BitVec.getLsbD_append, if_neg (by omega), BitVec.getLsbD_append, if_pos (by omega)]
  rw [← BitVec.getLsbD_eq_getElem]
  congr 1
  omega

@[simp] theorem fFN4_mkA (op : BitVec 7) (d : BitVec 5) (a : BitVec 5) (b : BitVec 5) (acq : Bool) (rel : Bool) (sc : BitVec 3) (w64 : Bool) (fn : BitVec 4) :
    fFN4 (mkA op d a b acq rel sc w64 fn) = fn := by
  ext i hi
  simp only [fFN4, mkA, BitVec.getElem_extractLsb']
  change BitVec.getLsbD (w := 7+5+5+5+1+1+3+1+4) (op ++ d ++ a ++ b ++ BitVec.ofBool acq ++ BitVec.ofBool rel ++ sc ++ BitVec.ofBool w64 ++ fn) (0 + i) = _
  rw [BitVec.getLsbD_append, if_pos (by omega)]
  rw [← BitVec.getLsbD_eq_getElem]
  congr 1
  omega

@[simp] theorem fOp_mkP (op : BitVec 7) (pd : BitVec 6) (pa : BitVec 6) (pb : BitVec 6) (fn : BitVec 7) :
    fOp (mkP op pd pa pb fn) = op := by
  ext i hi
  simp only [fOp, mkP, BitVec.getElem_extractLsb']
  change BitVec.getLsbD (w := 7+6+6+6+7) (op ++ pd ++ pa ++ pb ++ fn) (25 + i) = _
  rw [BitVec.getLsbD_append, if_neg (by omega), BitVec.getLsbD_append, if_neg (by omega), BitVec.getLsbD_append, if_neg (by omega), BitVec.getLsbD_append, if_neg (by omega)]
  rw [← BitVec.getLsbD_eq_getElem]
  congr 1
  omega

@[simp] theorem fPD_mkP (op : BitVec 7) (pd : BitVec 6) (pa : BitVec 6) (pb : BitVec 6) (fn : BitVec 7) :
    fPD (mkP op pd pa pb fn) = pd := by
  ext i hi
  simp only [fPD, mkP, BitVec.getElem_extractLsb']
  change BitVec.getLsbD (w := 7+6+6+6+7) (op ++ pd ++ pa ++ pb ++ fn) (19 + i) = _
  rw [BitVec.getLsbD_append, if_neg (by omega), BitVec.getLsbD_append, if_neg (by omega), BitVec.getLsbD_append, if_neg (by omega), BitVec.getLsbD_append, if_pos (by omega)]
  rw [← BitVec.getLsbD_eq_getElem]
  congr 1
  omega

@[simp] theorem fPA_mkP (op : BitVec 7) (pd : BitVec 6) (pa : BitVec 6) (pb : BitVec 6) (fn : BitVec 7) :
    fPA (mkP op pd pa pb fn) = pa := by
  ext i hi
  simp only [fPA, mkP, BitVec.getElem_extractLsb']
  change BitVec.getLsbD (w := 7+6+6+6+7) (op ++ pd ++ pa ++ pb ++ fn) (13 + i) = _
  rw [BitVec.getLsbD_append, if_neg (by omega), BitVec.getLsbD_append, if_neg (by omega), BitVec.getLsbD_append, if_pos (by omega)]
  rw [← BitVec.getLsbD_eq_getElem]
  congr 1
  omega

@[simp] theorem fPB_mkP (op : BitVec 7) (pd : BitVec 6) (pa : BitVec 6) (pb : BitVec 6) (fn : BitVec 7) :
    fPB (mkP op pd pa pb fn) = pb := by
  ext i hi
  simp only [fPB, mkP, BitVec.getElem_extractLsb']
  change BitVec.getLsbD (w := 7+6+6+6+7) (op ++ pd ++ pa ++ pb ++ fn) (7 + i) = _
  rw [BitVec.getLsbD_append, if_neg (by omega), BitVec.getLsbD_append, if_pos (by omega)]
  rw [← BitVec.getLsbD_eq_getElem]
  congr 1
  omega

@[simp] theorem fPFN_mkP (op : BitVec 7) (pd : BitVec 6) (pa : BitVec 6) (pb : BitVec 6) (fn : BitVec 7) :
    fPFN (mkP op pd pa pb fn) = fn := by
  ext i hi
  simp only [fPFN, mkP, BitVec.getElem_extractLsb']
  change BitVec.getLsbD (w := 7+6+6+6+7) (op ++ pd ++ pa ++ pb ++ fn) (0 + i) = _
  rw [BitVec.getLsbD_append, if_pos (by omega)]
  rw [← BitVec.getLsbD_eq_getElem]
  congr 1
  omega

@[simp] theorem RM.ofBits_bits (k : RM) : RM.ofBits k.bits = some k := by cases k <;> rfl

@[simp] theorem Scope.ofBits_bits (k : Scope) : Scope.ofBits k.bits = some k := by cases k <;> rfl

@[simp] theorem Esz.ofBits_bits (k : Esz) : Esz.ofBits k.bits = some k := by cases k <;> rfl
@[simp] theorem Esz.ofSew_sewBits (k : Esz) : Esz.ofSew k.sewBits = some k := by cases k <;> rfl

@[simp] theorem BKind.ofBits_bits (k : BKind) : BKind.ofBits k.bits = some k := by cases k <;> rfl

@[simp] theorem FTy.ofBits_bits (k : FTy) : FTy.ofBits k.bits = some k := by cases k <;> rfl

@[simp] theorem FCond.ofBits_bits (k : FCond) : FCond.ofBits k.bits = some k := by cases k <;> rfl

@[simp] theorem VFCond.ofBits_bits (k : VFCond) : VFCond.ofBits k.bits = some k := by cases k <;> rfl

@[simp] theorem VCond.ofBits_bits (k : VCond) : VCond.ofBits k.bits = some k := by cases k <;> rfl

@[simp] theorem VTy.ofBits_bits (k : VTy) : VTy.ofBits k.bits = some k := by cases k <;> rfl

@[simp] theorem MTy.ofBits_bits (k : MTy) : MTy.ofBits k.bits = some k := by cases k <;> rfl

@[simp] theorem ZTy.ofBits_bits (k : ZTy) : ZTy.ofBits k.bits = some k := by cases k <;> rfl

@[simp] theorem TTy.ofBits_bits (k : TTy) : TTy.ofBits k.bits = some k := by cases k <;> rfl

@[simp] theorem Fam.ofBits_bits (k : Fam) : Fam.ofBits k.bits = some k := by cases k <;> rfl

@[simp] theorem FCvt.ofBits_bits (k : FCvt) : FCvt.ofBits k.bits = some k := by
  rcases k with t | t | t <;> cases t <;> rfl

@[simp] theorem BKind.ofBits_zero : BKind.ofBits 0#2 = some .vec := rfl

@[simp] theorem Csr.ofNum_num (c : Csr) : Csr.ofNum c.num = some c := by cases c <;> rfl

@[simp] theorem Fam.ofEsz_esz (f : Fam) : Fam.ofEsz f.esz = some f := by cases f <;> rfl

@[simp] theorem hi_append_2_3 (x : BitVec 2) (y : BitVec 3) : (x ++ y).extractLsb' 3 2 = x := by
  ext i hi
  rw [BitVec.getElem_extractLsb', BitVec.getLsbD_append, if_neg (by omega), ← BitVec.getLsbD_eq_getElem]
  congr 1
  omega

@[simp] theorem lo_append_2_3 (x : BitVec 2) (y : BitVec 3) : (x ++ y).extractLsb' 0 3 = y := by
  ext i hi
  rw [BitVec.getElem_extractLsb', BitVec.getLsbD_append, if_pos (by omega), ← BitVec.getLsbD_eq_getElem]
  congr 1
  omega

@[simp] theorem hi_append_1_4 (x : BitVec 1) (y : BitVec 4) : (x ++ y).extractLsb' 4 1 = x := by
  ext i hi
  rw [BitVec.getElem_extractLsb', BitVec.getLsbD_append, if_neg (by omega), ← BitVec.getLsbD_eq_getElem]
  congr 1
  omega

@[simp] theorem lo_append_1_4 (x : BitVec 1) (y : BitVec 4) : (x ++ y).extractLsb' 0 4 = y := by
  ext i hi
  rw [BitVec.getElem_extractLsb', BitVec.getLsbD_append, if_pos (by omega), ← BitVec.getLsbD_eq_getElem]
  congr 1
  omega

@[simp] theorem hi_append_9_6 (x : BitVec 9) (y : BitVec 6) : (x ++ y).extractLsb' 6 9 = x := by
  ext i hi
  rw [BitVec.getElem_extractLsb', BitVec.getLsbD_append, if_neg (by omega), ← BitVec.getLsbD_eq_getElem]
  congr 1
  omega

@[simp] theorem lo_append_9_6 (x : BitVec 9) (y : BitVec 6) : (x ++ y).extractLsb' 0 6 = y := by
  ext i hi
  rw [BitVec.getElem_extractLsb', BitVec.getLsbD_append, if_pos (by omega), ← BitVec.getLsbD_eq_getElem]
  congr 1
  omega

theorem plane_bits (f : BitVec 1) (n o : BitVec 2) :
    (f ++ (n ++ o)).extractLsb' 4 1 = f ∧ (f ++ (n ++ o)).extractLsb' 2 2 = n ∧ (f ++ (n ++ o)).extractLsb' 0 2 = o := by
  revert f n o; decide

theorem fBit4_plane (op : BitVec 7) (d a b : BitVec 5) (fm : BitVec 2) (pg : BitVec 3) (f : BitVec 1) (n o : BitVec 2) :
    fBit4 (mkR op d a b fm pg (f ++ (n ++ o))) = f :=
  (fBit4_mkR op d a b fm pg _).trans (plane_bits f n o).1

theorem fN_plane (op : BitVec 7) (d a b : BitVec 5) (fm : BitVec 2) (pg : BitVec 3) (f : BitVec 1) (n o : BitVec 2) :
    fN (mkR op d a b fm pg (f ++ (n ++ o))) = n :=
  (fN_mkR op d a b fm pg _).trans (plane_bits f n o).2.1

theorem fLow2_plane (op : BitVec 7) (d a b : BitVec 5) (fm : BitVec 2) (pg : BitVec 3) (f : BitVec 1) (n o : BitVec 2) :
    fLow2 (mkR op d a b fm pg (f ++ (n ++ o))) = o :=
  (fLow2_mkR op d a b fm pg _).trans (plane_bits f n o).2.2

@[simp] theorem ofBool_beq_one (b : Bool) : (BitVec.ofBool b == 1#1) = b := by cases b <;> rfl

end Sys2Proof.Laws
end

