-- ==== Sys2Proof/Laws/Inv.lean ====
section
/-! SUPPORT. The shared operations keep the canonical forms of memory and of the poison list. -/

namespace Sys2Proof.Laws
open Sys2Proof Sys2Proof.Machine

/-- Whatever next state an outcome holds is in canonical form. -/
def Keeps (o : Out) : Prop := ∀ t, o = .next t → t.Inv

theorem keeps_next {s : State} (h : s.Inv) : Keeps (.next s) := fun _ e => by cases e; exact h

theorem keeps_fault (f : Fault) : Keeps (.fault f) := fun _ e => nomatch e

theorem keeps_refused (r : Refusal) : Keeps (.refused r) := fun _ e => nomatch e

/-- An outcome or a value that an access answers with. -/
def KeepsE {α : Type} (o : Except Out α) : Prop := ∀ e, o = .error e → Keeps e

theorem keepsE_ok {α : Type} (a : α) : KeepsE (.ok a : Except Out α) := fun _ e => nomatch e

theorem keepsE_error {α : Type} {o : Out} (h : Keeps o) : KeepsE (.error o : Except Out α) :=
  fun _ e => by cases e; exact h

/-- An outcome or a state that an access answers with. -/
def KeepsS (o : Except Out State) : Prop := (∀ e, o = .error e → Keeps e) ∧ ∀ t, o = .ok t → t.Inv

theorem keepsS_ok {s : State} (h : s.Inv) : KeepsS (.ok s) :=
  ⟨fun _ e => (by cases e), fun _ e => (by cases e; exact h)⟩

theorem keepsS_error {o : Out} (h : Keeps o) : KeepsS (.error o) :=
  ⟨fun _ e => (by cases e; exact h), fun _ e => (by cases e)⟩

/-- A fold of operations that keep the forms keeps them. -/
theorem foldl_inv {α : Type} {f : State → α → State} (hf : ∀ t x, t.Inv → (f t x).Inv) (l : List α) {s : State}
    (h : s.Inv) : (l.foldl f s).Inv := by
  induction l generalizing s with
  | nil => exact h
  | cons x t ih => exact ih (hf s x h)

/-! ### Updates that touch neither -/

theorem setHart_inv {s : State} (h : s.Inv) (k : HartKey) (v : Hart) : (s.setHart k v).Inv := h

theorem setH_inv {s : State} (h : s.Inv) (v : Hart) : (s.setH v).Inv := h

theorem modH_inv {s : State} (h : s.Inv) (f : Hart → Hart) : (s.modH f).Inv := h

theorem modHart_inv {s : State} (h : s.Inv) (k : HartKey) (f : Hart → Hart) : (s.modHart k f).Inv := h

theorem setSeq_inv {s : State} (h : s.Inv) (q : Seq) : (s.setSeq q).Inv := h

theorem actAs_inv {s : State} (h : s.Inv) (k : HartKey) (sd : Side) : (s.actAs k sd).Inv := h

theorem setCar_inv {s : State} (h : s.Inv) (c : CarId) (v : Caravan) : (s.setCar c v).Inv := h

theorem setSlice_inv {s : State} (h : s.Inv) (n : Nat) (v : Slice) : (s.setSlice n v).Inv := h

theorem setCore_inv {s : State} (h : s.Inv) (n : Nat) (v : Core) : (s.setCore n v).Inv := h

theorem setDisp_inv {s : State} (h : s.Inv) (n : Nat) (v : Disp) : (s.setDisp n v).Inv := h

theorem unbook_inv {s : State} (h : s.Inv) (i : CmdId) : (s.unbook i).Inv := h

theorem setEvent_inv {s : State} (h : s.Inv) (k : HartKey) : (s.setEvent k).Inv := h

theorem modHarts_inv {s : State} (h : s.Inv) (ks : List HartKey) (f : Hart → Hart) : (s.modHarts ks f).Inv :=
  foldl_inv (fun _ _ ht => modHart_inv ht _ _) ks h

theorem writeR_inv {s : State} (h : s.Inv) (d : Reg) (v : Word) : (s.writeR d v).Inv := by
  unfold State.writeR; split <;> exact h

theorem popAll_inv {s : State} (h : s.Inv) (fs : List Fld) : (s.popAll fs).Inv := by
  unfold State.popAll; split <;> exact h

theorem setCmd_inv {s : State} (h : s.Inv) (i : CmdId) (r : HRec) : (s.setCmd i r).Inv := by
  unfold State.setCmd
  split
  · exact h
  · split <;> exact h
  · split <;> exact h

theorem cmdEvent_inv {s : State} (h : s.Inv) (i : CmdId) : (s.cmdEvent i).Inv := by
  unfold State.cmdEvent; split <;> exact h

/-! ### Commands -/

theorem putFor_inv {s : State} (h : s.Inv) (i : CmdId) (g : Word) (bs : List Byte) : (s.putFor i g bs).Inv :=
  putBytes_inv h _

theorem writeBlock_inv {s : State} (h : s.Inv) (i : CmdId) (r : HRec) : (s.writeBlock i r).Inv := by
  unfold State.writeBlock
  split
  · split
    · exact h
    · exact putFor_inv h _ _ _
  · exact putFor_inv (putFor_inv h _ _ _) _ _ _
  · exact putFor_inv (putFor_inv h _ _ _) _ _ _

theorem endOne_inv {s : State} (h : s.Inv) (i : CmdId) (n : Nat) (r : BitVec 32) : (s.endOne i n r).Inv := by
  unfold State.endOne
  split
  · exact h
  · split
    · exact h
    · exact unbook_inv (writeBlock_inv (cmdEvent_inv (setCmd_inv h _ _) _) _ _) _

theorem follow_inv (fuel : Nat) {s : State} (h : s.Inv) (is : List CmdId) : (State.follow fuel s is).Inv := by
  induction fuel generalizing s is with
  | zero => exact h
  | succ n ih =>
    cases is with
    | nil => exact h
    | cons i rest =>
      unfold State.follow
      split
      · exact ih h rest
      · dsimp only
        split
        · refine ih (foldl_inv (fun t x ht => ?_) _ h) rest
          split
          · exact setCmd_inv ht _ _
          · exact ht
        · split
          · exact ih (foldl_inv (fun t x ht => endOne_inv ht _ _ _) _ h) _
          · exact ih h rest

theorem endGraph_inv {s : State} (h : s.Inv) (g : Nat) (b : Bool) : (s.endGraph g b).Inv := by
  unfold State.endGraph
  dsimp only
  split <;> exact h

theorem settleGraph_inv {s : State} (h : s.Inv) (g : Nat) : (s.settleGraph g).Inv := by
  unfold State.settleGraph
  split
  · split
    · exact endGraph_inv h _ _
    · exact h
  · exact h

theorem endCmd_inv {s : State} (h : s.Inv) (i : CmdId) (n : Nat) (r : BitVec 32) : (s.endCmd i n r).Inv := by
  unfold State.endCmd
  dsimp only
  split
  · exact follow_inv _ (endOne_inv h _ _ _) _
  · exact settleGraph_inv (follow_inv _ (endOne_inv h _ _ _) _) _
  · exact follow_inv _ (endOne_inv h _ _ _) _

theorem abortCmds_inv {s : State} (h : s.Inv) (k : HartKey) (sel : HRec → Bool) : (s.abortCmds k sel).Inv := by
  unfold State.abortCmds
  refine follow_inv _ (foldl_inv (fun t x ht => ?_) _ h) _
  split
  · exact endOne_inv ht _ _ _
  · exact ht

theorem endSlice_inv {s : State} (h : s.Inv) (n : Nat) : (s.endSlice n).Inv := by
  unfold State.endSlice
  dsimp only
  split
  · refine foldl_inv (fun t p ht => ?_) _ (setSlice_inv h _ _)
    refine foldl_inv (fun u q hu => abortCmds_inv hu _ _) _ ?_
    exact foldl_inv (fun u q hu => abortCmds_inv hu _ _) _ (modHarts_inv (setCar_inv ht _ _) _ _)
  · exact h

/-! ### Traps, completion and waits -/

theorem fatalCore_inv {s : State} (h : s.Inv) (k : HartKey) : (s.fatalCore k).Inv := by
  unfold State.fatalCore
  exact setCore_inv (setCar_inv (modHart_inv (modHarts_inv h _ _) _ _) _ _) _ _

theorem requestHalt_inv {s : State} (h : s.Inv) (k : HartKey) : (s.requestHalt k).Inv := modHarts_inv h _ _

theorem leaseTrap_inv {s : State} (h : s.Inv) (v : Hart) : (s.leaseTrap v).Inv := by
  unfold State.leaseTrap
  dsimp only
  split
  · exact h
  · exact endSlice_inv (setH_inv h _) _

theorem takeTrap_inv {s : State} (h : s.Inv) (t : Trap) (r : Word) : (s.takeTrap t r).Inv := by
  unfold State.takeTrap
  dsimp only
  repeat' split
  · exact requestHalt_inv (setH_inv h _) _
  · exact requestHalt_inv (setH_inv h _) _
  · exact endSlice_inv (setH_inv h _) _
  · exact leaseTrap_inv h _
  · exact fatalCore_inv (setH_inv h _) _
  · exact h

theorem trap_keeps {s : State} (h : s.Inv) (t : Trap) : Keeps (s.trap t) := keeps_next (takeTrap_inv h _ _)

theorem raise_keeps {s : State} (h : s.Inv) (c : Nat) (x y : Word) : Keeps (s.raise c x y) := trap_keeps h _

theorem trapAt_keeps {s : State} (h : s.Inv) (i : Instr) (t : Trap) : Keeps (s.trapAt i t) := by
  unfold State.trapAt
  split
  · split
    · exact trap_keeps (modH_inv h _) _
    · exact trap_keeps h _
  · exact trap_keeps h _

theorem illegal_keeps {s : State} (h : s.Inv) (n : Nat) : Keeps (s.illegal n) := raise_keeps h _ _ _

theorem stepTrap_keeps {s : State} (h : s.Inv) (o : Word) : Keeps (s.stepTrap o) := by
  unfold State.stepTrap
  dsimp only
  repeat' split
  all_goals first | exact keeps_next (takeTrap_inv h _ _) | exact keeps_next h

theorem advance_inv {s : State} (h : s.Inv) : s.advance.Inv := h

theorem complete_keeps {s : State} (h : s.Inv) : Keeps s.complete := stepTrap_keeps (advance_inv h) _

theorem setBarrier_inv {s : State} (h : s.Inv) (c : CarId) (v : Caravan) : (s.setBarrier c v).Inv := by
  unfold State.setBarrier
  dsimp only
  split
  · exact h
  · exact modHarts_inv (setCar_inv h _ _) _ _

theorem endHart_inv {s : State} (h : s.Inv) : s.endHart.Inv := by
  unfold State.endHart
  dsimp only
  split
  · exact setBarrier_inv (modH_inv h _) _ _
  · exact h

theorem endSeq_inv {s : State} (h : s.Inv) : s.endSeq.Inv := endHart_inv (setSeq_inv h _)

theorem jump_keeps {s : State} (h : s.Inv) (t : Word) (b : Bool) : Keeps (s.jump t b) := by
  unfold State.jump
  dsimp only
  split
  · exact stepTrap_keeps (endSeq_inv h) _
  · exact stepTrap_keeps (setSeq_inv h _) _

theorem sleepOn_inv {s : State} (h : s.Inv) (i : Instr) (q : Option (Nat × Bool)) (l m : Option Nat) :
    (s.sleepOn i q l m).Inv := by
  unfold State.sleepOn
  split <;> exact h

theorem waitOn_inv {s : State} (h : s.Inv) (i : Instr) (q : Option (Nat × Bool)) (l : Option Nat) :
    (s.waitOn i q l).Inv := sleepOn_inv h _ _ _ _

theorem waitOn_keeps {s : State} (h : s.Inv) (i : Instr) (q : Option (Nat × Bool)) (l : Option Nat) :
    Keeps (.next (s.waitOn i q l)) := keeps_next (waitOn_inv h _ _ _)

theorem waitOr_keeps {s : State} (h : s.Inv) (i : Instr) (l : Nat) (v : Word) : Keeps (s.waitOr i l v) := by
  unfold State.waitOr
  split
  · exact raise_keeps h _ _ _
  · exact waitOn_keeps h _ _ _

theorem stallTrap_keeps {s : State} (h : s.Inv) (t : Trap) : Keeps (s.stallTrap t) := by
  unfold State.stallTrap
  split
  · exact trapAt_keeps h _ _
  · exact trap_keeps h _

theorem stall_keeps {s : State} (h : s.Inv) (i : Instr) (q : Nat × Bool) : Keeps (s.stall i q) := by
  unfold State.stall
  dsimp only
  split
  · exact stallTrap_keeps (waitOn_inv h _ _ _) _
  · exact waitOn_keeps h _ _ _

theorem withQueues_keeps {s : State} (h : s.Inv) (i : Instr) (fs : List Fld) (sd vd : Option Reg) {k : State → Out}
    (hk : Keeps (k s)) : Keeps (s.withQueues i fs sd vd k) := by
  unfold State.withQueues
  split
  · exact hk
  · split
    · exact stall_keeps h _ _
    · exact hk

theorem gate_keeps {s : State} (h : s.Inv) (i : Instr) {k : State → Out} (hk : Keeps (k s)) : Keeps (s.gate i k) := by
  unfold State.gate
  split
  · exact illegal_keeps h _
  · exact hk

/-! ### Time and fetch -/

theorem elapse_inv {s : State} (h : s.Inv) (n : Nat) : (s.elapse n).Inv := h

theorem keepWear_inv {s : State} (h : s.Inv) : s.keepWear.Inv := by
  unfold State.keepWear; split <;> exact h

theorem strike_inv {s : State} (h : s.Inv) : s.strike.Inv := by
  unfold State.strike
  split
  · split
    · exact ⟨h.1, poisonSet_wf h.2 _ _⟩
    · exact h
  · exact h
  · exact h

theorem begin_inv {s : State} (h : s.Inv) : s.begin.Inv := by
  unfold State.begin
  exact strike_inv (keepWear_inv h)

theorem fetch_inv {s : State} (h : s.Inv) {w : BitVec 32} {t : State} (e : s.fetch = .ok (w, t)) : t.Inv := by
  unfold State.fetch at e
  dsimp only at e
  split at e
  · cases e; exact h
  · split at e
    · cases e
    · split at e
      · cases e
      · cases e; exact h

theorem spoilQueue_inv {s : State} (h : s.Inv) : s.spoilQueue.Inv := by
  unfold State.spoilQueue; split <;> exact h

theorem takeTurn_inv {s : State} (h : s.Inv) (k : HartKey) (sd : Side) : (s.takeTurn k sd).Inv := by
  unfold State.takeTurn
  split
  · exact spoilQueue_inv h
  · exact spoilQueue_inv h

theorem fetchAt_inv {s : State} (h : s.Inv) {k : HartKey} {sd : Side} {i : Instr} {t : State}
    (e : s.fetchAt k sd = .ok (i, t)) : t.Inv := by
  unfold State.fetchAt at e
  split at e
  · cases e
  · next w s1 hf =>
    have h1 := fetch_inv (takeTurn_inv h k sd) hf
    dsimp only at e
    split at e <;> (cases e; exact h1)

theorem fetchAt_keeps {s : State} (h : s.Inv) {k : HartKey} {sd : Side} {o : Out}
    (e : s.fetchAt k sd = .error o) : Keeps o := by
  unfold State.fetchAt at e
  split at e
  · cases e; exact trap_keeps (takeTurn_inv h k sd) _
  · dsimp only at e
    split at e <;> cases e

theorem issueOf_inv {s : State} (h : s.Inv) {k : HartKey} {sd : Side} {i : Instr} {t : State}
    (e : s.issueOf k sd = .ok (i, t)) : t.Inv := by
  unfold State.issueOf at e
  split at e
  · exact fetchAt_inv h e
  · cases e

theorem issueOf_keeps {s : State} (h : s.Inv) {k : HartKey} {sd : Side} {o : Out}
    (e : s.issueOf k sd = .error o) : Keeps o := by
  unfold State.issueOf at e
  split at e
  · exact fetchAt_keeps h e
  · cases e; exact keeps_next h

end Sys2Proof.Laws
end

