-- ==== Sys2Proof/Laws/Ops.lean ====
section
/-! SUPPORT. What the shared operations of Machine/Ops.lean do, once each: the gate, the queues, completion, and
which parts of a state they leave alone. -/

namespace Sys2Proof.Laws
open Sys2Proof Sys2Proof.Machine

/-! ### Lists by key -/

@[simp] theorem kvSet_kvSet {α β : Type} [DecidableEq α] (l : List (α × β)) (a : α) (b c : β) :
    kvSet (kvSet l a b) a c = kvSet l a c := by
  induction l with
  | nil => simp [kvSet]
  | cons p t ih => obtain ⟨k, v⟩ := p; by_cases h : k = a <;> simp [kvSet, h, ih]

@[simp] theorem setH_setH (s : State) (h k : Hart) : (s.setH h).setH k = s.setH k := by
  simp [State.setH, State.setHart]

theorem setSeq_setH (s : State) (h : Hart) (q : Seq) :
    (s.setH h).setSeq q = s.setH (h.setSeq s.own.side q) := by
  simp [State.setSeq, State.modH]

/-! ### Parts that pops and writes leave alone -/

@[simp] theorem hpopFld_a (h : Hart) (f : Fld) : (h.popFld f).a = h.a := by
  unfold Hart.popFld; split <;> split <;> rfl
@[simp] theorem hpopFld_x (h : Hart) (f : Fld) : (h.popFld f).x = h.x := by
  unfold Hart.popFld; split <;> split <;> rfl
@[simp] theorem hpopFld_regs (h : Hart) (f : Fld) : (h.popFld f).regs = h.regs := by
  unfold Hart.popFld; split <;> split <;> rfl
@[simp] theorem hpopFld_csr (h : Hart) (f : Fld) : (h.popFld f).csr = h.csr := by
  unfold Hart.popFld; split <;> split <;> rfl
@[simp] theorem hpopFld_tr (h : Hart) (f : Fld) : (h.popFld f).tr = h.tr := by
  unfold Hart.popFld; split <;> split <;> rfl
@[simp] theorem hpopFld_mem (h : Hart) (f : Fld) : (h.popFld f).mem = h.mem := by
  unfold Hart.popFld; split <;> split <;> rfl
@[simp] theorem hpopFld_eng (h : Hart) (f : Fld) : (h.popFld f).eng = h.eng := by
  unfold Hart.popFld; split <;> split <;> rfl

/-- A fold of pops leaves alone what one pop leaves alone. -/
theorem popFlds_same {α : Type} (g : Hart → α) (e : ∀ h f, g (Hart.popFld h f) = g h) (h : Hart) (fs : List Fld) :
    g (h.popFlds fs) = g h := by
  unfold Hart.popFlds
  induction fs generalizing h with
  | nil => rfl
  | cons f t ih => rw [List.foldl_cons, ih, e]

@[simp] theorem hpopFlds_a (h : Hart) (fs : List Fld) : (h.popFlds fs).a = h.a := popFlds_same (·.a) hpopFld_a h fs
@[simp] theorem hpopFlds_x (h : Hart) (fs : List Fld) : (h.popFlds fs).x = h.x := popFlds_same (·.x) hpopFld_x h fs
@[simp] theorem hpopFlds_regs (h : Hart) (fs : List Fld) : (h.popFlds fs).regs = h.regs :=
  popFlds_same (·.regs) hpopFld_regs h fs
@[simp] theorem hpopFlds_csr (h : Hart) (fs : List Fld) : (h.popFlds fs).csr = h.csr :=
  popFlds_same (·.csr) hpopFld_csr h fs
@[simp] theorem hpopFlds_tr (h : Hart) (fs : List Fld) : (h.popFlds fs).tr = h.tr :=
  popFlds_same (·.tr) hpopFld_tr h fs
@[simp] theorem hpopFlds_mem (h : Hart) (fs : List Fld) : (h.popFlds fs).mem = h.mem :=
  popFlds_same (·.mem) hpopFld_mem h fs
@[simp] theorem hpopFlds_eng (h : Hart) (fs : List Fld) : (h.popFlds fs).eng = h.eng :=
  popFlds_same (·.eng) hpopFld_eng h fs

@[simp] theorem popAll_own (s : State) (fs : List Fld) : (s.popAll fs).own = s.own := by
  unfold State.popAll; split <;> rfl

@[simp] theorem popAll_tr (s : State) (fs : List Fld) : (s.popAll fs).h.tr = s.h.tr := by
  unfold State.popAll; split
  · rfl
  · rw [h_modH, hpopFlds_tr]

@[simp] theorem popAll_csr (s : State) (fs : List Fld) : (s.popAll fs).h.csr = s.h.csr := by
  unfold State.popAll; split
  · rfl
  · rw [h_modH, hpopFlds_csr]

@[simp] theorem popAll_a (s : State) (fs : List Fld) : (s.popAll fs).h.a = s.h.a := by
  unfold State.popAll; split
  · rfl
  · rw [h_modH, hpopFlds_a]

@[simp] theorem popAll_x (s : State) (fs : List Fld) : (s.popAll fs).h.x = s.h.x := by
  unfold State.popAll; split
  · rfl
  · rw [h_modH, hpopFlds_x]

@[simp] theorem popAll_seq (s : State) (fs : List Fld) : (s.popAll fs).seq = s.seq := by
  unfold State.seq Hart.seq
  rw [popAll_own, popAll_a, popAll_x]

@[simp] theorem popAll_mem (s : State) (fs : List Fld) : (s.popAll fs).mem = s.mem := by
  unfold State.popAll; split <;> rfl

@[simp] theorem popAll_poison (s : State) (fs : List Fld) : (s.popAll fs).poison = s.poison := by
  unfold State.popAll; split <;> rfl

@[simp] theorem writeR_own (s : State) (d : Reg) (v : Word) : (s.writeR d v).own = s.own := by
  unfold State.writeR; split <;> rfl

@[simp] theorem writeR_mem (s : State) (d : Reg) (v : Word) : (s.writeR d v).mem = s.mem := by
  unfold State.writeR; split <;> rfl

@[simp] theorem writeR_poison (s : State) (d : Reg) (v : Word) : (s.writeR d v).poison = s.poison := by
  unfold State.writeR; split <;> rfl

@[simp] theorem writeR_tr (s : State) (d : Reg) (v : Word) : (s.writeR d v).h.tr = s.h.tr := by
  unfold State.writeR; split <;> rw [h_modH]
  · exact hwriteA_tr _ _ _
  · exact hwriteX_tr _ _ _

@[simp] theorem writeR_csr (s : State) (d : Reg) (v : Word) : (s.writeR d v).h.csr = s.h.csr := by
  unfold State.writeR; split <;> rw [h_modH]
  · exact hwriteA_csr _ _ _
  · exact hwriteX_csr _ _ _

@[simp] theorem writeR_seq (s : State) (d : Reg) (v : Word) : (s.writeR d v).seq = s.seq := by
  unfold State.seq
  rw [writeR_own]
  unfold State.writeR; split <;> rw [h_modH] <;> unfold Hart.seq <;> split <;> simp

@[simp] theorem advance_own (s : State) : s.advance.own = s.own := rfl

@[simp] theorem advance_mem (s : State) : s.advance.mem = s.mem := rfl

@[simp] theorem advance_poison (s : State) : s.advance.poison = s.poison := rfl

@[simp] theorem setSeq_tr (s : State) (q : Seq) : (s.setSeq q).h.tr = s.h.tr := by
  unfold State.setSeq; rw [h_modH]; simp

@[simp] theorem advance_tr (s : State) : s.advance.h.tr = s.h.tr := by
  unfold State.advance; simp

/-! ### The gate, the queues and completion -/

/-- A legal word passes the gate. -/
theorem gate_legal {s : State} {i : Instr} {k : State → Out} (h : s.illegalSub i = none) : s.gate i k = k s := by
  unfold State.gate; rw [h]

/-- An illegal word raises ILLEGAL with its lowest subcode. -/
theorem gate_illegal {s : State} {i : Instr} {k : State → Out} {n : Nat} (h : s.illegalSub i = some n) :
    s.gate i k = s.illegal n := by
  unfold State.gate; rw [h]

/-- With its queues ready an instruction goes on. -/
theorem withQueues_ready {s : State} {i : Instr} {fs : List Fld} {sd vd : Option Reg} {k : State → Out}
    (h : s.own.side = .X → s.h.blocked fs sd vd = none) : s.withQueues i fs sd vd k = k s := by
  unfold State.withQueues; split
  · rfl
  · next e => rw [h e]

theorem unstepped_of_eq {s t : State} (o : t.own = s.own) (r : t.h.tr = s.h.tr) : t.unstepped = s.unstepped := by
  unfold State.unstepped; rw [o, r]

/-- A side that is not single-stepped raises no STEP. -/
theorem stepTrap_unstepped {s : State} {o : Word} (h : s.unstepped = true) : s.stepTrap o = .next s := by
  unfold State.stepTrap; dsimp only
  unfold State.unstepped at h
  cases hs : s.own.side <;> rw [hs] at h <;> dsimp only at h ⊢ <;> rw [if_neg] <;> simp at h ⊢ <;>
    (intro e; rcases h with h | h <;> simp_all)

/-- A side that is not single-stepped completes by advancing. -/
theorem complete_unstepped {s : State} (h : s.unstepped = true) : s.complete = .next s.advance := by
  unfold State.complete
  exact stepTrap_unstepped ((unstepped_of_eq (advance_own s) (advance_tr s)).trans h)

/-- A scalar result is written and the instruction completes. -/
theorem wrote_complete {s : State} (h : s.unstepped = true) (fs : List Fld) (d : Reg) (v : Word) :
    ((s.popAll fs).writeR d v).complete = s.wrote fs d v := by
  rw [complete_unstepped]
  · rfl
  · exact (unstepped_of_eq (by simp) (by simp)).trans h

theorem alu2_ready {s : State} {i : Instr} {d a b : Reg} {f : Word → Word → Word}
    (h : s.ready i [.s a, .s b] (some d) none) :
    s.alu2 i d a b f = s.wrote [.s a, .s b] d (f (s.fld [.s a, .s b] 0) (s.fld [.s a, .s b] 1)) := by
  unfold State.alu2
  rw [gate_legal h.1, withQueues_ready h.2.1, wrote_complete h.2.2]

theorem alu1_ready {s : State} {i : Instr} {d a : Reg} {f : Word → Word} (h : s.ready i [.s a] (some d) none) :
    s.alu1 i d a f = s.wrote [.s a] d (f (s.fld [.s a] 0)) := by
  unfold State.alu1
  rw [gate_legal h.1, withQueues_ready h.2.1, wrote_complete h.2.2]

/-- A control transfer of a side that is not single-stepped and whose target does not end it. -/
theorem jump_unstepped {s : State} {t : Word} {b : Bool} (h : s.unstepped = true)
    (e : b = false ∨ t ≠ 0) :
    s.jump t b = .next (s.setSeq { s.seq with pc := t, wait := none }) := by
  unfold State.jump; dsimp only
  rw [if_neg, stepTrap_unstepped]
  · rw [unstepped_of_eq (s := s) (t := s.setSeq _) rfl (setSeq_tr _ _)]; exact h
  · rcases e with e | e
    · simp [e]
    · intro c; simp only [Bool.and_eq_true, beq_iff_eq] at c; exact e c.2

/-- A control transfer to 0 ends the running sequencer (R322). -/
theorem jump_zero {s : State} (h : s.endSeq.unstepped = true) : s.jump 0 true = .next s.endSeq := by
  unfold State.jump; dsimp only
  rw [if_pos (by simp), stepTrap_unstepped h]

end Sys2Proof.Laws
end

