-- ==== Sys2Proof/Laws/PerInstr.lean ====
section
/-! SUPPORT. Decoding the word of an instruction gives the instruction back, constructor by constructor (R49 to
R63). -/

namespace Sys2Proof.Laws
open Sys2Proof

/-- A word that the tables assign, within its limits, decodes. -/
theorem decode_of_raw {w : BitVec 32} {i : Instr} (h : decodeRaw w = some i) (e : i.encodable = true) :
    decode w = .ok i := by
  unfold decode
  rw [h]
  simp only [e, if_true]

/-- The word of an instruction within its limits decodes to that instruction. -/
def RoundTrip.Statement (i : Instr) : Prop := i.encodable = true → decode (encode i) = .ok i

theorem RoundTrip.add (x0 x1 x2) : RoundTrip.Statement (.add x0 x1 x2) := by
  intro h
  refine decode_of_raw ?_ h
  change decodeRaw (mkR _ _ _ _ _ _ _) = _
  unfold decodeRaw
  rw [fOp_mkR]
  change decInt1 _ = _
  simp [decInt1, decIf, plain]

theorem RoundTrip.sub (x0 x1 x2) : RoundTrip.Statement (.sub x0 x1 x2) := by
  intro h
  refine decode_of_raw ?_ h
  change decodeRaw (mkR _ _ _ _ _ _ _) = _
  unfold decodeRaw
  rw [fOp_mkR]
  change decInt1 _ = _
  simp [decInt1, decIf, plain]

theorem RoundTrip.and (x0 x1 x2) : RoundTrip.Statement (.and x0 x1 x2) := by
  intro h
  refine decode_of_raw ?_ h
  change decodeRaw (mkR _ _ _ _ _ _ _) = _
  unfold decodeRaw
  rw [fOp_mkR]
  change decInt1 _ = _
  simp [decInt1, decIf, plain]

theorem RoundTrip.or (x0 x1 x2) : RoundTrip.Statement (.or x0 x1 x2) := by
  intro h
  refine decode_of_raw ?_ h
  change decodeRaw (mkR _ _ _ _ _ _ _) = _
  unfold decodeRaw
  rw [fOp_mkR]
  change decInt1 _ = _
  simp [decInt1, decIf, plain]

theorem RoundTrip.xor (x0 x1 x2) : RoundTrip.Statement (.xor x0 x1 x2) := by
  intro h
  refine decode_of_raw ?_ h
  change decodeRaw (mkR _ _ _ _ _ _ _) = _
  unfold decodeRaw
  rw [fOp_mkR]
  change decInt1 _ = _
  simp [decInt1, decIf, plain]

theorem RoundTrip.sll (x0 x1 x2) : RoundTrip.Statement (.sll x0 x1 x2) := by
  intro h
  refine decode_of_raw ?_ h
  change decodeRaw (mkR _ _ _ _ _ _ _) = _
  unfold decodeRaw
  rw [fOp_mkR]
  change decInt1 _ = _
  simp [decInt1, decIf, plain]

theorem RoundTrip.srl (x0 x1 x2) : RoundTrip.Statement (.srl x0 x1 x2) := by
  intro h
  refine decode_of_raw ?_ h
  change decodeRaw (mkR _ _ _ _ _ _ _) = _
  unfold decodeRaw
  rw [fOp_mkR]
  change decInt1 _ = _
  simp [decInt1, decIf, plain]

theorem RoundTrip.sra (x0 x1 x2) : RoundTrip.Statement (.sra x0 x1 x2) := by
  intro h
  refine decode_of_raw ?_ h
  change decodeRaw (mkR _ _ _ _ _ _ _) = _
  unfold decodeRaw
  rw [fOp_mkR]
  change decInt1 _ = _
  simp [decInt1, decIf, plain]

theorem RoundTrip.slt (x0 x1 x2) : RoundTrip.Statement (.slt x0 x1 x2) := by
  intro h
  refine decode_of_raw ?_ h
  change decodeRaw (mkR _ _ _ _ _ _ _) = _
  unfold decodeRaw
  rw [fOp_mkR]
  change decInt1 _ = _
  simp [decInt1, decIf, plain]

theorem RoundTrip.sltn (x0 x1 x2) : RoundTrip.Statement (.sltn x0 x1 x2) := by
  intro h
  refine decode_of_raw ?_ h
  change decodeRaw (mkR _ _ _ _ _ _ _) = _
  unfold decodeRaw
  rw [fOp_mkR]
  change decInt1 _ = _
  simp [decInt1, decIf, plain]

theorem RoundTrip.min (x0 x1 x2) : RoundTrip.Statement (.min x0 x1 x2) := by
  intro h
  refine decode_of_raw ?_ h
  change decodeRaw (mkR _ _ _ _ _ _ _) = _
  unfold decodeRaw
  rw [fOp_mkR]
  change decInt1 _ = _
  simp [decInt1, decIf, plain]

theorem RoundTrip.max (x0 x1 x2) : RoundTrip.Statement (.max x0 x1 x2) := by
  intro h
  refine decode_of_raw ?_ h
  change decodeRaw (mkR _ _ _ _ _ _ _) = _
  unfold decodeRaw
  rw [fOp_mkR]
  change decInt1 _ = _
  simp [decInt1, decIf, plain]

theorem RoundTrip.minn (x0 x1 x2) : RoundTrip.Statement (.minn x0 x1 x2) := by
  intro h
  refine decode_of_raw ?_ h
  change decodeRaw (mkR _ _ _ _ _ _ _) = _
  unfold decodeRaw
  rw [fOp_mkR]
  change decInt1 _ = _
  simp [decInt1, decIf, plain]

theorem RoundTrip.maxn (x0 x1 x2) : RoundTrip.Statement (.maxn x0 x1 x2) := by
  intro h
  refine decode_of_raw ?_ h
  change decodeRaw (mkR _ _ _ _ _ _ _) = _
  unfold decodeRaw
  rw [fOp_mkR]
  change decInt1 _ = _
  simp [decInt1, decIf, plain]

theorem RoundTrip.mul (x0 x1 x2) : RoundTrip.Statement (.mul x0 x1 x2) := by
  intro h
  refine decode_of_raw ?_ h
  change decodeRaw (mkR _ _ _ _ _ _ _) = _
  unfold decodeRaw
  rw [fOp_mkR]
  change decInt2 _ = _
  simp [decInt2, decIf, plain]

theorem RoundTrip.mulh (x0 x1 x2) : RoundTrip.Statement (.mulh x0 x1 x2) := by
  intro h
  refine decode_of_raw ?_ h
  change decodeRaw (mkR _ _ _ _ _ _ _) = _
  unfold decodeRaw
  rw [fOp_mkR]
  change decInt2 _ = _
  simp [decInt2, decIf, plain]

theorem RoundTrip.mulhn (x0 x1 x2) : RoundTrip.Statement (.mulhn x0 x1 x2) := by
  intro h
  refine decode_of_raw ?_ h
  change decodeRaw (mkR _ _ _ _ _ _ _) = _
  unfold decodeRaw
  rw [fOp_mkR]
  change decInt2 _ = _
  simp [decInt2, decIf, plain]

theorem RoundTrip.div (x0 x1 x2) : RoundTrip.Statement (.div x0 x1 x2) := by
  intro h
  refine decode_of_raw ?_ h
  change decodeRaw (mkR _ _ _ _ _ _ _) = _
  unfold decodeRaw
  rw [fOp_mkR]
  change decInt2 _ = _
  simp [decInt2, decIf, plain]

theorem RoundTrip.divn (x0 x1 x2) : RoundTrip.Statement (.divn x0 x1 x2) := by
  intro h
  refine decode_of_raw ?_ h
  change decodeRaw (mkR _ _ _ _ _ _ _) = _
  unfold decodeRaw
  rw [fOp_mkR]
  change decInt2 _ = _
  simp [decInt2, decIf, plain]

theorem RoundTrip.rem (x0 x1 x2) : RoundTrip.Statement (.rem x0 x1 x2) := by
  intro h
  refine decode_of_raw ?_ h
  change decodeRaw (mkR _ _ _ _ _ _ _) = _
  unfold decodeRaw
  rw [fOp_mkR]
  change decInt2 _ = _
  simp [decInt2, decIf, plain]

theorem RoundTrip.remn (x0 x1 x2) : RoundTrip.Statement (.remn x0 x1 x2) := by
  intro h
  refine decode_of_raw ?_ h
  change decodeRaw (mkR _ _ _ _ _ _ _) = _
  unfold decodeRaw
  rw [fOp_mkR]
  change decInt2 _ = _
  simp [decInt2, decIf, plain]

theorem RoundTrip.clz (x0 x1) : RoundTrip.Statement (.clz x0 x1) := by
  intro h
  refine decode_of_raw ?_ h
  change decodeRaw (mkR _ _ _ _ _ _ _) = _
  unfold decodeRaw
  rw [fOp_mkR]
  change decInt3 _ = _
  simp [decInt3, decIf, plain]

theorem RoundTrip.ctz (x0 x1) : RoundTrip.Statement (.ctz x0 x1) := by
  intro h
  refine decode_of_raw ?_ h
  change decodeRaw (mkR _ _ _ _ _ _ _) = _
  unfold decodeRaw
  rw [fOp_mkR]
  change decInt3 _ = _
  simp [decInt3, decIf, plain]

theorem RoundTrip.popc (x0 x1) : RoundTrip.Statement (.popc x0 x1) := by
  intro h
  refine decode_of_raw ?_ h
  change decodeRaw (mkR _ _ _ _ _ _ _) = _
  unfold decodeRaw
  rw [fOp_mkR]
  change decInt3 _ = _
  simp [decInt3, decIf, plain]

theorem RoundTrip.brev (x0 x1) : RoundTrip.Statement (.brev x0 x1) := by
  intro h
  refine decode_of_raw ?_ h
  change decodeRaw (mkR _ _ _ _ _ _ _) = _
  unfold decodeRaw
  rw [fOp_mkR]
  change decInt3 _ = _
  simp [decInt3, decIf, plain]

theorem RoundTrip.addi (x0 x1 x2) : RoundTrip.Statement (.addi x0 x1 x2) := by
  intro h
  refine decode_of_raw ?_ h
  change decodeRaw (mkI _ _ _ _) = _
  unfold decodeRaw
  rw [fOp_mkI]
  change (some (.addi (fD (mkI _ _ _ _)) (fA (mkI _ _ _ _)) (fImm15 (mkI _ _ _ _))) : Option Instr) = _
  simp

theorem RoundTrip.andi (x0 x1 x2) : RoundTrip.Statement (.andi x0 x1 x2) := by
  intro h
  refine decode_of_raw ?_ h
  change decodeRaw (mkI _ _ _ _) = _
  unfold decodeRaw
  rw [fOp_mkI]
  change (some (.andi (fD (mkI _ _ _ _)) (fA (mkI _ _ _ _)) (fImm15 (mkI _ _ _ _))) : Option Instr) = _
  simp

theorem RoundTrip.ori (x0 x1 x2) : RoundTrip.Statement (.ori x0 x1 x2) := by
  intro h
  refine decode_of_raw ?_ h
  change decodeRaw (mkI _ _ _ _) = _
  unfold decodeRaw
  rw [fOp_mkI]
  change (some (.ori (fD (mkI _ _ _ _)) (fA (mkI _ _ _ _)) (fImm15 (mkI _ _ _ _))) : Option Instr) = _
  simp

theorem RoundTrip.xori (x0 x1 x2) : RoundTrip.Statement (.xori x0 x1 x2) := by
  intro h
  refine decode_of_raw ?_ h
  change decodeRaw (mkI _ _ _ _) = _
  unfold decodeRaw
  rw [fOp_mkI]
  change (some (.xori (fD (mkI _ _ _ _)) (fA (mkI _ _ _ _)) (fImm15 (mkI _ _ _ _))) : Option Instr) = _
  simp

theorem RoundTrip.slli (x0 x1 x2) : RoundTrip.Statement (.slli x0 x1 x2) := by
  intro h
  refine decode_of_raw ?_ h
  change decodeRaw (mkI _ _ _ _) = _
  unfold decodeRaw
  rw [fOp_mkI]
  change (decIf (fSh9 (mkI _ _ _ _) == 0) (.slli (fD (mkI _ _ _ _)) (fA (mkI _ _ _ _)) (fSh6 (mkI _ _ _ _))) : Option Instr) = _
  simp [decIf]

theorem RoundTrip.srli (x0 x1 x2) : RoundTrip.Statement (.srli x0 x1 x2) := by
  intro h
  refine decode_of_raw ?_ h
  change decodeRaw (mkI _ _ _ _) = _
  unfold decodeRaw
  rw [fOp_mkI]
  change (decIf (fSh9 (mkI _ _ _ _) == 0) (.srli (fD (mkI _ _ _ _)) (fA (mkI _ _ _ _)) (fSh6 (mkI _ _ _ _))) : Option Instr) = _
  simp [decIf]

theorem RoundTrip.srai (x0 x1 x2) : RoundTrip.Statement (.srai x0 x1 x2) := by
  intro h
  refine decode_of_raw ?_ h
  change decodeRaw (mkI _ _ _ _) = _
  unfold decodeRaw
  rw [fOp_mkI]
  change (decIf (fSh9 (mkI _ _ _ _) == 0) (.srai (fD (mkI _ _ _ _)) (fA (mkI _ _ _ _)) (fSh6 (mkI _ _ _ _))) : Option Instr) = _
  simp [decIf]

theorem RoundTrip.slti (x0 x1 x2) : RoundTrip.Statement (.slti x0 x1 x2) := by
  intro h
  refine decode_of_raw ?_ h
  change decodeRaw (mkI _ _ _ _) = _
  unfold decodeRaw
  rw [fOp_mkI]
  change (some (.slti (fD (mkI _ _ _ _)) (fA (mkI _ _ _ _)) (fImm15 (mkI _ _ _ _))) : Option Instr) = _
  simp

theorem RoundTrip.lih (x0 x1) : RoundTrip.Statement (.lih x0 x1) := by
  intro h
  refine decode_of_raw ?_ h
  change decodeRaw (mkL _ _ _) = _
  unfold decodeRaw
  rw [fOp_mkL]
  change (some (.lih (fD (mkL _ _ _)) (fImm20 (mkL _ _ _))) : Option Instr) = _
  simp

theorem RoundTrip.beq (x0 x1 x2) : RoundTrip.Statement (.beq x0 x1 x2) := by
  intro h
  refine decode_of_raw ?_ h
  change decodeRaw (mkB _ _ _ _ _) = _
  unfold decodeRaw
  rw [fOp_mkB]
  change decBranch _ = _
  simp [decBranch, decIf]

theorem RoundTrip.bne (x0 x1 x2) : RoundTrip.Statement (.bne x0 x1 x2) := by
  intro h
  refine decode_of_raw ?_ h
  change decodeRaw (mkB _ _ _ _ _) = _
  unfold decodeRaw
  rw [fOp_mkB]
  change decBranch _ = _
  simp [decBranch, decIf]

theorem RoundTrip.blt (x0 x1 x2) : RoundTrip.Statement (.blt x0 x1 x2) := by
  intro h
  refine decode_of_raw ?_ h
  change decodeRaw (mkB _ _ _ _ _) = _
  unfold decodeRaw
  rw [fOp_mkB]
  change decBranch _ = _
  simp [decBranch, decIf]

theorem RoundTrip.bge (x0 x1 x2) : RoundTrip.Statement (.bge x0 x1 x2) := by
  intro h
  refine decode_of_raw ?_ h
  change decodeRaw (mkB _ _ _ _ _) = _
  unfold decodeRaw
  rw [fOp_mkB]
  change decBranch _ = _
  simp [decBranch, decIf]

theorem RoundTrip.bltn (x0 x1 x2) : RoundTrip.Statement (.bltn x0 x1 x2) := by
  intro h
  refine decode_of_raw ?_ h
  change decodeRaw (mkB _ _ _ _ _) = _
  unfold decodeRaw
  rw [fOp_mkB]
  change decBranch _ = _
  simp [decBranch, decIf]

theorem RoundTrip.bgen (x0 x1 x2) : RoundTrip.Statement (.bgen x0 x1 x2) := by
  intro h
  refine decode_of_raw ?_ h
  change decodeRaw (mkB _ _ _ _ _) = _
  unfold decodeRaw
  rw [fOp_mkB]
  change decBranch _ = _
  simp [decBranch, decIf]

theorem RoundTrip.jal (x0 x1) : RoundTrip.Statement (.jal x0 x1) := by
  intro h
  refine decode_of_raw ?_ h
  change decodeRaw (mkL _ _ _) = _
  unfold decodeRaw
  rw [fOp_mkL]
  change (some (.jal (fD (mkL _ _ _)) (fImm20 (mkL _ _ _))) : Option Instr) = _
  simp

theorem RoundTrip.jalr (x0 x1 x2) : RoundTrip.Statement (.jalr x0 x1 x2) := by
  intro h
  refine decode_of_raw ?_ h
  change decodeRaw (mkI _ _ _ _) = _
  unfold decodeRaw
  rw [fOp_mkI]
  change (some (.jalr (fD (mkI _ _ _ _)) (fA (mkI _ _ _ _)) (fImm15 (mkI _ _ _ _))) : Option Instr) = _
  simp

theorem RoundTrip.loop (x0 x1) : RoundTrip.Statement (.loop x0 x1) := by
  intro h
  refine decode_of_raw ?_ h
  change decodeRaw (mkH _ _ _ _) = _
  unfold decodeRaw
  rw [fOp_mkH]
  change (decIf (fH8 (mkH _ _ _ _) == 0) (.loop (fD (mkH _ _ _ _)) (fOff12 (mkH _ _ _ _))) : Option Instr) = _
  simp [decIf]

theorem RoundTrip.loopi (x0 x1) : RoundTrip.Statement (.loopi x0 x1) := by
  intro h
  refine decode_of_raw ?_ h
  change decodeRaw (mkH2 _ _ _) = _
  unfold decodeRaw
  rw [fOp_mkH2]
  change (some (.loopi (fCount (mkH2 _ _ _)) (fOff12 (mkH2 _ _ _))) : Option Instr) = _
  simp

theorem RoundTrip.lidx (x0 x1) : RoundTrip.Statement (.lidx x0 x1) := by
  intro h
  refine decode_of_raw ?_ h
  change decodeRaw (mkR _ _ _ _ _ _ _) = _
  unfold decodeRaw
  rw [fOp_mkR]
  change decLoopReg _ = _
  simp [decLoopReg, decIf, plain]

theorem RoundTrip.lbrk (x0) : RoundTrip.Statement (.lbrk x0) := by
  intro h
  refine decode_of_raw ?_ h
  change decodeRaw (mkR _ _ _ _ _ _ _) = _
  unfold decodeRaw
  rw [fOp_mkR]
  change decLoopReg _ = _
  simp [decLoopReg, decIf, plain]

theorem RoundTrip.csrr (x0 x1) : RoundTrip.Statement (.csrr x0 x1) := by
  intro h
  refine decode_of_raw ?_ h
  change decodeRaw (mkB _ _ _ _ _) = _
  unfold decodeRaw
  rw [fOp_mkB]
  change decCsr _ = _
  simp [decCsr, decIf]

theorem RoundTrip.csrw (x0 x1 x2) : RoundTrip.Statement (.csrw x0 x1 x2) := by
  intro h
  refine decode_of_raw ?_ h
  change decodeRaw (mkB _ _ _ _ _) = _
  unfold decodeRaw
  rw [fOp_mkB]
  change decCsr _ = _
  simp [decCsr]

theorem RoundTrip.csrs (x0 x1 x2) : RoundTrip.Statement (.csrs x0 x1 x2) := by
  intro h
  refine decode_of_raw ?_ h
  change decodeRaw (mkB _ _ _ _ _) = _
  unfold decodeRaw
  rw [fOp_mkB]
  change decCsr _ = _
  simp [decCsr]

theorem RoundTrip.csrc (x0 x1 x2) : RoundTrip.Statement (.csrc x0 x1 x2) := by
  intro h
  refine decode_of_raw ?_ h
  change decodeRaw (mkB _ _ _ _ _) = _
  unfold decodeRaw
  rw [fOp_mkB]
  change decCsr _ = _
  simp [decCsr]

theorem RoundTrip.ecall : RoundTrip.Statement .ecall := by
  intro h
  refine decode_of_raw ?_ h
  change decodeRaw (mkR _ _ _ _ _ _ _) = _
  unfold decodeRaw
  rw [fOp_mkR]
  change decSys _ = _
  simp [decSys, decIf, plain]

theorem RoundTrip.eret : RoundTrip.Statement .eret := by
  intro h
  refine decode_of_raw ?_ h
  change decodeRaw (mkR _ _ _ _ _ _ _) = _
  unfold decodeRaw
  rw [fOp_mkR]
  change decSys _ = _
  simp [decSys, decIf, plain]

theorem RoundTrip.brk : RoundTrip.Statement .brk := by
  intro h
  refine decode_of_raw ?_ h
  change decodeRaw (mkR _ _ _ _ _ _ _) = _
  unfold decodeRaw
  rw [fOp_mkR]
  change decSys _ = _
  simp [decSys, decIf, plain]

theorem RoundTrip.wfe : RoundTrip.Statement .wfe := by
  intro h
  refine decode_of_raw ?_ h
  change decodeRaw (mkR _ _ _ _ _ _ _) = _
  unfold decodeRaw
  rw [fOp_mkR]
  change decSys _ = _
  simp [decSys, decIf, plain]

theorem RoundTrip.fence (x0 x1 x2) : RoundTrip.Statement (.fence x0 x1 x2) := by
  intro h
  refine decode_of_raw ?_ h
  change decodeRaw (mkF _ _ _ _ _) = _
  unfold decodeRaw
  rw [fOp_mkF]
  change decFence _ = _
  simp [decFence, decIf]

theorem RoundTrip.fencei : RoundTrip.Statement .fencei := by
  intro h
  refine decode_of_raw ?_ h
  change decodeRaw (mkR _ _ _ _ _ _ _) = _
  unfold decodeRaw
  rw [fOp_mkR]
  change decFence _ = _
  simp [decFence, decIf, plain]

theorem RoundTrip.fadd (x0 x1 x2 x3 x4) : RoundTrip.Statement (.fadd x0 x1 x2 x3 x4) := by
  intro h
  refine decode_of_raw ?_ h
  change decodeRaw (mkR _ _ _ _ _ _ _) = _
  unfold decodeRaw
  rw [fOp_mkR]
  change decFp _ = _
  simp [decFp]

theorem RoundTrip.fsub (x0 x1 x2 x3 x4) : RoundTrip.Statement (.fsub x0 x1 x2 x3 x4) := by
  intro h
  refine decode_of_raw ?_ h
  change decodeRaw (mkR _ _ _ _ _ _ _) = _
  unfold decodeRaw
  rw [fOp_mkR]
  change decFp _ = _
  simp [decFp]

theorem RoundTrip.fmul (x0 x1 x2 x3 x4) : RoundTrip.Statement (.fmul x0 x1 x2 x3 x4) := by
  intro h
  refine decode_of_raw ?_ h
  change decodeRaw (mkR _ _ _ _ _ _ _) = _
  unfold decodeRaw
  rw [fOp_mkR]
  change decFp _ = _
  simp [decFp]

theorem RoundTrip.fdiv (x0 x1 x2 x3 x4) : RoundTrip.Statement (.fdiv x0 x1 x2 x3 x4) := by
  intro h
  refine decode_of_raw ?_ h
  change decodeRaw (mkR _ _ _ _ _ _ _) = _
  unfold decodeRaw
  rw [fOp_mkR]
  change decFp _ = _
  simp [decFp]

theorem RoundTrip.fsqrt (x0 x1 x2 x3) : RoundTrip.Statement (.fsqrt x0 x1 x2 x3) := by
  intro h
  refine decode_of_raw ?_ h
  change decodeRaw (mkR _ _ _ _ _ _ _) = _
  unfold decodeRaw
  rw [fOp_mkR]
  change decFp _ = _
  simp [decFp, decIf]

theorem RoundTrip.ffma (x0 x1 x2 x3 x4) : RoundTrip.Statement (.ffma x0 x1 x2 x3 x4) := by
  intro h
  refine decode_of_raw ?_ h
  change decodeRaw (mkR _ _ _ _ _ _ _) = _
  unfold decodeRaw
  rw [fOp_mkR]
  change decFp _ = _
  simp [decFp]

theorem RoundTrip.fmin (x0 x1 x2 x3) : RoundTrip.Statement (.fmin x0 x1 x2 x3) := by
  intro h
  refine decode_of_raw ?_ h
  change decodeRaw (mkR _ _ _ _ _ _ _) = _
  unfold decodeRaw
  rw [fOp_mkR]
  change decFp _ = _
  simp [decFp, decIf]

theorem RoundTrip.fmax (x0 x1 x2 x3) : RoundTrip.Statement (.fmax x0 x1 x2 x3) := by
  intro h
  refine decode_of_raw ?_ h
  change decodeRaw (mkR _ _ _ _ _ _ _) = _
  unfold decodeRaw
  rw [fOp_mkR]
  change decFp _ = _
  simp [decFp, decIf]

theorem RoundTrip.fcmp (x0 x1 x2 x3 x4) : RoundTrip.Statement (.fcmp x0 x1 x2 x3 x4) := by
  intro h
  refine decode_of_raw ?_ h
  change decodeRaw (mkR _ _ _ _ _ _ _) = _
  unfold decodeRaw
  rw [fOp_mkR]
  change decFp _ = _
  simp [decFp]

theorem RoundTrip.fcvt (x0 x1 x2 x3 x4) : RoundTrip.Statement (.fcvt x0 x1 x2 x3 x4) := by
  intro h
  refine decode_of_raw ?_ h
  change decodeRaw (mkR _ _ _ _ _ _ _) = _
  unfold decodeRaw
  rw [fOp_mkR]
  change decFp _ = _
  simp [decFp]

theorem RoundTrip.ldb (x0 x1 x2) : RoundTrip.Statement (.ldb x0 x1 x2) := by
  intro h
  refine decode_of_raw ?_ h
  change decodeRaw (mkI _ _ _ _) = _
  unfold decodeRaw
  rw [fOp_mkI]
  change (some (.ldb (fD (mkI _ _ _ _)) (fA (mkI _ _ _ _)) (fImm15 (mkI _ _ _ _))) : Option Instr) = _
  simp

theorem RoundTrip.ldbn (x0 x1 x2) : RoundTrip.Statement (.ldbn x0 x1 x2) := by
  intro h
  refine decode_of_raw ?_ h
  change decodeRaw (mkI _ _ _ _) = _
  unfold decodeRaw
  rw [fOp_mkI]
  change (some (.ldbn (fD (mkI _ _ _ _)) (fA (mkI _ _ _ _)) (fImm15 (mkI _ _ _ _))) : Option Instr) = _
  simp

theorem RoundTrip.ldh (x0 x1 x2) : RoundTrip.Statement (.ldh x0 x1 x2) := by
  intro h
  refine decode_of_raw ?_ h
  change decodeRaw (mkI _ _ _ _) = _
  unfold decodeRaw
  rw [fOp_mkI]
  change (some (.ldh (fD (mkI _ _ _ _)) (fA (mkI _ _ _ _)) (fImm15 (mkI _ _ _ _))) : Option Instr) = _
  simp

theorem RoundTrip.ldhn (x0 x1 x2) : RoundTrip.Statement (.ldhn x0 x1 x2) := by
  intro h
  refine decode_of_raw ?_ h
  change decodeRaw (mkI _ _ _ _) = _
  unfold decodeRaw
  rw [fOp_mkI]
  change (some (.ldhn (fD (mkI _ _ _ _)) (fA (mkI _ _ _ _)) (fImm15 (mkI _ _ _ _))) : Option Instr) = _
  simp

theorem RoundTrip.ldw (x0 x1 x2) : RoundTrip.Statement (.ldw x0 x1 x2) := by
  intro h
  refine decode_of_raw ?_ h
  change decodeRaw (mkI _ _ _ _) = _
  unfold decodeRaw
  rw [fOp_mkI]
  change (some (.ldw (fD (mkI _ _ _ _)) (fA (mkI _ _ _ _)) (fImm15 (mkI _ _ _ _))) : Option Instr) = _
  simp

theorem RoundTrip.ldwn (x0 x1 x2) : RoundTrip.Statement (.ldwn x0 x1 x2) := by
  intro h
  refine decode_of_raw ?_ h
  change decodeRaw (mkI _ _ _ _) = _
  unfold decodeRaw
  rw [fOp_mkI]
  change (some (.ldwn (fD (mkI _ _ _ _)) (fA (mkI _ _ _ _)) (fImm15 (mkI _ _ _ _))) : Option Instr) = _
  simp

theorem RoundTrip.ldd (x0 x1 x2) : RoundTrip.Statement (.ldd x0 x1 x2) := by
  intro h
  refine decode_of_raw ?_ h
  change decodeRaw (mkI _ _ _ _) = _
  unfold decodeRaw
  rw [fOp_mkI]
  change (some (.ldd (fD (mkI _ _ _ _)) (fA (mkI _ _ _ _)) (fImm15 (mkI _ _ _ _))) : Option Instr) = _
  simp

theorem RoundTrip.stb (x0 x1 x2) : RoundTrip.Statement (.stb x0 x1 x2) := by
  intro h
  refine decode_of_raw ?_ h
  change decodeRaw (mkI _ _ _ _) = _
  unfold decodeRaw
  rw [fOp_mkI]
  change (some (.stb (fD (mkI _ _ _ _)) (fA (mkI _ _ _ _)) (fImm15 (mkI _ _ _ _))) : Option Instr) = _
  simp

theorem RoundTrip.sth (x0 x1 x2) : RoundTrip.Statement (.sth x0 x1 x2) := by
  intro h
  refine decode_of_raw ?_ h
  change decodeRaw (mkI _ _ _ _) = _
  unfold decodeRaw
  rw [fOp_mkI]
  change (some (.sth (fD (mkI _ _ _ _)) (fA (mkI _ _ _ _)) (fImm15 (mkI _ _ _ _))) : Option Instr) = _
  simp

theorem RoundTrip.stw (x0 x1 x2) : RoundTrip.Statement (.stw x0 x1 x2) := by
  intro h
  refine decode_of_raw ?_ h
  change decodeRaw (mkI _ _ _ _) = _
  unfold decodeRaw
  rw [fOp_mkI]
  change (some (.stw (fD (mkI _ _ _ _)) (fA (mkI _ _ _ _)) (fImm15 (mkI _ _ _ _))) : Option Instr) = _
  simp

theorem RoundTrip.std (x0 x1 x2) : RoundTrip.Statement (.std x0 x1 x2) := by
  intro h
  refine decode_of_raw ?_ h
  change decodeRaw (mkI _ _ _ _) = _
  unfold decodeRaw
  rw [fOp_mkI]
  change (some (.std (fD (mkI _ _ _ _)) (fA (mkI _ _ _ _)) (fImm15 (mkI _ _ _ _))) : Option Instr) = _
  simp

theorem RoundTrip.sptest (x0 x1) : RoundTrip.Statement (.sptest x0 x1) := by
  intro h
  refine decode_of_raw ?_ h
  change decodeRaw (mkR _ _ _ _ _ _ _) = _
  unfold decodeRaw
  rw [fOp_mkR]
  change decSp _ = _
  simp [decSp, decIf, plain]

theorem RoundTrip.spcast (x0 x1) : RoundTrip.Statement (.spcast x0 x1) := by
  intro h
  refine decode_of_raw ?_ h
  change decodeRaw (mkR _ _ _ _ _ _ _) = _
  unfold decodeRaw
  rw [fOp_mkR]
  change decSp _ = _
  simp [decSp, decIf, plain]

theorem RoundTrip.pushs (x0 x1) : RoundTrip.Statement (.pushs x0 x1) := by
  intro h
  refine decode_of_raw ?_ h
  change decodeRaw (mkR _ _ _ _ _ _ _) = _
  unfold decodeRaw
  rw [fOp_mkR]
  change decPush _ = _
  simp [decPush, decIf, plain]

theorem RoundTrip.pops (x0 x1) : RoundTrip.Statement (.pops x0 x1) := by
  intro h
  refine decode_of_raw ?_ h
  change decodeRaw (mkR _ _ _ _ _ _ _) = _
  unfold decodeRaw
  rw [fOp_mkR]
  change decPush _ = _
  simp [decPush, decIf, plain]

theorem RoundTrip.strip (x0 x1 x2 x3 x4 x5) : RoundTrip.Statement (.strip x0 x1 x2 x3 x4 x5) := by
  intro h
  refine decode_of_raw ?_ h
  change decodeRaw (mkR _ _ _ _ _ _ _) = _
  unfold decodeRaw
  rw [fOp_mkR]
  change decStrip _ = _
  simp [decStrip, decIf]

theorem RoundTrip.setvl (x0 x1) : RoundTrip.Statement (.setvl x0 x1) := by
  intro h
  refine decode_of_raw ?_ h
  change decodeRaw (mkR _ _ _ _ _ _ _) = _
  unfold decodeRaw
  rw [fOp_mkR]
  change decLen _ = _
  simp [decLen, decIf, plain]

theorem RoundTrip.vltake (x0) : RoundTrip.Statement (.vltake x0) := by
  intro h
  refine decode_of_raw ?_ h
  change decodeRaw (mkR _ _ _ _ _ _ _) = _
  unfold decodeRaw
  rw [fOp_mkR]
  change decLen _ = _
  simp [decLen, decIf, plain]

theorem RoundTrip.lchk (x0 x1 x2) : RoundTrip.Statement (.lchk x0 x1 x2) := by
  intro h
  refine decode_of_raw ?_ h
  change decodeRaw (mkR _ _ _ _ _ _ _) = _
  unfold decodeRaw
  rw [fOp_mkR]
  change decLen _ = _
  simp [decLen, decIf, plain]

theorem RoundTrip.vld (x0 x1 x2 x3 x4) : RoundTrip.Statement (.vld x0 x1 x2 x3 x4) := by
  intro h
  refine decode_of_raw ?_ h
  change decodeRaw (mkM _ _ _ _ _ _ _ _ _) = _
  unfold decodeRaw
  rw [fOp_mkM]
  change decVmem _ = _
  simp [decVmem, decIf]

theorem RoundTrip.vlds (x0 x1 x2 x3 x4 x5) : RoundTrip.Statement (.vlds x0 x1 x2 x3 x4 x5) := by
  intro h
  refine decode_of_raw ?_ h
  change decodeRaw (mkM _ _ _ _ _ _ _ _ _) = _
  unfold decodeRaw
  rw [fOp_mkM]
  change decVmem _ = _
  simp [decVmem, decIf]

theorem RoundTrip.vldx (x0 x1 x2 x3 x4 x5 x6) : RoundTrip.Statement (.vldx x0 x1 x2 x3 x4 x5 x6) := by
  intro h
  refine decode_of_raw ?_ h
  change decodeRaw (mkM _ _ _ _ _ _ _ _ _) = _
  unfold decodeRaw
  rw [fOp_mkM]
  change decVmem _ = _
  simp [decVmem, decIf]

theorem RoundTrip.vldff (x0 x1 x2 x3 x4) : RoundTrip.Statement (.vldff x0 x1 x2 x3 x4) := by
  intro h
  refine decode_of_raw ?_ h
  change decodeRaw (mkM _ _ _ _ _ _ _ _ _) = _
  unfold decodeRaw
  rw [fOp_mkM]
  change decVmem _ = _
  simp [decVmem, decIf]

theorem RoundTrip.vldp (x0 x1 x2 x3 x4 x5 x6 x7) : RoundTrip.Statement (.vldp x0 x1 x2 x3 x4 x5 x6 x7) := by
  intro h
  refine decode_of_raw ?_ h
  change decodeRaw (mkM _ _ _ _ _ _ _ _ _) = _
  unfold decodeRaw
  rw [fOp_mkM]
  change decVmemP _ = _
  simp [decVmemP, decIf]

theorem RoundTrip.vst (x0 x1 x2 x3 x4) : RoundTrip.Statement (.vst x0 x1 x2 x3 x4) := by
  intro h
  refine decode_of_raw ?_ h
  change decodeRaw (mkM _ _ _ _ _ _ _ _ _) = _
  unfold decodeRaw
  rw [fOp_mkM]
  change decVmem _ = _
  simp [decVmem, decIf]

theorem RoundTrip.vsts (x0 x1 x2 x3 x4 x5) : RoundTrip.Statement (.vsts x0 x1 x2 x3 x4 x5) := by
  intro h
  refine decode_of_raw ?_ h
  change decodeRaw (mkM _ _ _ _ _ _ _ _ _) = _
  unfold decodeRaw
  rw [fOp_mkM]
  change decVmem _ = _
  simp [decVmem, decIf]

theorem RoundTrip.vstx (x0 x1 x2 x3 x4 x5) : RoundTrip.Statement (.vstx x0 x1 x2 x3 x4 x5) := by
  intro h
  refine decode_of_raw ?_ h
  change decodeRaw (mkM _ _ _ _ _ _ _ _ _) = _
  unfold decodeRaw
  rw [fOp_mkM]
  change decVmem _ = _
  simp [decVmem, decIf]

theorem RoundTrip.vstxadd (x0 x1 x2 x3 x4 x5 x6) : RoundTrip.Statement (.vstxadd x0 x1 x2 x3 x4 x5 x6) := by
  intro h
  refine decode_of_raw ?_ h
  change decodeRaw (mkM _ _ _ _ _ _ _ _ _) = _
  unfold decodeRaw
  rw [fOp_mkM]
  change decVmem _ = _
  simp [decVmem, decIf]

theorem RoundTrip.vstp (x0 x1 x2 x3 x4 x5 x6 x7) : RoundTrip.Statement (.vstp x0 x1 x2 x3 x4 x5 x6 x7) := by
  intro h
  refine decode_of_raw ?_ h
  change decodeRaw (mkM _ _ _ _ _ _ _ _ _) = _
  unfold decodeRaw
  rw [fOp_mkM]
  change decVmemP _ = _
  simp [decVmemP, decIf]

theorem RoundTrip.amoadd (x0 x1 x2 x3 x4 x5 x6) : RoundTrip.Statement (.amoadd x0 x1 x2 x3 x4 x5 x6) := by
  intro h
  refine decode_of_raw ?_ h
  change decodeRaw (mkA _ _ _ _ _ _ _ _ _) = _
  unfold decodeRaw
  rw [fOp_mkA]
  change decAmo _ = _
  simp [decAmo]

theorem RoundTrip.amoand (x0 x1 x2 x3 x4 x5 x6) : RoundTrip.Statement (.amoand x0 x1 x2 x3 x4 x5 x6) := by
  intro h
  refine decode_of_raw ?_ h
  change decodeRaw (mkA _ _ _ _ _ _ _ _ _) = _
  unfold decodeRaw
  rw [fOp_mkA]
  change decAmo _ = _
  simp [decAmo]

theorem RoundTrip.amoor (x0 x1 x2 x3 x4 x5 x6) : RoundTrip.Statement (.amoor x0 x1 x2 x3 x4 x5 x6) := by
  intro h
  refine decode_of_raw ?_ h
  change decodeRaw (mkA _ _ _ _ _ _ _ _ _) = _
  unfold decodeRaw
  rw [fOp_mkA]
  change decAmo _ = _
  simp [decAmo]

theorem RoundTrip.amoxor (x0 x1 x2 x3 x4 x5 x6) : RoundTrip.Statement (.amoxor x0 x1 x2 x3 x4 x5 x6) := by
  intro h
  refine decode_of_raw ?_ h
  change decodeRaw (mkA _ _ _ _ _ _ _ _ _) = _
  unfold decodeRaw
  rw [fOp_mkA]
  change decAmo _ = _
  simp [decAmo]

theorem RoundTrip.amomin (x0 x1 x2 x3 x4 x5 x6) : RoundTrip.Statement (.amomin x0 x1 x2 x3 x4 x5 x6) := by
  intro h
  refine decode_of_raw ?_ h
  change decodeRaw (mkA _ _ _ _ _ _ _ _ _) = _
  unfold decodeRaw
  rw [fOp_mkA]
  change decAmo _ = _
  simp [decAmo]

theorem RoundTrip.amomax (x0 x1 x2 x3 x4 x5 x6) : RoundTrip.Statement (.amomax x0 x1 x2 x3 x4 x5 x6) := by
  intro h
  refine decode_of_raw ?_ h
  change decodeRaw (mkA _ _ _ _ _ _ _ _ _) = _
  unfold decodeRaw
  rw [fOp_mkA]
  change decAmo _ = _
  simp [decAmo]

theorem RoundTrip.amominn (x0 x1 x2 x3 x4 x5 x6) : RoundTrip.Statement (.amominn x0 x1 x2 x3 x4 x5 x6) := by
  intro h
  refine decode_of_raw ?_ h
  change decodeRaw (mkA _ _ _ _ _ _ _ _ _) = _
  unfold decodeRaw
  rw [fOp_mkA]
  change decAmo _ = _
  simp [decAmo]

theorem RoundTrip.amomaxn (x0 x1 x2 x3 x4 x5 x6) : RoundTrip.Statement (.amomaxn x0 x1 x2 x3 x4 x5 x6) := by
  intro h
  refine decode_of_raw ?_ h
  change decodeRaw (mkA _ _ _ _ _ _ _ _ _) = _
  unfold decodeRaw
  rw [fOp_mkA]
  change decAmo _ = _
  simp [decAmo]

theorem RoundTrip.amoswap (x0 x1 x2 x3 x4 x5 x6) : RoundTrip.Statement (.amoswap x0 x1 x2 x3 x4 x5 x6) := by
  intro h
  refine decode_of_raw ?_ h
  change decodeRaw (mkA _ _ _ _ _ _ _ _ _) = _
  unfold decodeRaw
  rw [fOp_mkA]
  change decAmo _ = _
  simp [decAmo]

theorem RoundTrip.amocas (x0 x1 x2 x3 x4 x5 x6) : RoundTrip.Statement (.amocas x0 x1 x2 x3 x4 x5 x6) := by
  intro h
  refine decode_of_raw ?_ h
  change decodeRaw (mkA _ _ _ _ _ _ _ _ _) = _
  unfold decodeRaw
  rw [fOp_mkA]
  change decAmo _ = _
  simp [decAmo]

theorem RoundTrip.amofadd (x0 x1 x2 x3 x4 x5 x6) : RoundTrip.Statement (.amofadd x0 x1 x2 x3 x4 x5 x6) := by
  intro h
  refine decode_of_raw ?_ h
  change decodeRaw (mkA _ _ _ _ _ _ _ _ _) = _
  unfold decodeRaw
  rw [fOp_mkA]
  change decAmo _ = _
  simp [decAmo]

theorem RoundTrip.vfadd (x0 x1 x2 x3 x4 x5) : RoundTrip.Statement (.vfadd x0 x1 x2 x3 x4 x5) := by
  intro h
  refine decode_of_raw ?_ h
  change decodeRaw (mkR _ _ _ _ _ _ _) = _
  unfold decodeRaw
  rw [fOp_mkR]
  change decVfRm _ = _
  simp [decVfRm, decIf]

theorem RoundTrip.vfsub (x0 x1 x2 x3 x4 x5) : RoundTrip.Statement (.vfsub x0 x1 x2 x3 x4 x5) := by
  intro h
  refine decode_of_raw ?_ h
  change decodeRaw (mkR _ _ _ _ _ _ _) = _
  unfold decodeRaw
  rw [fOp_mkR]
  change decVfRm _ = _
  simp [decVfRm, decIf]

theorem RoundTrip.vfmul (x0 x1 x2 x3 x4 x5) : RoundTrip.Statement (.vfmul x0 x1 x2 x3 x4 x5) := by
  intro h
  refine decode_of_raw ?_ h
  change decodeRaw (mkR _ _ _ _ _ _ _) = _
  unfold decodeRaw
  rw [fOp_mkR]
  change decVfRm _ = _
  simp [decVfRm, decIf]

theorem RoundTrip.vfdiv (x0 x1 x2 x3 x4 x5) : RoundTrip.Statement (.vfdiv x0 x1 x2 x3 x4 x5) := by
  intro h
  refine decode_of_raw ?_ h
  change decodeRaw (mkR _ _ _ _ _ _ _) = _
  unfold decodeRaw
  rw [fOp_mkR]
  change decVfRm _ = _
  simp [decVfRm, decIf]

theorem RoundTrip.vfsqrt (x0 x1 x2 x3) : RoundTrip.Statement (.vfsqrt x0 x1 x2 x3) := by
  intro h
  refine decode_of_raw ?_ h
  change decodeRaw (mkR _ _ _ _ _ _ _) = _
  unfold decodeRaw
  rw [fOp_mkR]
  change decVfRm _ = _
  simp [decVfRm, decIf]

theorem RoundTrip.vfma (x0 x1 x2 x3 x4 x5) : RoundTrip.Statement (.vfma x0 x1 x2 x3 x4 x5) := by
  intro h
  refine decode_of_raw ?_ h
  change decodeRaw (mkR _ _ _ _ _ _ _) = _
  unfold decodeRaw
  rw [fOp_mkR]
  change decVfRm _ = _
  simp [decVfRm, decIf]

theorem RoundTrip.vfms (x0 x1 x2 x3 x4 x5) : RoundTrip.Statement (.vfms x0 x1 x2 x3 x4 x5) := by
  intro h
  refine decode_of_raw ?_ h
  change decodeRaw (mkR _ _ _ _ _ _ _) = _
  unfold decodeRaw
  rw [fOp_mkR]
  change decVfRm _ = _
  simp [decVfRm, decIf]

theorem RoundTrip.vfnma (x0 x1 x2 x3 x4 x5) : RoundTrip.Statement (.vfnma x0 x1 x2 x3 x4 x5) := by
  intro h
  refine decode_of_raw ?_ h
  change decodeRaw (mkR _ _ _ _ _ _ _) = _
  unfold decodeRaw
  rw [fOp_mkR]
  change decVfRm _ = _
  simp [decVfRm, decIf]

theorem RoundTrip.vfnms (x0 x1 x2 x3 x4 x5) : RoundTrip.Statement (.vfnms x0 x1 x2 x3 x4 x5) := by
  intro h
  refine decode_of_raw ?_ h
  change decodeRaw (mkR _ _ _ _ _ _ _) = _
  unfold decodeRaw
  rw [fOp_mkR]
  change decVfRm _ = _
  simp [decVfRm, decIf]

theorem RoundTrip.vfmin (x0 x1 x2 x3 x4) : RoundTrip.Statement (.vfmin x0 x1 x2 x3 x4) := by
  intro h
  refine decode_of_raw ?_ h
  change decodeRaw (mkR _ _ _ _ _ _ _) = _
  unfold decodeRaw
  rw [fOp_mkR]
  change decV _ = _
  simp [decV, decIf]

theorem RoundTrip.vfmax (x0 x1 x2 x3 x4) : RoundTrip.Statement (.vfmax x0 x1 x2 x3 x4) := by
  intro h
  refine decode_of_raw ?_ h
  change decodeRaw (mkR _ _ _ _ _ _ _) = _
  unfold decodeRaw
  rw [fOp_mkR]
  change decV _ = _
  simp [decV, decIf]

theorem RoundTrip.vfabs (x0 x1 x2) : RoundTrip.Statement (.vfabs x0 x1 x2) := by
  intro h
  refine decode_of_raw ?_ h
  change decodeRaw (mkR _ _ _ _ _ _ _) = _
  unfold decodeRaw
  rw [fOp_mkR]
  change decV _ = _
  simp [decV, decIf]

theorem RoundTrip.vfneg (x0 x1 x2) : RoundTrip.Statement (.vfneg x0 x1 x2) := by
  intro h
  refine decode_of_raw ?_ h
  change decodeRaw (mkR _ _ _ _ _ _ _) = _
  unfold decodeRaw
  rw [fOp_mkR]
  change decV _ = _
  simp [decV, decIf]

theorem RoundTrip.vfrcp (x0 x1 x2 x3) : RoundTrip.Statement (.vfrcp x0 x1 x2 x3) := by
  intro h
  refine decode_of_raw ?_ h
  change decodeRaw (mkR _ _ _ _ _ _ _) = _
  unfold decodeRaw
  rw [fOp_mkR]
  change decVfRm _ = _
  simp [decVfRm, decIf]

theorem RoundTrip.vfrsq (x0 x1 x2 x3) : RoundTrip.Statement (.vfrsq x0 x1 x2 x3) := by
  intro h
  refine decode_of_raw ?_ h
  change decodeRaw (mkR _ _ _ _ _ _ _) = _
  unfold decodeRaw
  rw [fOp_mkR]
  change decVfRm _ = _
  simp [decVfRm, decIf]

theorem RoundTrip.vfcmp (x0 x1 x2 x3 x4 x5) : RoundTrip.Statement (.vfcmp x0 x1 x2 x3 x4 x5) := by
  intro h
  refine decode_of_raw ?_ h
  change decodeRaw (mkR _ _ _ _ _ _ _) = _
  unfold decodeRaw
  rw [fOp_mkR]
  change decV _ = _
  simp [decV, decIf]

theorem RoundTrip.vadd (x0 x1 x2 x3 x4) : RoundTrip.Statement (.vadd x0 x1 x2 x3 x4) := by
  intro h
  refine decode_of_raw ?_ h
  change decodeRaw (mkR _ _ _ _ _ _ _) = _
  unfold decodeRaw
  rw [fOp_mkR]
  change decV _ = _
  simp [decV, decIf]

theorem RoundTrip.vsub (x0 x1 x2 x3 x4) : RoundTrip.Statement (.vsub x0 x1 x2 x3 x4) := by
  intro h
  refine decode_of_raw ?_ h
  change decodeRaw (mkR _ _ _ _ _ _ _) = _
  unfold decodeRaw
  rw [fOp_mkR]
  change decV _ = _
  simp [decV, decIf]

theorem RoundTrip.vmul (x0 x1 x2 x3 x4) : RoundTrip.Statement (.vmul x0 x1 x2 x3 x4) := by
  intro h
  refine decode_of_raw ?_ h
  change decodeRaw (mkR _ _ _ _ _ _ _) = _
  unfold decodeRaw
  rw [fOp_mkR]
  change decV _ = _
  simp [decV, decIf]

theorem RoundTrip.vmulh (x0 x1 x2 x3 x4) : RoundTrip.Statement (.vmulh x0 x1 x2 x3 x4) := by
  intro h
  refine decode_of_raw ?_ h
  change decodeRaw (mkR _ _ _ _ _ _ _) = _
  unfold decodeRaw
  rw [fOp_mkR]
  change decV _ = _
  simp [decV, decIf]

theorem RoundTrip.vand (x0 x1 x2 x3 x4) : RoundTrip.Statement (.vand x0 x1 x2 x3 x4) := by
  intro h
  refine decode_of_raw ?_ h
  change decodeRaw (mkR _ _ _ _ _ _ _) = _
  unfold decodeRaw
  rw [fOp_mkR]
  change decV _ = _
  simp [decV, decIf]

theorem RoundTrip.vor (x0 x1 x2 x3 x4) : RoundTrip.Statement (.vor x0 x1 x2 x3 x4) := by
  intro h
  refine decode_of_raw ?_ h
  change decodeRaw (mkR _ _ _ _ _ _ _) = _
  unfold decodeRaw
  rw [fOp_mkR]
  change decV _ = _
  simp [decV, decIf]

theorem RoundTrip.vxor (x0 x1 x2 x3 x4) : RoundTrip.Statement (.vxor x0 x1 x2 x3 x4) := by
  intro h
  refine decode_of_raw ?_ h
  change decodeRaw (mkR _ _ _ _ _ _ _) = _
  unfold decodeRaw
  rw [fOp_mkR]
  change decV _ = _
  simp [decV, decIf]

theorem RoundTrip.vsll (x0 x1 x2 x3 x4) : RoundTrip.Statement (.vsll x0 x1 x2 x3 x4) := by
  intro h
  refine decode_of_raw ?_ h
  change decodeRaw (mkR _ _ _ _ _ _ _) = _
  unfold decodeRaw
  rw [fOp_mkR]
  change decV _ = _
  simp [decV, decIf]

theorem RoundTrip.vsrl (x0 x1 x2 x3 x4) : RoundTrip.Statement (.vsrl x0 x1 x2 x3 x4) := by
  intro h
  refine decode_of_raw ?_ h
  change decodeRaw (mkR _ _ _ _ _ _ _) = _
  unfold decodeRaw
  rw [fOp_mkR]
  change decV _ = _
  simp [decV, decIf]

theorem RoundTrip.vsra (x0 x1 x2 x3 x4) : RoundTrip.Statement (.vsra x0 x1 x2 x3 x4) := by
  intro h
  refine decode_of_raw ?_ h
  change decodeRaw (mkR _ _ _ _ _ _ _) = _
  unfold decodeRaw
  rw [fOp_mkR]
  change decV _ = _
  simp [decV, decIf]

theorem RoundTrip.vmin (x0 x1 x2 x3 x4) : RoundTrip.Statement (.vmin x0 x1 x2 x3 x4) := by
  intro h
  refine decode_of_raw ?_ h
  change decodeRaw (mkR _ _ _ _ _ _ _) = _
  unfold decodeRaw
  rw [fOp_mkR]
  change decV _ = _
  simp [decV, decIf]

theorem RoundTrip.vmax (x0 x1 x2 x3 x4) : RoundTrip.Statement (.vmax x0 x1 x2 x3 x4) := by
  intro h
  refine decode_of_raw ?_ h
  change decodeRaw (mkR _ _ _ _ _ _ _) = _
  unfold decodeRaw
  rw [fOp_mkR]
  change decV _ = _
  simp [decV, decIf]

theorem RoundTrip.vminn (x0 x1 x2 x3 x4) : RoundTrip.Statement (.vminn x0 x1 x2 x3 x4) := by
  intro h
  refine decode_of_raw ?_ h
  change decodeRaw (mkR _ _ _ _ _ _ _) = _
  unfold decodeRaw
  rw [fOp_mkR]
  change decV _ = _
  simp [decV, decIf]

theorem RoundTrip.vmaxn (x0 x1 x2 x3 x4) : RoundTrip.Statement (.vmaxn x0 x1 x2 x3 x4) := by
  intro h
  refine decode_of_raw ?_ h
  change decodeRaw (mkR _ _ _ _ _ _ _) = _
  unfold decodeRaw
  rw [fOp_mkR]
  change decV _ = _
  simp [decV, decIf]

theorem RoundTrip.vcmp (x0 x1 x2 x3 x4 x5) : RoundTrip.Statement (.vcmp x0 x1 x2 x3 x4 x5) := by
  intro h
  refine decode_of_raw ?_ h
  change decodeRaw (mkR _ _ _ _ _ _ _) = _
  unfold decodeRaw
  rw [fOp_mkR]
  change decV _ = _
  simp [decV, decIf]

theorem RoundTrip.vcvt (x0 x1 x2 x3 x4) : RoundTrip.Statement (.vcvt x0 x1 x2 x3 x4) := by
  intro h
  refine decode_of_raw ?_ h
  change decodeRaw (mkR _ _ _ _ _ _ _) = _
  unfold decodeRaw
  rw [fOp_mkR]
  change decVcvt _ = _
  simp [decVcvt, decIf]

theorem RoundTrip.vmv (x0 x1 x2) : RoundTrip.Statement (.vmv x0 x1 x2) := by
  intro h
  refine decode_of_raw ?_ h
  change decodeRaw (mkR _ _ _ _ _ _ _) = _
  unfold decodeRaw
  rw [fOp_mkR]
  change decV _ = _
  simp [decV, decIf]

theorem RoundTrip.vbcast (x0 x1 x2 x3) : RoundTrip.Statement (.vbcast x0 x1 x2 x3) := by
  intro h
  refine decode_of_raw ?_ h
  change decodeRaw (mkR _ _ _ _ _ _ _) = _
  unfold decodeRaw
  rw [fOp_mkR]
  change decV _ = _
  simp [decV, decIf]

theorem RoundTrip.vmerge (x0 x1 x2 x3 x4) : RoundTrip.Statement (.vmerge x0 x1 x2 x3 x4) := by
  intro h
  refine decode_of_raw ?_ h
  change decodeRaw (mkR _ _ _ _ _ _ _) = _
  unfold decodeRaw
  rw [fOp_mkR]
  change decV _ = _
  simp [decV, decIf]

theorem RoundTrip.vslideup (x0 x1 x2 x3 x4) : RoundTrip.Statement (.vslideup x0 x1 x2 x3 x4) := by
  intro h
  refine decode_of_raw ?_ h
  change decodeRaw (mkR _ _ _ _ _ _ _) = _
  unfold decodeRaw
  rw [fOp_mkR]
  change decV _ = _
  simp [decV, decIf]

theorem RoundTrip.vslidedn (x0 x1 x2 x3 x4) : RoundTrip.Statement (.vslidedn x0 x1 x2 x3 x4) := by
  intro h
  refine decode_of_raw ?_ h
  change decodeRaw (mkR _ _ _ _ _ _ _) = _
  unfold decodeRaw
  rw [fOp_mkR]
  change decV _ = _
  simp [decV, decIf]

theorem RoundTrip.vperm (x0 x1 x2 x3) : RoundTrip.Statement (.vperm x0 x1 x2 x3) := by
  intro h
  refine decode_of_raw ?_ h
  change decodeRaw (mkR _ _ _ _ _ _ _) = _
  unfold decodeRaw
  rw [fOp_mkR]
  change decV _ = _
  simp [decV, decIf]

theorem RoundTrip.vcomp (x0 x1 x2) : RoundTrip.Statement (.vcomp x0 x1 x2) := by
  intro h
  refine decode_of_raw ?_ h
  change decodeRaw (mkR _ _ _ _ _ _ _) = _
  unfold decodeRaw
  rw [fOp_mkR]
  change decV _ = _
  simp [decV, decIf]

theorem RoundTrip.vexpd (x0 x1 x2) : RoundTrip.Statement (.vexpd x0 x1 x2) := by
  intro h
  refine decode_of_raw ?_ h
  change decodeRaw (mkR _ _ _ _ _ _ _) = _
  unfold decodeRaw
  rw [fOp_mkR]
  change decV _ = _
  simp [decV, decIf]

theorem RoundTrip.vextr (x0 x1 x2 x3) : RoundTrip.Statement (.vextr x0 x1 x2 x3) := by
  intro h
  refine decode_of_raw ?_ h
  change decodeRaw (mkR _ _ _ _ _ _ _) = _
  unfold decodeRaw
  rw [fOp_mkR]
  change decV _ = _
  simp [decV, decIf]

theorem RoundTrip.vins (x0 x1 x2 x3) : RoundTrip.Statement (.vins x0 x1 x2 x3) := by
  intro h
  refine decode_of_raw ?_ h
  change decodeRaw (mkR _ _ _ _ _ _ _) = _
  unfold decodeRaw
  rw [fOp_mkR]
  change decV _ = _
  simp [decV, decIf]

theorem RoundTrip.viota (x0 x1) : RoundTrip.Statement (.viota x0 x1) := by
  intro h
  refine decode_of_raw ?_ h
  change decodeRaw (mkR _ _ _ _ _ _ _) = _
  unfold decodeRaw
  rw [fOp_mkR]
  change decV _ = _
  simp [decV, decIf]

theorem RoundTrip.vredsum (x0 x1 x2 x3) : RoundTrip.Statement (.vredsum x0 x1 x2 x3) := by
  intro h
  refine decode_of_raw ?_ h
  change decodeRaw (mkR _ _ _ _ _ _ _) = _
  unfold decodeRaw
  rw [fOp_mkR]
  change decVfRm _ = _
  simp [decVfRm, decIf]

theorem RoundTrip.vredtree (x0 x1 x2 x3) : RoundTrip.Statement (.vredtree x0 x1 x2 x3) := by
  intro h
  refine decode_of_raw ?_ h
  change decodeRaw (mkR _ _ _ _ _ _ _) = _
  unfold decodeRaw
  rw [fOp_mkR]
  change decVfRm _ = _
  simp [decVfRm, decIf]

theorem RoundTrip.vredmax (x0 x1 x2) : RoundTrip.Statement (.vredmax x0 x1 x2) := by
  intro h
  refine decode_of_raw ?_ h
  change decodeRaw (mkR _ _ _ _ _ _ _) = _
  unfold decodeRaw
  rw [fOp_mkR]
  change decV _ = _
  simp [decV, decIf]

theorem RoundTrip.vredmin (x0 x1 x2) : RoundTrip.Statement (.vredmin x0 x1 x2) := by
  intro h
  refine decode_of_raw ?_ h
  change decodeRaw (mkR _ _ _ _ _ _ _) = _
  unfold decodeRaw
  rw [fOp_mkR]
  change decV _ = _
  simp [decV, decIf]

theorem RoundTrip.vscan (x0 x1 x2 x3) : RoundTrip.Statement (.vscan x0 x1 x2 x3) := by
  intro h
  refine decode_of_raw ?_ h
  change decodeRaw (mkR _ _ _ _ _ _ _) = _
  unfold decodeRaw
  rw [fOp_mkR]
  change decVfRm _ = _
  simp [decVfRm, decIf]

theorem RoundTrip.pand (x0 x1 x2) : RoundTrip.Statement (.pand x0 x1 x2) := by
  intro h
  refine decode_of_raw ?_ h
  change decodeRaw (mkP _ _ _ _ _) = _
  unfold decodeRaw
  rw [fOp_mkP]
  change decPred _ = _
  simp [decPred]

theorem RoundTrip.por (x0 x1 x2) : RoundTrip.Statement (.por x0 x1 x2) := by
  intro h
  refine decode_of_raw ?_ h
  change decodeRaw (mkP _ _ _ _ _) = _
  unfold decodeRaw
  rw [fOp_mkP]
  change decPred _ = _
  simp [decPred]

theorem RoundTrip.pxor (x0 x1 x2) : RoundTrip.Statement (.pxor x0 x1 x2) := by
  intro h
  refine decode_of_raw ?_ h
  change decodeRaw (mkP _ _ _ _ _) = _
  unfold decodeRaw
  rw [fOp_mkP]
  change decPred _ = _
  simp [decPred]

theorem RoundTrip.pandn (x0 x1 x2) : RoundTrip.Statement (.pandn x0 x1 x2) := by
  intro h
  refine decode_of_raw ?_ h
  change decodeRaw (mkP _ _ _ _ _) = _
  unfold decodeRaw
  rw [fOp_mkP]
  change decPred _ = _
  simp [decPred]

theorem RoundTrip.pnot (x0 x1) : RoundTrip.Statement (.pnot x0 x1) := by
  intro h
  refine decode_of_raw ?_ h
  change decodeRaw (mkP _ _ _ _ _) = _
  unfold decodeRaw
  rw [fOp_mkP]
  change decPred _ = _
  simp [decPred, decIf]

theorem RoundTrip.pcnt (x0 x1) : RoundTrip.Statement (.pcnt x0 x1) := by
  intro h
  refine decode_of_raw ?_ h
  change decodeRaw (mkP _ _ _ _ _) = _
  unfold decodeRaw
  rw [fOp_mkP]
  change decPred _ = _
  simp [decPred, decIf]

theorem RoundTrip.pfirst (x0 x1) : RoundTrip.Statement (.pfirst x0 x1) := by
  intro h
  refine decode_of_raw ?_ h
  change decodeRaw (mkP _ _ _ _ _) = _
  unfold decodeRaw
  rw [fOp_mkP]
  change decPred _ = _
  simp [decPred, decIf]

theorem RoundTrip.pset (x0) : RoundTrip.Statement (.pset x0) := by
  intro h
  refine decode_of_raw ?_ h
  change decodeRaw (mkP _ _ _ _ _) = _
  unfold decodeRaw
  rw [fOp_mkP]
  change decPred _ = _
  simp [decPred, decIf]

theorem RoundTrip.pclr (x0) : RoundTrip.Statement (.pclr x0) := by
  intro h
  refine decode_of_raw ?_ h
  change decodeRaw (mkP _ _ _ _ _) = _
  unfold decodeRaw
  rw [fOp_mkP]
  change decPred _ = _
  simp [decPred, decIf]

theorem RoundTrip.pmov (x0 x1) : RoundTrip.Statement (.pmov x0 x1) := by
  intro h
  refine decode_of_raw ?_ h
  change decodeRaw (mkP _ _ _ _ _) = _
  unfold decodeRaw
  rw [fOp_mkP]
  change decPred _ = _
  simp [decPred, decIf]

theorem RoundTrip.vpsplit (x0 x1 x2 x3 x4) : RoundTrip.Statement (.vpsplit x0 x1 x2 x3 x4) := by
  intro h
  refine decode_of_raw ?_ h
  change decodeRaw (mkR _ _ _ _ _ _ _) = _
  unfold decodeRaw
  rw [fOp_mkR]
  change decPlane _ = _
  unfold decPlane
  erw [fBit4_plane, fN_plane, fLow2_plane]
  simp [decIf]

theorem RoundTrip.vpjoin (x0 x1 x2 x3 x4) : RoundTrip.Statement (.vpjoin x0 x1 x2 x3 x4) := by
  intro h
  refine decode_of_raw ?_ h
  change decodeRaw (mkR _ _ _ _ _ _ _) = _
  unfold decodeRaw
  rw [fOp_mkR]
  change decPlane _ = _
  unfold decPlane
  erw [fBit4_plane, fN_plane, fLow2_plane]
  simp [decIf]

theorem RoundTrip.vptrunc (x0 x1 x2 x3 x4) : RoundTrip.Statement (.vptrunc x0 x1 x2 x3 x4) := by
  intro h
  refine decode_of_raw ?_ h
  change decodeRaw (mkR _ _ _ _ _ _ _) = _
  unfold decodeRaw
  rw [fOp_mkR]
  change decPlane _ = _
  unfold decPlane
  erw [fBit4_plane, fN_plane, fLow2_plane]
  simp [decIf]

theorem RoundTrip.vprnd (x0 x1 x2 x3 x4) : RoundTrip.Statement (.vprnd x0 x1 x2 x3 x4) := by
  intro h
  refine decode_of_raw ?_ h
  change decodeRaw (mkR _ _ _ _ _ _ _) = _
  unfold decodeRaw
  rw [fOp_mkR]
  change decPlane _ = _
  unfold decPlane
  erw [fBit4_plane, fN_plane, fLow2_plane]
  simp [decIf]

theorem RoundTrip.vqmx (x0 x1 x2) : RoundTrip.Statement (.vqmx x0 x1 x2) := by
  intro h
  refine decode_of_raw ?_ h
  change decodeRaw (mkR _ _ _ _ _ _ _) = _
  unfold decodeRaw
  rw [fOp_mkR]
  change decMx _ = _
  simp [decMx, decIf]

theorem RoundTrip.vdqmx (x0 x1 x2 x3) : RoundTrip.Statement (.vdqmx x0 x1 x2 x3) := by
  intro h
  refine decode_of_raw ?_ h
  change decodeRaw (mkR _ _ _ _ _ _ _) = _
  unfold decodeRaw
  rw [fOp_mkR]
  change decMx _ = _
  simp [decMx, decIf]

theorem RoundTrip.vpacc (x0 x1 x2 x3) : RoundTrip.Statement (.vpacc x0 x1 x2 x3) := by
  intro h
  refine decode_of_raw ?_ h
  change decodeRaw (mkR _ _ _ _ _ _ _) = _
  unfold decodeRaw
  rw [fOp_mkR]
  change decOpt _ = _
  simp [decOpt, decIf]

theorem RoundTrip.vadamw (x0 x1 x2 x3) : RoundTrip.Statement (.vadamw x0 x1 x2 x3) := by
  intro h
  refine decode_of_raw ?_ h
  change decodeRaw (mkR _ _ _ _ _ _ _) = _
  unfold decodeRaw
  rw [fOp_mkR]
  change decOpt _ = _
  simp [decOpt, decIf]

theorem RoundTrip.vsgdm (x0 x1 x2 x3) : RoundTrip.Statement (.vsgdm x0 x1 x2 x3) := by
  intro h
  refine decode_of_raw ?_ h
  change decodeRaw (mkR _ _ _ _ _ _ _) = _
  unfold decodeRaw
  rw [fOp_mkR]
  change decOpt _ = _
  simp [decOpt, decIf]

theorem RoundTrip.mma (x0 x1 x2 x3 x4) : RoundTrip.Statement (.mma x0 x1 x2 x3 x4) := by
  intro h
  refine decode_of_raw ?_ h
  change decodeRaw (mkR _ _ _ _ _ _ _) = _
  unfold decodeRaw
  rw [fOp_mkR]
  change decMma _ = _
  simp [decMma, decIf]

theorem RoundTrip.mmap (x0 x1 x2 x3) : RoundTrip.Statement (.mmap x0 x1 x2 x3) := by
  intro h
  refine decode_of_raw ?_ h
  change decodeRaw (mkR _ _ _ _ _ _ _) = _
  unfold decodeRaw
  rw [fOp_mkR]
  change (decIf (fFM (mkR _ _ _ _ _ _ _) == 0 && fFN (mkR _ _ _ _ _ _ _) == 9) (.mmap (fD (mkR _ _ _ _ _ _ _)) (fA (mkR _ _ _ _ _ _ _)) (fB (mkR _ _ _ _ _ _ _)) (fPG (mkR _ _ _ _ _ _ _))) : Option Instr) = _
  simp [decIf]

theorem RoundTrip.mmaz (x0 x1) : RoundTrip.Statement (.mmaz x0 x1) := by
  intro h
  refine decode_of_raw ?_ h
  change decodeRaw (mkR _ _ _ _ _ _ _) = _
  unfold decodeRaw
  rw [fOp_mkR]
  change decMz _ = _
  simp [decMz, decIf]

theorem RoundTrip.mtrans (x0 x1 x2) : RoundTrip.Statement (.mtrans x0 x1 x2) := by
  intro h
  refine decode_of_raw ?_ h
  change decodeRaw (mkR _ _ _ _ _ _ _) = _
  unfold decodeRaw
  rw [fOp_mkR]
  change decMz _ = _
  simp [decMz, decIf]

theorem RoundTrip.psnget (x0) : RoundTrip.Statement (.psnget x0) := by
  intro h
  refine decode_of_raw ?_ h
  change decodeRaw (mkR _ _ _ _ _ _ _) = _
  unfold decodeRaw
  rw [fOp_mkR]
  change decPsn _ = _
  simp [decPsn, decIf, plain]

theorem RoundTrip.psnclr : RoundTrip.Statement .psnclr := by
  intro h
  refine decode_of_raw ?_ h
  change decodeRaw (mkR _ _ _ _ _ _ _) = _
  unfold decodeRaw
  rw [fOp_mkR]
  change decPsn _ = _
  simp [decPsn, decIf, plain]

theorem RoundTrip.cpy (x0 x1) : RoundTrip.Statement (.cpy x0 x1) := by
  intro h
  refine decode_of_raw ?_ h
  change decodeRaw (mkR _ _ _ _ _ _ _) = _
  unfold decodeRaw
  rw [fOp_mkR]
  change decCpy _ = _
  simp [decCpy, decIf, plain]

theorem RoundTrip.due (x0 x1) : RoundTrip.Statement (.due x0 x1) := by
  intro h
  refine decode_of_raw ?_ h
  change decodeRaw (mkR _ _ _ _ _ _ _) = _
  unfold decodeRaw
  rw [fOp_mkR]
  change decCpy _ = _
  simp [decCpy, decIf, plain]

theorem RoundTrip.waitd (x0) : RoundTrip.Statement (.waitd x0) := by
  intro h
  refine decode_of_raw ?_ h
  change decodeRaw (mkR _ _ _ _ _ _ _) = _
  unfold decodeRaw
  rw [fOp_mkR]
  change decCpy _ = _
  simp [decCpy, decIf, plain]

theorem RoundTrip.waith (x0 x1) : RoundTrip.Statement (.waith x0 x1) := by
  intro h
  refine decode_of_raw ?_ h
  change decodeRaw (mkR _ _ _ _ _ _ _) = _
  unfold decodeRaw
  rw [fOp_mkR]
  change decCpy _ = _
  simp [decCpy, decIf, plain]

theorem RoundTrip.cpyst (x0 x1) : RoundTrip.Statement (.cpyst x0 x1) := by
  intro h
  refine decode_of_raw ?_ h
  change decodeRaw (mkR _ _ _ _ _ _ _) = _
  unfold decodeRaw
  rw [fOp_mkR]
  change decCpy _ = _
  simp [decCpy, decIf, plain]

theorem RoundTrip.abinit (x0 x1 x2) : RoundTrip.Statement (.abinit x0 x1 x2) := by
  intro h
  refine decode_of_raw ?_ h
  change decodeRaw (mkR _ _ _ _ _ _ _) = _
  unfold decodeRaw
  rw [fOp_mkR]
  change decAb _ = _
  simp [decAb, decIf, plain]

theorem RoundTrip.waitab (x0 x1) : RoundTrip.Statement (.waitab x0 x1) := by
  intro h
  refine decode_of_raw ?_ h
  change decodeRaw (mkR _ _ _ _ _ _ _) = _
  unfold decodeRaw
  rw [fOp_mkR]
  change decAb _ = _
  simp [decAb, decIf, plain]

theorem RoundTrip.mopen (x0 x1) : RoundTrip.Statement (.mopen x0 x1) := by
  intro h
  refine decode_of_raw ?_ h
  change decodeRaw (mkR _ _ _ _ _ _ _) = _
  unfold decodeRaw
  rw [fOp_mkR]
  change decMesh _ = _
  simp [decMesh, decIf, plain]

theorem RoundTrip.mnbr (x0 x1 x2) : RoundTrip.Statement (.mnbr x0 x1 x2) := by
  intro h
  refine decode_of_raw ?_ h
  change decodeRaw (mkR _ _ _ _ _ _ _) = _
  unfold decodeRaw
  rw [fOp_mkR]
  change decMesh _ = _
  simp [decMesh, decIf, plain]

theorem RoundTrip.mcell (x0 x1 x2) : RoundTrip.Statement (.mcell x0 x1 x2) := by
  intro h
  refine decode_of_raw ?_ h
  change decodeRaw (mkR _ _ _ _ _ _ _) = _
  unfold decodeRaw
  rw [fOp_mkR]
  change decMesh _ = _
  simp [decMesh, decIf, plain]

theorem RoundTrip.mmark (x0 x1) : RoundTrip.Statement (.mmark x0 x1) := by
  intro h
  refine decode_of_raw ?_ h
  change decodeRaw (mkR _ _ _ _ _ _ _) = _
  unfold decodeRaw
  rw [fOp_mkR]
  change decMesh _ = _
  simp [decMesh, decIf, plain]

theorem RoundTrip.madapt (x0 x1 x2) : RoundTrip.Statement (.madapt x0 x1 x2) := by
  intro h
  refine decode_of_raw ?_ h
  change decodeRaw (mkR _ _ _ _ _ _ _) = _
  unfold decodeRaw
  rw [fOp_mkR]
  change decMesh _ = _
  simp [decMesh, decIf, plain]

theorem RoundTrip.mcut (x0 x1 x2) : RoundTrip.Statement (.mcut x0 x1 x2) := by
  intro h
  refine decode_of_raw ?_ h
  change decodeRaw (mkR _ _ _ _ _ _ _) = _
  unfold decodeRaw
  rw [fOp_mkR]
  change decMesh _ = _
  simp [decMesh, decIf, plain]

theorem RoundTrip.mmig (x0 x1 x2) : RoundTrip.Statement (.mmig x0 x1 x2) := by
  intro h
  refine decode_of_raw ?_ h
  change decodeRaw (mkR _ _ _ _ _ _ _) = _
  unfold decodeRaw
  rw [fOp_mkR]
  change decMesh _ = _
  simp [decMesh, decIf, plain]

theorem RoundTrip.mhalo (x0 x1 x2) : RoundTrip.Statement (.mhalo x0 x1 x2) := by
  intro h
  refine decode_of_raw ?_ h
  change decodeRaw (mkR _ _ _ _ _ _ _) = _
  unfold decodeRaw
  rw [fOp_mkR]
  change decMesh _ = _
  simp [decMesh, decIf, plain]

theorem RoundTrip.bhist (x0 x1) : RoundTrip.Statement (.bhist x0 x1) := by
  intro h
  refine decode_of_raw ?_ h
  change decodeRaw (mkR _ _ _ _ _ _ _) = _
  unfold decodeRaw
  rw [fOp_mkR]
  change decBaz _ = _
  simp [decBaz, decIf, plain]

theorem RoundTrip.bscan (x0 x1) : RoundTrip.Statement (.bscan x0 x1) := by
  intro h
  refine decode_of_raw ?_ h
  change decodeRaw (mkR _ _ _ _ _ _ _) = _
  unfold decodeRaw
  rw [fOp_mkR]
  change decBaz _ = _
  simp [decBaz, decIf, plain]

theorem RoundTrip.btopk (x0 x1) : RoundTrip.Statement (.btopk x0 x1) := by
  intro h
  refine decode_of_raw ?_ h
  change decodeRaw (mkR _ _ _ _ _ _ _) = _
  unfold decodeRaw
  rw [fOp_mkR]
  change decBaz _ = _
  simp [decBaz, decIf, plain]

theorem RoundTrip.broute (x0 x1) : RoundTrip.Statement (.broute x0 x1) := by
  intro h
  refine decode_of_raw ?_ h
  change decodeRaw (mkR _ _ _ _ _ _ _) = _
  unfold decodeRaw
  rw [fOp_mkR]
  change decBaz _ = _
  simp [decBaz, decIf, plain]

theorem RoundTrip.bcolor (x0 x1) : RoundTrip.Statement (.bcolor x0 x1) := by
  intro h
  refine decode_of_raw ?_ h
  change decodeRaw (mkR _ _ _ _ _ _ _) = _
  unfold decodeRaw
  rw [fOp_mkR]
  change decBaz _ = _
  simp [decBaz, decIf, plain]

theorem RoundTrip.bseg (x0 x1) : RoundTrip.Statement (.bseg x0 x1) := by
  intro h
  refine decode_of_raw ?_ h
  change decodeRaw (mkR _ _ _ _ _ _ _) = _
  unfold decodeRaw
  rw [fOp_mkR]
  change decBaz _ = _
  simp [decBaz, decIf, plain]

theorem RoundTrip.barw (x0) : RoundTrip.Statement (.barw x0) := by
  intro h
  refine decode_of_raw ?_ h
  change decodeRaw (mkR _ _ _ _ _ _ _) = _
  unfold decodeRaw
  rw [fOp_mkR]
  change decSync _ = _
  simp [decSync, decIf, plain]

theorem RoundTrip.bara : RoundTrip.Statement .bara := by
  intro h
  refine decode_of_raw ?_ h
  change decodeRaw (mkR _ _ _ _ _ _ _) = _
  unfold decodeRaw
  rw [fOp_mkR]
  change decSync _ = _
  simp [decSync, decIf, plain]

theorem RoundTrip.barq (x0) : RoundTrip.Statement (.barq x0) := by
  intro h
  refine decode_of_raw ?_ h
  change decodeRaw (mkR _ _ _ _ _ _ _) = _
  unfold decodeRaw
  rw [fOp_mkR]
  change decSync _ = _
  simp [decSync, decIf, plain]

theorem RoundTrip.sigw (x0 x1 x2) : RoundTrip.Statement (.sigw x0 x1 x2) := by
  intro h
  refine decode_of_raw ?_ h
  change decodeRaw (mkR _ _ _ _ _ _ _) = _
  unfold decodeRaw
  rw [fOp_mkR]
  change decSync _ = _
  simp [decSync, decIf, plain]

theorem RoundTrip.yield : RoundTrip.Statement .yield := by
  intro h
  refine decode_of_raw ?_ h
  change decodeRaw (mkR _ _ _ _ _ _ _) = _
  unfold decodeRaw
  rw [fOp_mkR]
  change decSync _ = _
  simp [decSync, decIf, plain]

theorem RoundTrip.launch (x0 x1) : RoundTrip.Statement (.launch x0 x1) := by
  intro h
  refine decode_of_raw ?_ h
  change decodeRaw (mkR _ _ _ _ _ _ _) = _
  unfold decodeRaw
  rw [fOp_mkR]
  change decLaunch _ = _
  simp [decLaunch, decIf, plain]

theorem RoundTrip.illegalWord (x0) : RoundTrip.Statement (.illegalWord x0) :=
  fun h => absurd h Bool.false_ne_true

theorem RoundTrip.qstall (x0 x1) : RoundTrip.Statement (.qstall x0 x1) :=
  fun h => absurd h Bool.false_ne_true

theorem RoundTrip.waittime (x0) : RoundTrip.Statement (.waittime x0) :=
  fun h => absurd h Bool.false_ne_true

theorem RoundTrip.waitEnd (x0) : RoundTrip.Statement (.waitEnd x0) :=
  fun h => absurd h Bool.false_ne_true

theorem RoundTrip.sigwRecheck (x0) : RoundTrip.Statement (.sigwRecheck x0) :=
  fun h => absurd h Bool.false_ne_true

theorem RoundTrip.overdue (x0) : RoundTrip.Statement (.overdue x0) :=
  fun h => absurd h Bool.false_ne_true

theorem RoundTrip.budgetExhausted (x0) : RoundTrip.Statement (.budgetExhausted x0) :=
  fun h => absurd h Bool.false_ne_true

theorem RoundTrip.budgetExtension (x0) : RoundTrip.Statement (.budgetExtension x0) :=
  fun h => absurd h Bool.false_ne_true

theorem RoundTrip.dispatcherDecision (x0 x1) : RoundTrip.Statement (.dispatcherDecision x0 x1) :=
  fun h => absurd h Bool.false_ne_true

theorem RoundTrip.forcedStop (x0) : RoundTrip.Statement (.forcedStop x0) :=
  fun h => absurd h Bool.false_ne_true

theorem RoundTrip.caravanSave (x0) : RoundTrip.Statement (.caravanSave x0) :=
  fun h => absurd h Bool.false_ne_true

theorem RoundTrip.saveImageWritten (x0) : RoundTrip.Statement (.saveImageWritten x0) :=
  fun h => absurd h Bool.false_ne_true

theorem RoundTrip.caravanRetire (x0) : RoundTrip.Statement (.caravanRetire x0) :=
  fun h => absurd h Bool.false_ne_true

theorem RoundTrip.sliceFailedEnd (x0) : RoundTrip.Statement (.sliceFailedEnd x0) :=
  fun h => absurd h Bool.false_ne_true

theorem RoundTrip.endReport (x0) : RoundTrip.Statement (.endReport x0) :=
  fun h => absurd h Bool.false_ne_true

theorem RoundTrip.copyChunkLanding (x0) : RoundTrip.Statement (.copyChunkLanding x0) :=
  fun h => absurd h Bool.false_ne_true

theorem RoundTrip.copyCompletion (x0) : RoundTrip.Statement (.copyCompletion x0) :=
  fun h => absurd h Bool.false_ne_true

theorem RoundTrip.linkFailure (x0) : RoundTrip.Statement (.linkFailure x0) :=
  fun h => absurd h Bool.false_ne_true

theorem RoundTrip.linkRetransmission (x0) : RoundTrip.Statement (.linkRetransmission x0) :=
  fun h => absurd h Bool.false_ne_true

theorem RoundTrip.remoteAccessRequest (x0) : RoundTrip.Statement (.remoteAccessRequest x0) :=
  fun h => absurd h Bool.false_ne_true

theorem RoundTrip.remoteRefusal (x0) : RoundTrip.Statement (.remoteRefusal x0) :=
  fun h => absurd h Bool.false_ne_true

theorem RoundTrip.mnbrEntryDelivery (x0) : RoundTrip.Statement (.mnbrEntryDelivery x0) :=
  fun h => absurd h Bool.false_ne_true

theorem RoundTrip.loadEntryArrival (x0 x1) : RoundTrip.Statement (.loadEntryArrival x0 x1) :=
  fun h => absurd h Bool.false_ne_true

theorem RoundTrip.storePerformed (x0 x1) : RoundTrip.Statement (.storePerformed x0 x1) :=
  fun h => absurd h Bool.false_ne_true

theorem RoundTrip.rdInvalidationAck (x0 x1) : RoundTrip.Statement (.rdInvalidationAck x0 x1) :=
  fun h => absurd h Bool.false_ne_true

theorem RoundTrip.topologyCommandCompletion (x0) : RoundTrip.Statement (.topologyCommandCompletion x0) :=
  fun h => absurd h Bool.false_ne_true

theorem RoundTrip.collectTimeout (x0 x1) : RoundTrip.Statement (.collectTimeout x0 x1) :=
  fun h => absurd h Bool.false_ne_true

theorem RoundTrip.generationCommit (x0 x1) : RoundTrip.Statement (.generationCommit x0 x1) :=
  fun h => absurd h Bool.false_ne_true

theorem RoundTrip.bazaarCommandCompletion (x0) : RoundTrip.Statement (.bazaarCommandCompletion x0) :=
  fun h => absurd h Bool.false_ne_true

theorem RoundTrip.hostDemand (x0 x1) : RoundTrip.Statement (.hostDemand x0 x1) :=
  fun h => absurd h Bool.false_ne_true

theorem RoundTrip.regionMoveComplete (x0 x1) : RoundTrip.Statement (.regionMoveComplete x0 x1) :=
  fun h => absurd h Bool.false_ne_true

theorem RoundTrip.submissionSlotRead (x0 x1 x2) : RoundTrip.Statement (.submissionSlotRead x0 x1 x2) :=
  fun h => absurd h Bool.false_ne_true

theorem RoundTrip.submissionEnd (x0) : RoundTrip.Statement (.submissionEnd x0) :=
  fun h => absurd h Bool.false_ne_true

theorem RoundTrip.nodeLaunch (x0 x1) : RoundTrip.Statement (.nodeLaunch x0 x1) :=
  fun h => absurd h Bool.false_ne_true

theorem RoundTrip.nodeCopy (x0) : RoundTrip.Statement (.nodeCopy x0) :=
  fun h => absurd h Bool.false_ne_true

theorem RoundTrip.nodeSignal (x0) : RoundTrip.Statement (.nodeSignal x0) :=
  fun h => absurd h Bool.false_ne_true

theorem RoundTrip.nodeWait (x0) : RoundTrip.Statement (.nodeWait x0) :=
  fun h => absurd h Bool.false_ne_true

theorem RoundTrip.nodeCond (x0) : RoundTrip.Statement (.nodeCond x0) :=
  fun h => absurd h Bool.false_ne_true

theorem RoundTrip.nodeLoop (x0) : RoundTrip.Statement (.nodeLoop x0) :=
  fun h => absurd h Bool.false_ne_true

theorem RoundTrip.nodeEnd (x0) : RoundTrip.Statement (.nodeEnd x0) :=
  fun h => absurd h Bool.false_ne_true

theorem RoundTrip.qtailWrite (x0 x1 x2) : RoundTrip.Statement (.qtailWrite x0 x1 x2) :=
  fun h => absurd h Bool.false_ne_true

theorem RoundTrip.qbaseWrite (x0 x1 x2) : RoundTrip.Statement (.qbaseWrite x0 x1 x2) :=
  fun h => absurd h Bool.false_ne_true

theorem RoundTrip.qsizeWrite (x0 x1 x2) : RoundTrip.Statement (.qsizeWrite x0 x1 x2) :=
  fun h => absurd h Bool.false_ne_true

theorem RoundTrip.ctxctlWrite (x0 x1) : RoundTrip.Statement (.ctxctlWrite x0 x1) :=
  fun h => absurd h Bool.false_ne_true

theorem RoundTrip.ctxrootWrite (x0 x1) : RoundTrip.Statement (.ctxrootWrite x0 x1) :=
  fun h => absurd h Bool.false_ne_true

theorem RoundTrip.featreqWrite (x0) : RoundTrip.Statement (.featreqWrite x0) :=
  fun h => absurd h Bool.false_ne_true

theorem RoundTrip.fwstageWrite (x0 x1) : RoundTrip.Statement (.fwstageWrite x0 x1) :=
  fun h => absurd h Bool.false_ne_true

theorem RoundTrip.fwReplacementComplete : RoundTrip.Statement .fwReplacementComplete :=
  fun h => absurd h Bool.false_ne_true

theorem RoundTrip.fwReplacementTimeout : RoundTrip.Statement .fwReplacementTimeout :=
  fun h => absurd h Bool.false_ne_true

theorem RoundTrip.dbgctlHaltreq (x0) : RoundTrip.Statement (.dbgctlHaltreq x0) :=
  fun h => absurd h Bool.false_ne_true

theorem RoundTrip.hartHalted (x0) : RoundTrip.Statement (.hartHalted x0) :=
  fun h => absurd h Bool.false_ne_true

theorem RoundTrip.dbgctlResume (x0) : RoundTrip.Statement (.dbgctlResume x0) :=
  fun h => absurd h Bool.false_ne_true

theorem RoundTrip.debugBlockAccess (x0 x1 x2) : RoundTrip.Statement (.debugBlockAccess x0 x1 x2) :=
  fun h => absurd h Bool.false_ne_true

theorem RoundTrip.queueIndexWordWrite (x0 x1 x2) : RoundTrip.Statement (.queueIndexWordWrite x0 x1 x2) :=
  fun h => absurd h Bool.false_ne_true

theorem RoundTrip.stickyClear (x0 x1) : RoundTrip.Statement (.stickyClear x0 x1) :=
  fun h => absurd h Bool.false_ne_true

theorem RoundTrip.registerWrite (x0 x1) : RoundTrip.Statement (.registerWrite x0 x1) :=
  fun h => absurd h Bool.false_ne_true

theorem RoundTrip.coreError (x0) : RoundTrip.Statement (.coreError x0) :=
  fun h => absurd h Bool.false_ne_true

theorem RoundTrip.warmReset (x0) : RoundTrip.Statement (.warmReset x0) :=
  fun h => absurd h Bool.false_ne_true

theorem RoundTrip.warmResetReady : RoundTrip.Statement .warmResetReady :=
  fun h => absurd h Bool.false_ne_true

theorem RoundTrip.wearAccrual (x0) : RoundTrip.Statement (.wearAccrual x0) :=
  fun h => absurd h Bool.false_ne_true

theorem RoundTrip.wearRecordSave : RoundTrip.Statement .wearRecordSave :=
  fun h => absurd h Bool.false_ne_true

theorem RoundTrip.coreFuse (x0) : RoundTrip.Statement (.coreFuse x0) :=
  fun h => absurd h Bool.false_ne_true

theorem RoundTrip.supplySag (x0) : RoundTrip.Statement (.supplySag x0) :=
  fun h => absurd h Bool.false_ne_true

theorem RoundTrip.supplyRecovery (x0) : RoundTrip.Statement (.supplyRecovery x0) :=
  fun h => absurd h Bool.false_ne_true

theorem RoundTrip.thermalThrottle (x0) : RoundTrip.Statement (.thermalThrottle x0) :=
  fun h => absurd h Bool.false_ne_true

theorem RoundTrip.thermalRecovery (x0) : RoundTrip.Statement (.thermalRecovery x0) :=
  fun h => absurd h Bool.false_ne_true

theorem RoundTrip.thermalShutdown : RoundTrip.Statement .thermalShutdown :=
  fun h => absurd h Bool.false_ne_true

theorem RoundTrip.coldReset (x0 x1) : RoundTrip.Statement (.coldReset x0 x1) :=
  fun h => absurd h Bool.false_ne_true

theorem RoundTrip.unitReady (x0) : RoundTrip.Statement (.unitReady x0) :=
  fun h => absurd h Bool.false_ne_true

theorem RoundTrip.unitFailure (x0) : RoundTrip.Statement (.unitFailure x0) :=
  fun h => absurd h Bool.false_ne_true

theorem RoundTrip.watchdogEndCaravan (x0) : RoundTrip.Statement (.watchdogEndCaravan x0) :=
  fun h => absurd h Bool.false_ne_true

theorem RoundTrip.watchdogEndSlice (x0) : RoundTrip.Statement (.watchdogEndSlice x0) :=
  fun h => absurd h Bool.false_ne_true

theorem RoundTrip.cpRestart : RoundTrip.Statement .cpRestart :=
  fun h => absurd h Bool.false_ne_true

theorem RoundTrip.dieQuiesce (x0) : RoundTrip.Statement (.dieQuiesce x0) :=
  fun h => absurd h Bool.false_ne_true

theorem RoundTrip.watchdogWarmReset (x0) : RoundTrip.Statement (.watchdogWarmReset x0) :=
  fun h => absurd h Bool.false_ne_true

theorem RoundTrip.coldResetRequest : RoundTrip.Statement .coldResetRequest :=
  fun h => absurd h Bool.false_ne_true

theorem RoundTrip.deviceNumberAssign (x0) : RoundTrip.Statement (.deviceNumberAssign x0) :=
  fun h => absurd h Bool.false_ne_true

theorem RoundTrip.getVersion (x0) : RoundTrip.Statement (.getVersion x0) :=
  fun h => absurd h Bool.false_ne_true

theorem RoundTrip.getCapabilities (x0) : RoundTrip.Statement (.getCapabilities x0) :=
  fun h => absurd h Bool.false_ne_true

theorem RoundTrip.negotiateAlgorithms (x0 x1 x2) : RoundTrip.Statement (.negotiateAlgorithms x0 x1 x2) :=
  fun h => absurd h Bool.false_ne_true

theorem RoundTrip.getDigests (x0) : RoundTrip.Statement (.getDigests x0) :=
  fun h => absurd h Bool.false_ne_true

theorem RoundTrip.getCertificate (x0 x1) : RoundTrip.Statement (.getCertificate x0 x1) :=
  fun h => absurd h Bool.false_ne_true

theorem RoundTrip.challenge (x0 x1) : RoundTrip.Statement (.challenge x0 x1) :=
  fun h => absurd h Bool.false_ne_true

theorem RoundTrip.getMeasurements (x0 x1) : RoundTrip.Statement (.getMeasurements x0 x1) :=
  fun h => absurd h Bool.false_ne_true

theorem RoundTrip.loadPerformed (x0) : RoundTrip.Statement (.loadPerformed x0) :=
  fun h => absurd h Bool.false_ne_true

theorem RoundTrip.powerLoss : RoundTrip.Statement .powerLoss :=
  fun h => absurd h Bool.false_ne_true

theorem RoundTrip.orderlyShutdown : RoundTrip.Statement .orderlyShutdown :=
  fun h => absurd h Bool.false_ne_true

theorem RoundTrip.nodeLimitExpired (x0) : RoundTrip.Statement (.nodeLimitExpired x0) :=
  fun h => absurd h Bool.false_ne_true

theorem RoundTrip.operatorRetireRequest (x0) : RoundTrip.Statement (.operatorRetireRequest x0) :=
  fun h => absurd h Bool.false_ne_true

end Sys2Proof.Laws
end

