-- ==== Sys2Proof/Tests/Slice0.lean ====
section
/-! SUPPORT. Checks of the model: decoding of words written out from the encoding tables of the spec, ill-formed
terms, single steps whose results the spec states, and for each statement states that meet its hypotheses. -/

namespace Sys2Proof.Tests
open Sys2Proof Sys2Proof.Machine
set_option Elab.async false

/-! ### States -/

/-- The first GiB of the demonstration context maps to the same addresses, readable and writable (R140). -/
def dataTable (m : List Host.Cell) : List Host.Cell := memPut m (keyHbm 0x110000) (whole (natBytes 0x17 8))

/-- Hart 0 of a caravan of one in the middle of a slice, on one of its sides, with registers a9 = 0x20000, a10 = 3, s9 = 7,
s10 = −2, s11 = 0, one lease of 4 KiB at 0x20000, a scratchpad of 4 KiB and a private area of 256 bytes. -/
def demo (sd : Side) : State :=
  let s := ((State.reset.withFetchWord 32 0).begin.actAs demoHart sd).modH (fun h =>
    { h with
      regs := { h.regs with a := (h.regs.a.set 9 0x20000).set 10 3, x := (h.regs.x.set 9 7).set 10 (-2) },
      a := { h.a with pc := 0x10000 }, x := { h.x with pc := 0x10000 },
      mem := { h.mem with spBytes := 4096, privSize := 256, leases := [⟨0x20000, 0x1000, false, false, false, true, true⟩] } })
  { s with mem := dataTable s.mem }

/-- The demonstration state with its hart changed. -/
def demoH (sd : Side) (f : Hart → Hart) : State := (demo sd).modH f

/-- The address of byte `o` of the demonstration hart's scratchpad (R24). -/
def spad (o : Nat) : Word := 0xF1#8 ++ 1#8 ++ 0#28 ++ BitVec.ofNat 20 o

/-- The demonstration state whose A-side registers 9 and 10 hold two values. -/
def demoA (x y : Word) (f : Hart → Hart := id) : State :=
  demoH .A (fun h => f { h with regs := { h.regs with a := (h.regs.a.set 9 x).set 10 y } })

/-- The demonstration state whose X-side registers 9 and 10 hold two values. -/
def demoX (x y : Word) (f : Hart → Hart := id) : State :=
  demoH .X (fun h => f { h with regs := { h.regs with x := (h.regs.x.set 9 x).set 10 y } })

/-- The state that a next state holds. -/
def after (o : Out) : State := match o with | .next t => t | _ => State.reset

/-- Bytes placed in memory. -/
def putBytes (s : State) (key : Nat) (bs : List Byte) : State := { s with mem := memPut s.mem key (whole bs) }

/-- `State.ready` as a test. -/
def rdy (s : State) (i : Instr) (fs : List Fld) (sd vd : Option Reg) : Bool :=
  s.illegalSub i == none && (s.own.side != .X || s.h.blocked fs sd vd == none) && s.unstepped

theorem ready_of_rdy {s : State} {i : Instr} {fs : List Fld} {sd vd : Option Reg} (h : rdy s i fs sd vd = true) :
    s.ready i fs sd vd := by
  simp only [rdy, Bool.and_eq_true, Bool.or_eq_true, beq_iff_eq, bne_iff_ne] at h
  exact ⟨h.1.1, fun hx => h.1.2.resolve_left (fun c => c hx), h.2⟩

/-- `State.reaches` as a test. -/
def reach (s : State) (g : Word) (n : Nat) (need : Need) : Bool :=
  match checkElem s s.own.cur g n need 0 with
  | .ok p => p.cls != 6 && p.rd.isNone && s.h.mem.pend.isEmpty && s.h.mem.pendLoad.isNone && !s.own.defer
  | .error _ => false

/-- The place that an access reaches. -/
def placeOf (s : State) (g : Word) (n : Nat) (need : Need) : Place :=
  match checkElem s s.own.cur g n need 0 with | .ok p => p | .error _ => default

theorem reaches_of_reach {s : State} {g : Word} {n : Nat} {need : Need} (h : reach s g n need = true) :
    s.reaches g n need (placeOf s g n need) := by
  unfold reach at h
  unfold State.reaches placeOf
  split at h
  · rename_i p hp
    simp only [hp, Bool.and_eq_true, bne_iff_ne, Option.isNone_iff_eq_none, List.isEmpty_iff, Bool.not_eq_true'] at h ⊢
    exact ⟨trivial, h.1.1.1.1, h.1.1.1.2, ⟨h.1.1.2, h.1.2⟩, h.2⟩
  · cases h

/-- `State.loadable` as a test. -/
def loadB (s : State) (i : Instr) (q : Reg) (w vl : Nat) (elt : Nat → Elt) : Bool :=
  s.illegalSub i == none && s.unstepped && s.h.a.vstart == 0 && (s.h.q.vload[qNo q]).resv.isNone && s.h.mem.pend.isEmpty &&
    s.h.mem.pendLoad.isNone && s.h.mem.got.isNone && s.own.cut.isNone &&
    decide ((s.h.q.vload[qNo q]).items.length + entries vl w ≤ Config.vqDepth) &&
    (List.range vl).all (fun e => match s.checkElt needR e (elt e) with
      | .ok ps => ps.all (fun p => p.1.cls != 6)
      | .error _ => false)

/-- The elements of `State.storable`. -/
def storeElts (s : State) (need : Need) (w vl : Nat) (elt : Nat → Elt) (split : Nat → Bool → List Nat) (en : Entry) :
    List (Except Trap StElt) :=
  (storedElts w vl en elt).map (fun e => s.stElt need w elt split en e)

/-- `State.storable` as a test, for the entry behind `skip` index entries. -/
def storeB (s : State) (i : Instr) (q : Reg) (need : Need) (w vl : Nat) (elt : Nat → Elt) (split : Nat → Bool → List Nat)
    (skip : Nat := 0) : Bool :=
  s.illegalSub i == none && s.unstepped && s.h.a.vstart == 0 && s.h.mem.pend.isEmpty && s.h.mem.pendLoad.isNone &&
    !s.own.defer && decide (vl ≤ perReg w) &&
    (match (s.h.q.vstore[qNo q]).items.drop skip with
     | en :: _ => (storeElts s need w vl elt split en).all (fun r => match r with
        | .ok x => x.ps.all (fun p => p.1.cls != 6 && p.1.rd.isNone)
        | .error _ => false)
     | [] => false)

/-- `State.vready` as a test, for the type that VT holds. -/
def vrdy (s : State) (i : Instr) (fs : List Fld) (sd vd : Option Reg) : Bool :=
  rdy s i fs sd vd && s.own.side == .X && s.vt.isSome && s.h.x.vstart == 0 && s.own.upset == .none && s.own.cut.isNone

theorem vready_of_vrdy {s : State} {i : Instr} {fs : List Fld} {sd vd : Option Reg} (h : vrdy s i fs sd vd = true) :
    s.vready i fs sd vd (s.vt.getD default) := by
  simp only [vrdy, Bool.and_eq_true, beq_iff_eq, Option.isSome_iff_exists, Option.isNone_iff_eq_none] at h
  obtain ⟨v, hv⟩ := h.1.1.1.2
  exact ⟨ready_of_rdy h.1.1.1.1.1, h.1.1.1.1.2, by rw [hv]; rfl, h.1.1.2, h.1.2, h.2⟩

/-- The X side under a VT word, with VL 4, an entry at the head of load queue 0, and s9 = 7. -/
def demoV (vt : BitVec 12) : State :=
  demoH .X (fun h => { h with
    csr := { h.csr with vt := vt }, x := { h.x with vl := 4 },
    q := { h.q with vload := h.q.vload.set 0 ⟨0, [{ Entry.zero with visible := true }], none, none⟩ } })

/-- Eight-byte words laid out from an address of the data page. -/
def putWords (s : State) (o : Nat) (ws : List Nat) : State :=
  putBytes s (keyHbm (0x20000 + o)) (ws.flatMap (fun w => natBytes w 8))

/-- The A side with all of page 0x20000 leased and device units ready; a9 = 0x20000, where the words lie. -/
def demoB (ws : List Nat) (f : Hart → Hart := id) : State :=
  let s := demoH .A (fun h => f { h with mem := { h.mem with leases := [⟨0x20000, 0x10000, false, false, false, true, true⟩] } })
  putWords { s with dev := { s.dev with ready := BitVec.allOnes 64 } } 0 ws

/-- A handle record of a hart: a copy of 64 bytes in a state. -/
def demoRec (n : Nat) (st : HState) (status due : Nat) : HRec :=
  { seq := n, cpyNo := 1, st := st, status := status, result := 0, due := due, unbooked := false, late := false, poisoned := false,
    intoSp := false,
    job := .copy { block := 0x20000, io := 0, cluster := 0, win := none, pred := none, first := 0, rowNo := 0, rowOff := 0, sum := 0,
                   part := [], cause := 0, psnOut := false,
                   blk := CopyBlock.ofNat (0x20100 + 0x20200 * 2 ^ 64 + 64 * 2 ^ 128 + 2 ^ 160) } }

/-- The demonstration caravan changed. -/
def putCar (s : State) (f : Caravan → Caravan) : State := { s with cars := kvSet s.cars ⟨0, 1⟩ (f (s.carOf ⟨0, 1⟩)) }

/-- The demonstration slice changed. -/
def putSlice (s : State) (f : Slice → Slice) : State := { s with slices := kvSet s.slices 1 (f (s.sliceNo 1)) }

/-- Whether a test holds of an answer. -/
def okAnd {α : Type} (e : Except Trap α) (p : α → Bool) : Bool := match e with | .ok a => p a | .error _ => false

/-- The A side with a9, a10 and the words of a block at 0x80 of its scratchpad. -/
def demoBlk (x y : Word) (ws : List Nat) (f : Hart → Hart := id) : State :=
  putBytes (demoB [] (fun h => f { h with regs := { h.regs with a := (h.regs.a.set 9 x).set 10 y } })) (keySpad demoHart 0x80)
    (ws.flatMap (fun w => natBytes w 8))

/-- Words as one number. -/
def natOf (ws : List Nat) : Nat := bytesNat (ws.flatMap (fun w => natBytes w 8))

/-- A mesh descriptor of one square root: object at 0x21000, root table at 0x20100, a partition table of one entry at 0x20080. -/
def meshWords (fresh : Bool) : List Nat :=
  [0x21000, 4160, 0x20100, 0x100000001 + (if fresh then 2 ^ 25 else 0), 0, 2 ^ 28, 0x20080, 0]

/-- A mesh of that descriptor, and its forest. -/
def demoMesh : Mesh :=
  { ctx := 1, desc := MeshDesc.ofNat (natOf (meshWords true)), at_ := spad 0x80, forest := 0, marks := none, rounds := 0, snap := List.replicate 8 0 }

def demoForest : Forest :=
  { ctx := 1, ptab := [], dim3 := false, nroots := 1, npart := 1, roots := [List.replicate 4 (RootFace.ofNat (2 ^ 27))],
    leaves := rootLeaves 1 1, gen := 0, cut := none }

/-- A state with that mesh open on die 0 as mesh 0. -/
def withMesh (s : State) : State := { s with meshes := [(0, demoMesh)], forests := [(0, demoForest)] }

/-- Pass on a number that has been evaluated. -/
def forceNat (n : Nat) (f : Nat → Bool) : Bool := match n with | 0 => f 0 | k + 1 => f (k + 1)

/-! ### Witnesses: steps, integers, control -/

/-- A load of the A side that has not been performed. -/
def demoLoad (ahead : Option Ahead) : PendLoad := ⟨.ldw 11 9 0, 0x20000, keyHbm 0x20000, 4, false, 0, ahead⟩

/-- Whether the next step fetches a word on the demonstration hart, which has a late load or has none. -/
def fetches (s : State) (sd : Side) (w : BitVec 32) (late : Bool) : Bool :=
  !s.dev.off && s.turn.act == .run demoHart sd && s.begin.canRun demoHart sd && (s.hart demoHart).calm sd == !late &&
    ((s.begin.takeTurn demoHart sd).fetch.toOption.map (·.1)) == some w

/-- A turn that fetches ADD a3, a9, a10, one that fetches a word of no row, and turns of the X side beside a late load and beside a
vector access under way that fetch VPSPLIT of the worked cases and leave the trap registers alone. -/
theorem witness_StepRunsTheFetchedWord :
    (fetches (State.reset.withFetchWord 32 0x02324800) .A 0x02324800 false = true ∧ (decode 0x02324800).toOption = some (.add 3 4 18)) ∧
    (fetches (State.reset.withFetchWord 32 0) .A 0 false = true ∧ (decode 0).toOption = none) ∧
    (let s := (State.reset.withFetchWord 32 0xE2208000).modHart demoHart (fun h => { h with mem := { h.mem with pendLoad := some (demoLoad none) } })
     let r := (State.reset.withFetchWord 32 0xE2208000).modHart demoHart (fun h => { h with mem := { h.mem with mid := some true } })
     fetches s .X 0xE2208000 true = true ∧ fetches r .X 0xE2208000 true = true ∧
       (decode 0xE2208000).toOption = some (.vpsplit 2 1 0 .e8 0)) := by decide +kernel

theorem witness_StepRunsTheEvent :
    let at_ := fun (a : Act) (off : Bool) => { demo .A with
      own := { (demo .A).own with turns := [⟨1, a, false, .none, none⟩] }, dev := { (demo .A).dev with off := off } }
    (∀ a ∈ ([.event .wearRecordSave, .bar 0 8 8 none, .cp 0 .mret] : List Act), (at_ a false).dev.off = false ∧ (at_ a false).turn.act = a) ∧
    ((at_ (.run ⟨0, 2, 0⟩ .A) false).turn.act = .run ⟨0, 2, 0⟩ .A ∧ (at_ (.run ⟨0, 2, 0⟩ .A) false).begin.canRun ⟨0, 2, 0⟩ .A = false ∧
      ((at_ (.run ⟨0, 2, 0⟩ .A) false).hart ⟨0, 2, 0⟩).mem.pendLoad.isNone) ∧
    ((at_ (.event (.coldReset () ())) true).dev.off = true ∧
      (at_ (.event (.coldReset () ())) true).turn.act = .event (.coldReset () ())) ∧
    ((at_ (.run demoHart .A) true).dev.off = true ∧ (at_ (.run demoHart .A) true).turn.act = .run demoHart .A) ∧
    (let s := at_ (.cp 3 (.mtime 5)) false
     s.turn.act = .cp 3 (.mtime 5) ∧ (5 : Fin 32) ≠ 0 ∧ (s.cps.get 3).irq = none ∧ s.now + s.turn.elapsed ≤ s.dev.accrued + 1000000) ∧
    (at_ (.event .wearRecordSave) false).allCmds = [] ∧ (at_ (.event .wearRecordSave) false).dev.warm = none := by
  decide +kernel

theorem witness_IntegerResults :
    (∀ i ∈ ([.add 11 9 10, .sub 11 9 10, .and 11 9 10, .or 11 9 10, .xor 11 9 10, .sll 11 9 10, .srl 11 9 10, .sra 11 9 10,
        .slt 11 9 10, .sltn 11 9 10, .min 11 9 10, .max 11 9 10, .minn 11 9 10, .maxn 11 9 10, .mul 11 9 10, .mulh 11 9 10,
        .mulhn 11 9 10, .div 11 9 10, .divn 11 9 10, .rem 11 9 10, .remn 11 9 10] : List Instr),
      rdy (demo .X) i [.s 9, .s 10] (some 11) none) ∧
    (∀ i ∈ ([.clz 11 9, .ctz 11 9, .popc 11 9, .brev 11 9] : List Instr), rdy (demo .X) i [.s 9] (some 11) none) ∧
    ((∀ j < 61, ((demo .X).fld [.s 9] 0).getMsbD j = false) ∧ ((demo .X).fld [.s 9] 0).getMsbD 61 = true) ∧
    (∀ j < 64, ((demo .X).fld [.s 12] 0).getMsbD j = false) ∧
    (((demo .X).fld [.s 9] 0).getLsbD 0 = true) ∧
    (∀ i < 64, (0xE000000000000000#64).getLsbD i = ((demo .X).fld [.s 9] 0).getLsbD (63 - i)) := by
  decide +kernel

theorem witness_ImmediateResults :
    (∀ i ∈ ([.addi 11 9 0x7FFF, .andi 11 9 1, .ori 11 9 1, .xori 11 9 1, .slti 11 9 1, .slli 11 9 63, .srli 11 9 63,
        .srai 11 9 63] : List Instr), rdy (demo .A) i [.s 9] (some 11) none) ∧
    rdy (demo .A) (.lih 11 0x80000) [] (some 11) none := by
  decide +kernel

theorem witness_RegistersAndCsrs :
    (isQ 28 = true ∧ (demoH .X (fun h => { h with q := { h.q with toX := h.q.toX.set 0 ⟨0, [5, 6]⟩ } })).h.q.toX[qNo 28].items = 5 :: [6]) ∧
    rdy (demo .X) (.csrr 11 .frm) [] (some 11) none ∧
    (∀ i ∈ ([.csrw 11 9 .frm, .csrs 11 9 .frm, .csrc 11 9 .frm] : List Instr), rdy (demo .X) i [.s 9] (some 11) none) ∧
    (∀ i ∈ ([.csrs 11 0 .frm, .csrc 11 0 .frm] : List Instr), rdy (demo .X) i [] (some 11) none) := by
  decide +kernel

theorem witness_BranchResults :
    ∀ i ∈ ([.beq 9 10 1, .bne 9 10 1, .blt 9 10 1, .bge 9 10 1, .bltn 9 10 1, .bgen 9 10 1] : List Instr),
      rdy (demo .A) i [.s 9, .s 10] none none ∧ (demo .A).seq.pc + 4 * (1#12).signExtend 64 ≠ 0 ∧
      (let s := demoA 3 3 (fun h => { h with a := { h.a with pc := 8 } })
       rdy s (.beq 9 10 0xFFE) [.s 9, .s 10] none none ∧ s.fld [.s 9, .s 10] 0 = s.fld [.s 9, .s 10] 1 ∧
       s.seq.pc + 4 * (0xFFE#12).signExtend 64 = 0) := by
  decide +kernel

theorem witness_JumpResults :
    (rdy (demo .A) (.jal 5 1) [] (some 5) none ∧ (demo .A).seq.pc + 4 * (1#20).signExtend 64 ≠ 0 ∧
      ¬((demo .A).own.side = .X ∧ (5 : Reg) = 29)) ∧
    ((demo .X).illegalSub (.jal 29 1) = none ∧ (demo .X).unstepped = true ∧ (demo .X).own.side = .X) ∧
    (rdy (demo .A) (.jalr 5 9 0) [.s 9] (some 5) none ∧ ((demo .A).fld [.s 9] 0 + 0 &&& ~~~3) ≠ 0) ∧
    (rdy (demo .X) (.jalr 5 29 0) [] (some 5) none ∧ (demoH .X (fun h => { h with csr := { h.csr with xlink := 4 } })).h.csr.xlink ≠ 0) ∧
    (let s := demoH .A (fun h => { h with a := { h.a with pc := 8 } })
     rdy s (.jal 0 0xFFFFE) [] (some 0) none ∧ s.h.tr.smode = false ∧ s.seq.pc + 4 * (0xFFFFE#20).signExtend 64 = 0 ∧
      (s.h.seq (otherSide s.own.side)).ended = false) ∧
    ((demoH .A (fun h => { h with x := { h.x with ended := true } })).h.seq .X).ended = true ∧ otherSide (demo .A).own.side = .X := by
  decide +kernel

/-- A stack of loops, the innermost at its end address. -/
def demoLoops (n : Nat) (stop : Word) (rem : Word) : State :=
  demoH .A (fun h => { h with a := { h.a with loops := List.replicate n ⟨0x10000, stop, rem, 0⟩ } })

theorem witness_LoopResults :
    rdy (demo .A) (.loop 9 8) [.s 9] none none ∧ rdy (demo .A) (.loop 11 8) [.s 11] none none ∧
    (demo .A).fld [.s 9] 0 ≠ 0 ∧ (demo .A).fld [.s 11] 0 = 0 ∧
    rdy (demoLoops 6 0x10010 2) (.loop 9 8) [.s 9] none none ∧ rdy (demoLoops 6 0x10010 2) (.loopi 3 8) [] none none ∧
    rdy (demoLoops 5 0x10010 2) (.loopi 3 8) [] none none ∧ rdy (demoLoops 5 0x10010 2) (.loopi 0 8) [] none none ∧
    (demoLoops 5 0x10010 2).seq.loops.length = 5 ∧ (demoLoops 6 0x10010 2).seq.loops.length = 6 ∧
    (0x10010 : Word) ≠ (demoLoops 6 0x10010 2).seq.pc ∧
    rdy (demoLoops 6 0x10010 2) (.lidx 3 5) [] (some 3) none ∧ rdy (demoLoops 6 0x10010 2) (.lbrk 5) [] none none ∧
    rdy (demoLoops 5 0x10010 2) (.lbrk 5) [] none none ∧ (2 : Word) - 1 ≠ 0 ∧ (1 : Word) - 1 = 0 ∧
    (0x10000 : Word) = (demoLoops 2 0x10000 1).seq.pc ∧ (demoLoops 1 0x10000 2).illegalSub (.loop 9 8) = none := by decide +kernel

theorem witness_LoopResults_stacks (r : Word) :
    (demoLoops 6 0x10010 2).seq.loops.drop 5 = ⟨0x10000, 0x10010, 2, 0⟩ :: [] ∧ (demo .A).seq.loops = [] ∧
    (demoLoops 6 0x10010 2).seq.loops.head? = some ⟨0x10000, 0x10010, 2, 0⟩ ∧
    (demoLoops 2 0x10000 r).seq.loops = ⟨0x10000, 0x10000, r, 0⟩ :: [⟨0x10000, 0x10000, r, 0⟩] ∧
    (demoH .A (fun h => { h with a := { h.a with loops := [⟨0x10000, 0x10000, 1, 0⟩, ⟨0x10000, 0x10000, 2, 0⟩] } })).seq.loops =
      ⟨0x10000, 0x10000, 1, 0⟩ :: [⟨0x10000, 0x10000, 2, 0⟩] :=
  ⟨rfl, rfl, rfl, rfl, rfl⟩

theorem witness_FloatResults :
    (∀ i ∈ ([.fadd .d .rne 11 9 10, .fsub .s .rne 11 9 10, .fmul .d .rtz 11 9 10, .fdiv .d .rne 11 9 10, .fmin .d 11 9 10, .fmax .d 11 9 10,
        .fcmp .d .lt 11 9 10] : List Instr), rdy (demo .X) i [.s 9, .s 10] (some 11) none) ∧
    (∀ i ∈ ([.fsqrt .d .rne 11 9, .fcvt .d default .rne 11 9] : List Instr), rdy (demo .X) i [.s 9] (some 11) none) ∧
    rdy (demo .X) (.ffma .d .rne 11 9 10) [.s 9, .s 10, .s 11] (some 11) none ∧
    fmt64.dec 0xBFF0000000000000 = .fin true (2 ^ 52) (-52) ∧ fmtBf.dec 0x3F81 = .fin false 129 (-7) := by
  decide +kernel

theorem witness_NotANumberResults :
    (fmt64.dec 0x7FF0000000000001).isNan = true ∧ (fmt64.dec 0x7FF0000000000001).isSnan = true ∧
    (fmt64.dec fmt64.poison).isPsn = true ∧ (fmt64.dec 0x3FF0000000000000).isNan = false ∧
    (fmt64.dec 0x7FF8000000000001).isPsn = false ∧ (∃ m e, m ≠ 0 ∧ fmt64.dec 0xBFF0000000000000 = .fin true m e) :=
  ⟨by decide +kernel, by decide +kernel, by decide +kernel, by decide +kernel, by decide +kernel, 2 ^ 52, -52, by decide, by decide +kernel⟩

theorem witness_IllegalWords :
    ((Instr.pushs 5 6).encodable = true ∧ (demo .A).illegalSub (.pushs 5 6) = some 3) ∧
    (((decode 0).toOption = none) ∧ (demo .A).own.ir = 0 ∧ (demo .A).canRun demoHart .A = true ∧ (demo .A).own.cur = demoHart ∧
      (demo .A).h.calm .A = true) ∧
    ((demo .A).h.tr.smode = false ∧ (demo .A).own.side = .A ∧ (demo .X).own.side = .X) ∧
    (Instr.fencei.onSide = some .A ∧ Instr.psnclr.onSide = some .X ∧ Instr.fencei.encodable = true) := by decide +kernel

/-- Full and empty scalar queues. -/
def demoQ (sd : Side) (toX toA : Nat) : State :=
  demoH sd (fun h => { h with q := { h.q with toX := h.q.toX.set 0 ⟨3, List.replicate toX 9⟩, toA := h.q.toA.set 0 ⟨250, List.replicate toA 9⟩ } })

theorem witness_QueueStalls :
    (let s := demoQ .X 0 16
     s.illegalSub (.add 28 28 9) = none ∧ s.own.side = .X ∧ s.h.blocked [.s 28, .s 9] (some 28) none = some (0x20, false) ∧ s.seq.wait = none) ∧
    (let s := demoQ .X 1 16
     s.h.blocked [.s 28, .s 9] (some 28) none = some (0x30, true)) ∧
    (∀ since ∈ [0, 1], let w : Wait := ⟨.add 11 28 9, some (0x20, false), since, some 1, none⟩
     let s := (demoQ .X 0 0).modH (fun h => { h with x := { h.x with wait := some w } })
     let s := { s with now := 2 }
     s.seq.wait = some w ∧ s.h.a.wait = none ∧ s.h.a.stop = none ∧ s.h.blocked [.s 28, .s 9] (some 11) none = some (0x20, false) ∧
     (if since = 0 then s.now > w.since + w.limit.getD 0 else s.now ≤ w.since + w.limit.getD 0)) ∧
    ((demoQ .A 15 1).own.side = .A ∧ (demoQ .A 15 1).unstepped = true ∧ isQ 28 = true ∧
      (demoQ .A 15 1).h.q.toX[qNo 28].items.length = 15 ∧ (demoQ .A 16 0).h.q.toX[qNo 28].items.length = 16 ∧
      (demoQ .A 15 1).h.q.toA[qNo 28].items = 9 :: [] ∧ (demoQ .A 16 0).h.q.toA[qNo 28].items = []) := by
  decide +kernel

theorem witness_TrapEntry :
    (demo .A).h.tr.smode = false ∧ (0x0D : Nat) ≠ 0x04 ∧ (0x0D : Nat) ≠ 0x0A ∧ (0x0D : Nat) ≠ 0x10 ∧ ¬((0x0D : Nat) = 0x06 ∧ (0 : Word).getLsbD 25 = true) ∧
    (demo .A).h.tr.brkdbg = false ∧ (demo .A).h.tr.stepdbg = false := by decide +kernel

/-- The core handler of the demonstration hart about to act on a trap of the A side at its fifth word. -/
def demoTrap (code : BitVec 8) (f : Hart → Hart := id) : State :=
  demoH .A (fun h => f { h with tr := { h.tr with smode := true, xpause := true, code := code, epc := 0x10010, xepc := 0x10020 } })

/-- `State.handles` and `State.unreflected` as tests. -/
def trapB (s : State) : Bool :=
  s.canRun demoHart .A && (s.hart demoHart).tr.smode && s.own.cur == demoHart && s.own.side == .A &&
    (s.h.eng.refl.all (fun r => s.h.tr.causeX || !r.2.1.getLsbD s.h.tr.code.toNat))

theorem handles_of_trapB {s : State} (h : trapB s = true) : s.handles demoHart ∧ s.actAs demoHart .A = s ∧ s.unreflected := by
  simp only [trapB, Bool.and_eq_true, beq_iff_eq] at h
  refine ⟨⟨h.1.1.1.1, h.1.1.1.2⟩, ?_, fun r hr hx => ?_⟩
  · obtain ⟨⟨⟨⟨_, _⟩, hc⟩, hs⟩, _⟩ := h
    unfold State.actAs
    rw [← hc, ← hs]
  · have := h.2
    rw [hr, hx] at this
    simpa using this

theorem witness_TrapsThatEndTheSlice :
    (∀ c ∈ ([0x01, 0x03, 0x05, 0x08, 0x09, 0x0B, 0x0C, 0x0E, 0x0F, 0x12] : List (BitVec 8)), trapB (demoTrap c) = true ∧ (demoTrap c).h.tr.code = c) ∧
    (let s := demoH .A (fun h => { h with tr := { h.tr with smode := true } })
     s.h.tr.smode = true ∧ s.dev.repl = none ∧ (0x02 : Nat) ≠ 0x0A ∧ (0x02 : Nat) ≠ 0x10 ∧ ¬((0x02 : Nat) = 0x0E ∧ s.h.tr.brkdbg = true)) ∧
    ((demoH .A (fun h => { h with tr := { h.tr with smode := true } })).h.tr.smode = true) ∧
    (((demo .A).sliceNo ((demo .A).caravan demoHart).slice).st = .ready) ∧
    (let s := (State.reset.withFetchWord 32 0).modHart demoHart (fun h => { h with a := { h.a with pc := 0x20000 } })
     s.dev.off = false ∧ s.turn.act = .run demoHart .A ∧ s.begin.canRun demoHart .A = true ∧ (s.hart demoHart).calm .A = true ∧ (s.hart demoHart).tr.smode = false ∧
     (s.begin.sliceOf demoHart).desc.codebase + (s.begin.sliceOf demoHart).desc.codelen ≤ (((s.hart demoHart).seq .A).pc).toNat) ∧
    (let s := (State.reset.withFetchWord 32 0).modHart demoHart (fun h => { h with a := { h.a with pc := 0xFFFC } })
     s.begin.canRun demoHart .A = true ∧ (((s.hart demoHart).seq .A).pc).toNat < (s.begin.sliceOf demoHart).desc.codebase) ∧
    (let d := (demo .A).dev
     (demo .A).h.tr.smode = false ∧ d.repl = none ∧ ({ d with repl := some ⟨d.imgA, 0, default⟩ } : Device).repl ≠ none) := by
  decide +kernel

/-- An ECALL of SETHND in the handler. -/
def demoCall (hd mask record : Word) : State :=
  demoTrap 0x0D (fun h => { h with regs := { h.regs with a := (((h.regs.a.set 8 1).set 1 hd).set 2 mask).set 3 record } })

/-- What holds of the state of such a call of a handler, a mask and a record, by whether the handler lies in the code and
whether the record may be written. -/
def callOk (x : Word × Word × Word × Bool × Bool) : Bool :=
  let s := demoCall x.1 x.2.1 x.2.2.1
  trapB s && s.h.readA 8 == 1 && s.h.readA 1 == x.1 &&
    (x.1 == 0 || ((x.1.toNat % 4 == 0 && s.inCode demoHart x.1) == x.2.2.2.1 &&
      (winClass s demoHart x.2.2.1 == 1 && x.2.2.1.toNat % 64 == 0) == x.2.2.2.2)) &&
    (s.h.readA 2).getLsbD 1 == (x.2.1 == 2)

theorem witness_SystemCallsAndReturns_handler :
    (trapB (demoTrap 0x0D) = true ∧ (demoTrap 0x0D).h.tr.causeX = false ∧ (demoTrap 0x0D).h.readA 8 ≠ 1) ∧
    (trapB (demoTrap 0x06) = true ∧ (demoTrap 0x06).h.tr.code = 0x06) ∧
    (let s := demoTrap 0x0D (fun h => { h with tr := { h.tr with causeX := true } })
     trapB s = true ∧ s.h.tr.causeX = true) ∧
    [(0, 8, 0, true, false), (0x10002, 8, 0, false, false), (0x30000, 8, 0, false, false), (0x10000, 8, 0x20000, true, false),
        (0x10000, 2, 0xF0#8 ++ 0x40#56, true, true), (0x10000, 8, 0xF0#8 ++ 0x40#56, true, true)].all callOk = true ∧
    (let s := demoTrap 0x05 (fun h => { h with eng := { h.eng with refl := some (0x10000, 0x20, spad 0x40) } })
     s.canRun demoHart .A = true ∧ (s.hart demoHart).tr.smode = true ∧ (0x20 : Word).getLsbD 5 = true ∧ s.h.tr.causeX = false ∧
     Memory.wf s.mem = true ∧ Poison.wf s.poison = true ∧ reach s (spad 0x40) 64 needW = true) := by decide +kernel

theorem witness_SystemCallsAndReturns :
    ((demo .A).seq.ended = false) ∧
    ((demoH .A (fun h => { h with tr := { h.tr with smode := true } })).own.side = .A ∧
      (demoH .A (fun h => { h with tr := { h.tr with smode := true } })).h.tr.smode = true) ∧
    ((demo .A).own.side = .A ∧ (demo .A).h.tr.smode = false ∧ (demo .X).own.side = .X) ∧
    (let s := demoH .X (fun h => { h with tr := { h.tr with stepx := true } })
     s.h.tr.smode = false ∧ s.h.tr.stepx = true ∧ s.seq.ended = false ∧ s.illegalSub (.addi 11 9 1) = none ∧ s.h.blocked [.s 9] (some 11) none = none) ∧
    ((demoH .A (fun h => { h with tr := { h.tr with stepa := true } })).h.tr.stepa = true ∧
      (demoH .A (fun h => { h with tr := { h.tr with stepa := true } })).seq.ended = false) := by decide +kernel

/-- A pending store of one byte. -/
def demoStore : PendStore := ⟨0, [⟨keyHbm 0x20000, whole [1], .keep⟩], none, .plain, false, false, none, []⟩

theorem witness_WaitForEventAndFences :
    (let w : Wait := ⟨.wfe, none, 0, some 5, none⟩
     (demo .A).own.side = .A ∧ (demo .A).unstepped = true ∧ (demo .A).h.event = false ∧ (demo .A).seq.wait = none ∧
     (demoH .A (fun h => { h with event := true })).h.event = true ∧
     (let s := { demoH .A (fun h => { h with a := { h.a with wait := some w } }) with now := 5 }
      s.h.event = false ∧ s.seq.wait = some w ∧ s.now ≥ w.since + 5)) ∧
    ((demo .A).h.mem.pend = [] ∧ (demo .A).h.oldest = none ∧ (7#3).getLsbD 1 = true ∧ (7#3).getLsbD 2 = true) ∧
    (let s := demoH .A (fun h => { h with mem := { h.mem with pend := [demoStore] } })
     s.h.mem.pend ≠ [] ∧ (1#3).getLsbD 1 = false ∧ s.h.mem.pend.map PendStore.kind = [.plain]) := by decide +kernel

/-! ### Witnesses: accesses of the A side -/

theorem witness_AccessChecks :
    let s := demo .A
    (windowOk s demoHart (spad 4096) 1 = false) ∧
    (windowOk s demoHart 0x20FF9 8 = true ∧ winClass s demoHart 0x20FF9 = 0 ∧
      (leaseAt (s.hart demoHart).mem.leases (gVa 0x20FF9)).isSome ∧ gVa 0x20FF9 + 8 > 0x21000) ∧
    (windowOk s demoHart 0x1FFFF 1 = true ∧ leaseAt (s.hart demoHart).mem.leases (gVa 0x1FFFF) = none) ∧
    (let r := demoH .A (fun h => { h with mem := { h.mem with leases := [⟨0x20000, 8, false, false, false, false, true⟩] } })
     windowOk r demoHart 0x20000 8 = true ∧ (leaseAt (r.hart demoHart).mem.leases 0x20000).isSome) ∧
    (windowOk s demoHart 0x20FF1 8 = true ∧ (0x20FF1 : Word).toNat % 8 ≠ 0 ∧ gVa 0x20FF1 + 8 ≤ 0x21000) ∧
    (windowOk s demoHart (spad 4088) 8 = true ∧ winClass s demoHart (spad 4088) = 2 ∧ (spad 4088).toNat % 8 = 0) ∧
    (let r := demoH .A (fun h => { h with tr := { h.tr with smode := true } })
     ∀ o ∈ [0x100000, 0x1191F8], let g := 0xFE#8 ++ BitVec.ofNat 56 o
      winClass r demoHart g = 6 ∧ (r.hart demoHart).tr.smode = true ∧ 0x100000 ≤ (g.extractLsb' 0 56).toNat ∧ (g.extractLsb' 0 56).toNat < 0x119200) ∧
    (let p := 0xF0#8 ++ 0x40#56
     let own := fun (r : State) (need : Need) => privKey r (r.sliceOf demoHart).ctx ((r.hart demoHart).mem.pbase + (p.extractLsb' 0 40).toNat) need
     let r := { s with ctxs := kvSet s.ctxs 1 { s.ctxNo 1 with proot := (s.ctxNo 1).root } }
     let ro := putBytes r (keyHbm 0x110000) (natBytes 0x13 8)
     windowOk s demoHart p 8 = true ∧ winClass s demoHart p = 1 ∧ own s needW = some (keyPriv 1 0x40) ∧ own r needW = some (keyHbm 0x40) ∧
      own ro needW = none) ∧
    (winClass s demoHart 0xF0FF000000000000 = 7 ∧ winClass s demoHart (0xF0#8 ++ 0#56) = 1 ∧ (s.hart demoHart).tr.smode = false) := by decide +kernel

/-- The demonstration state with the granule at an address of the data page poisoned. -/
def demoPsn (o : Nat) : State := { demo .A with poison := [(keyHbm (0x20000 + o)) / 4] }

theorem witness_ScalarLoadsAndStores :
    (demo .A).own.side = .A ∧ (demo .A).unstepped = true ∧ Memory.wf (demo .A).mem = true ∧ Poison.wf (demo .A).poison = true ∧
    (∀ n ∈ [1, 2, 4, 8], reach (demo .A) ((demo .A).h.readA 9 + 0xFF8) n needR ∧ reach (demo .A) ((demo .A).h.readA 9 + 0) n needW ∧
      (demo .A).psnAt (placeOf (demo .A) 0x20FF8 n needR) n = false ∧
      reach (demoPsn 0xFF8) 0x20FF8 n needR ∧ (demoPsn 0xFF8).psnAt (placeOf (demoPsn 0xFF8) 0x20FF8 n needR) n = true) ∧
    ((checkElem (demo .A) demoHart 0x21000 1 needR 0).toOption = none ∧ (checkElem (demo .A) demoHart 0x20FF9 8 needW 0).toOption = none) := by
  decide +kernel

theorem witness_AtomicResults :
    (∀ i ∈ ([.amoadd 11 9 10 false false .hart true, .amoand 11 9 10 true false .die true, .amoor 11 9 10 false true .device true,
        .amoxor 11 9 10 true true .system true, .amomin 11 9 10 false false .hart false, .amomax 11 9 10 false false .hart true,
        .amominn 11 9 10 false false .hart true, .amomaxn 11 9 10 false false .hart true, .amoswap 11 9 10 false false .hart true,
        .amocas 11 9 10 false false .hart true, .amofadd 11 9 10 false false .hart true] : List Instr),
      (demo .A).illegalSub i = none) ∧ (demo .A).unstepped = true ∧ (demo .A).h.unfinished = [] ∧
    reach (demo .A) ((demo .A).h.readA 9) 8 needRW ∧ reach (demo .A) ((demo .A).h.readA 9) 4 needRW ∧
    (demo .A).psnAt (placeOf (demo .A) 0x20000 8 needRW) 8 = false ∧ reach (demoPsn 4) 0x20000 8 needRW ∧
    (demoPsn 4).psnAt (placeOf (demoPsn 4) 0x20000 8 needRW) 8 = true ∧
    winClass (demoH .A (fun h => { h with tr := { h.tr with smode := true } })) demoHart 0xFE00000000000000 = 6 := by decide +kernel

/-- The core handler about to emulate an instruction at an address, its element `el` (R112). -/
def demoMis (i : Instr) (g : Word) (el : Nat) (f : Hart → Hart := id) : State :=
  demoTrap 0x02 (fun h => f { h with tr := { h.tr with code := 0x02, tval := g, tval2 := word el }, icache := [(.A, 0x10010, encode i)] })

/-- `State.emulates` as a test, with `State.handles`. -/
def emuB (s : State) (i : Instr) (g : Word) (n : Nat) (need : Need) : Bool :=
  trapB s && s.h.tr.code == 0x02 && (decode s.h.trappedWord).toOption == some i && s.h.mem.pend.isEmpty && !s.own.defer &&
    (match s.checkPieces need 0 ((List.range n).map (fun j => ⟨g + word j, 1, none⟩)) with
     | .ok ps => ps.all (fun p => p.1.cls != 6 && p.1.rd.isNone) && decide ((ps.map (fun p => p.1.key)).Nodup)
     | .error _ => false)

theorem witness_emulation_scalar :
    (∀ x ∈ ([(.ldh 11 9 1, 2), (.ldhn 11 9 1, 2), (.ldw 11 9 1, 4), (.ldwn 11 9 1, 4), (.ldd 11 9 1, 8)] : List (Instr × Nat)),
      emuB (demoMis x.1 0x20001 0) x.1 0x20001 x.2 needR = true) ∧
    (let s := { demoMis (.ldd 11 9 1) 0x20001 0 with poison := [keyHbm 0x20004 / 4] }
     emuB s (.ldd 11 9 1) 0x20001 8 needR = true ∧ poisoned s.poison (keyHbm 0x20004) 1 = true ∧ s.h.eng.refl = none) ∧
    (∀ x ∈ ([(.sth 10 9 1, 2), (.stw 10 9 1, 4), (.std 10 9 1, 8)] : List (Instr × Nat)),
      emuB (demoMis x.1 0x20001 0) x.1 0x20001 x.2 needW = true) ∧
    (∀ x ∈ amoRows 11 9 10 true true .die true 0 3 0 ++ amoRows 11 9 10 false false .hart false 0 3 0,
      emuB (demoMis x.1 0x20001 0) x.1 0x20001 4 needRW = true) ∧
    Memory.wf (demoMis (.ldd 11 9 1) 0x20001 0).mem = true ∧ Poison.wf (demoMis (.ldd 11 9 1) 0x20001 0).poison = true := by decide +kernel

theorem witness_emulation_vector :
    let at1 := fun (h : Hart) => { h with regs := { h.regs with a := h.regs.a.set 9 0x20001 } }
    (∀ e ∈ [Esz.e8, .e16, .e32, .e64],
      let s := demoMis (.vld 28 9 false false e) (0x20001 + word (3 * (e.width / 8))) 3 (fun h => at1 { h with
        q := { h.q with vload := h.q.vload.set 0 ⟨0, [], some { (default : Resv) with entry := Entry.zero }, none⟩ } })
      emuB s (.vld 28 9 false false e) (s.h.readA 9 + word (3 * (e.width / 8))) (e.width / 8) needR = true ∧
        (s.h.q.vload[qNo 28]).resv.isSome = true) ∧
    (∀ on ∈ [true, false],
      let s := demoMis (.vst 28 9 false false .e32) (0x20001 + 12) 3 (fun h => at1 { h with
        q := { h.q with vstore := h.q.vstore.set 0 ⟨0, [{ Entry.zero with pred := if on then 0b1000 else 0 }], none, none⟩ } })
      emuB s (.vst 28 9 false false .e32) (s.h.readA 9 + word (3 * (32 / 8))) 4 needW = true ∧
        (s.h.q.vstore[qNo 28]).items.map (fun en => (en.psn.getLsbD 3, en.pred.getLsbD 3)) = [(false, on)]) := by
  decide +kernel

theorem witness_WindowTests :
    let s := fun (x y : Word) => demoA x y
    (s 0 0).own.side = .A ∧ (s 0 0).unstepped = true ∧
    (∀ p ∈ ([(0x20000, 0), (0xF0#8 ++ 0#56, 1), (spad 0, 2), (0xF1#8 ++ 0#56, 3),
        (0xF2#8 ++ 1#8 ++ 0#48, 4), (0xF2#8 ++ 0#56, 5), (0xFE#8 ++ 0#56, 6), (0x55#8 ++ 0#56, 7)] : List (Word × Nat)),
      winClass (s p.1 3) demoHart p.1 = p.2) ∧
    ((0xF2#8 ++ 1#8 ++ 0#48 : Word).extractLsb' 20 2).toNat = (s 0 0).own.cur.idx ∧ (s 0x20000 0).h.readA 10 = 0 ∧ (s 0x20000 1).h.mem.leases.length = 1 ∧
    (leaseAt (s 0x20000 1).h.mem.leases (gVa 0x20000)).isSome ∧ gVa 0x20000 + 0x1000 ≤ 0x20000 + 0x1000 := by decide +kernel

theorem witness_VectorLengths :
    (let i := Instr.strip 11 10 12 4 0 .e64
     (demo .A).illegalSub i = none ∧ (demo .A).unstepped = true ∧ (demo .A).h.q.len.items.length < 16) ∧
    ((demo .A).illegalSub (.strip 11 10 0 0 2 .e4) = none) ∧
    ((demoV 0x14).vt.isSome ∧ rdy (demoV 0x14) (.setvl 11 9) [.s 9] (some 11) none) ∧
    (let s := (demoV 0x14).modH (fun h => { h with q := { h.q with len := ⟨0, [4, 5]⟩ } })
     s.h.q.len.items = 4 :: [5] ∧ rdy s (.vltake 11) [] (some 11) none ∧ s.own.side = .X) := by decide +kernel

/-- The A side with VL `n`, a10 as a stride of 16, a12 = the address of an index list, and store entries in queues 0 and 1. -/
def demoM (n : Nat) : State :=
  demoH .A (fun h => { h with
    regs := { h.regs with a := (h.regs.a.set 10 16).set 12 0x20100 }, a := { h.a with vl := n },
    q := { h.q with vstore := (h.q.vstore.set 0 ⟨0, [{ Entry.zero with pred := 0b1011 }], none, none⟩).set 1 ⟨0, [{ Entry.zero with pred := 0b0111 }], none, none⟩ } })

theorem witness_VectorLoads :
    let s := demoM 4
    loadB s (.vld 28 9 true false .e64) 28 64 4 (s.eltUnit 9 64) ∧ loadB s (.vld 28 9 false true .e4) 28 4 4 (s.eltUnit 9 4) ∧
    loadB s (.vlds 29 9 10 false false .e16) 29 16 4 (s.eltStride 9 10 16) ∧
    loadB s (.vldp 30 9 10 2 false false false .e8) 30 32 4 (s.eltPlanes 9 10 Fam.e8.planeWidth 2) ∧
    loadB s (.vldp 30 9 10 1 true false true .e11) 30 64 4 (s.eltPlanes 9 10 Fam.e11.planeWidth 2) ∧
    (isQ 12 = false ∧ loadB s (.vldx 31 9 12 false false true .e32) 31 32 4 (s.eltIndex 9 12 [] 32 false)) ∧
    (isQ 28 = true ∧ max 1 ((4 + 255) / 256) ≤ (s.h.q.vstore[qNo 28]).items.length ∧ (s.h.q.vstore[qNo 28]).held = none ∧
      loadB s (.vldx 31 9 28 false false false .e32) 31 32 4 (s.eltIndex 9 28 ((s.h.q.vstore[qNo 28]).items.take 1) 32 false)) ∧
    (s.ffLength 9 64 = 4 ∧ loadB s (.vldff 28 9 false false .e64) 28 64 4 (s.eltUnit 9 64) ∧ s.h.q.len.items.length < 16) ∧
    (let r := s.modH (fun h => { h with regs := { h.regs with a := h.regs.a.set 9 0x20FF0 } })
     r.ffLength 9 64 = 2 ∧ loadB r (.vldff 28 9 false false .e64) 28 64 2 (r.eltUnit 9 64)) := by decide +kernel

theorem witness_VectorStores :
    let s := demoM 4
    (Memory.wf s.mem = true ∧ Poison.wf s.poison = true ∧ 0 < s.h.a.vl ∧ s.h.unfinished = []) ∧
    storeB s (.vst 28 9 true false .e64) 28 needW 64 4 (s.eltUnit 9 64) whole1 ∧
    storeB s (.vsts 28 9 10 false false .e32) 28 needW 32 4 (s.eltStride 9 10 32) whole1 ∧
    storeB s (.vstp 28 9 10 0 false false true .e8) 28 needW 32 4 (s.eltPlanes 9 10 Fam.e8.planeWidth 2) (splitPlanes .e8 1 2) ∧
    (isQ 12 = false ∧ storeB s (.vstx 28 9 12 false false .e64) 28 needW 64 4 (s.eltIndex 9 12 [] 64 true) whole1 ∧
      storeB s (.vstxadd 28 9 12 false false true .e64) 28 needRW 64 4 (s.eltIndex 9 12 [] 64 true) whole1) ∧
    (let r := s.modH (fun h => { h with q := { h.q with vstore := h.q.vstore.set 0 ⟨0, [Entry.zero, { Entry.zero with pred := 0b1011 }], none, none⟩ } })
     storeB r (.vstx 28 9 28 false false .e64) 28 needW 64 4 (r.eltIndex 9 28 ((r.h.q.vstore[qNo 28]).items.take 1) 64 true) whole1 1) ∧
    (isQ 29 = true ∧ qNo 29 ≠ qNo 28 ∧ max 1 ((4 + 255) / 256) ≤ (s.h.q.vstore[qNo 29]).items.length ∧ (s.h.q.vstore[qNo 29]).held = none ∧
      storeB s (.vstx 28 9 29 false false .e64) 28 needW 64 4 (s.eltIndex 9 29 ((s.h.q.vstore[qNo 29]).items.take 1) 64 true) whole1 ∧
      storeB s (.vstxadd 28 9 29 false false false .e64) 28 needRW 64 4 (s.eltIndex 9 29 ((s.h.q.vstore[qNo 29]).items.take 1) 64 true) whole1) ∧
    ((demoM 0).own.side = .A ∧ (demoM 0).unstepped = true ∧ (demoM 0).h.a.vl = 0 ∧ (demoM 0).h.mem.pend = [] ∧
      ((demoM 0).h.q.vload[qNo 28]).items.length < 8 ∧ ((demoM 0).h.q.vstore[qNo 28]).items.length = 1) := by decide +kernel

/-! ### Witnesses: vectors, predicates, matrices. VT 0x14 is binary64, 0x13 binary32, 0x03 and 0x0B 32-bit integers, 0x53 binary32
with groups of two. -/

theorem witness_VectorFloatResults :
    (∀ p ∈ ([(.vfadd 1 2 3 .vec 0 .dyn, [.v 2, .v 3], 1), (.vfsub 1 2 9 .scal 1 .rtz, [.v 2, .s 9], 1), (.vfmul 28 28 3 .vec 7 .dyn, [.v 28, .v 3], 28),
        (.vfdiv 1 1 1 .vec 0 .rna, [.v 1, .v 1], 1), (.vfmin 1 2 31 .imm 0, [.v 2], 1), (.vfmax 1 2 3 .vec 0, [.v 2, .v 3], 1),
        (.vfma 1 2 3 .vec 0 .dyn, [.v 2, .v 3, .v 1], 1), (.vfms 1 2 3 .vec 0 .dyn, [.v 2, .v 3, .v 1], 1), (.vfnma 1 2 9 .scal 0 .dyn, [.v 2, .s 9, .v 1], 1),
        (.vfnms 1 2 3 .vec 0 .dyn, [.v 2, .v 3, .v 1], 1), (.vfsqrt 1 2 0 .dyn, [.v 2], 1), (.vfrcp 1 2 0 .dyn, [.v 2], 1), (.vfrsq 1 2 0 .dyn, [.v 2], 1),
        (.vfabs 1 2 0, [.v 2], 1), (.vfneg 1 2 0, [.v 2], 1)] : List (Instr × List Fld × Reg)),
      vrdy (demoV 0x14) p.1 p.2.1 none (some p.2.2)) ∧
    vrdy (demoV 0x53) (.vfadd 2 4 6 .vec 0 .dyn) [.v 4, .v 6] none (some 2) := by decide +kernel

theorem witness_VectorIntegerResults :
    ∀ vt ∈ ([0x03, 0x80B] : List (BitVec 12)), ∀ f ∈ ([.vadd, .vsub, .vmul, .vmulh, .vand, .vor, .vxor, .vsll, .vsrl, .vsra, .vmin, .vmax, .vminn, .vmaxn] :
        List (Reg → Reg → Reg → BKind → BitVec 3 → Instr)),
      vrdy (demoV vt) (f 1 2 3 .vec 0) [.v 2, .v 3] none (some 1) ∧ vrdy (demoV vt) (f 28 28 9 .scal 1) [.v 28, .s 9] none (some 28) ∧
        vrdy (demoV vt) (f 1 2 16 .imm 0) [.v 2] none (some 1) := by decide +kernel

theorem witness_VectorCompareResults :
    vrdy (demoV 0x14) (.vfcmp 1 2 3 .vec 0 .lt) [.v 2, .v 3] none none ∧ vrdy (demoV 0x14) (.vfcmp 0 28 9 .scal 1 .un) [.v 28, .s 9] none none ∧
    vrdy (demoV 0x03) (.vcmp 7 2 3 .vec 0 .ltn) [.v 2, .v 3] none none ∧ vrdy (demoV 0x0B) (.vcmp 1 2 31 .imm 0 .ge) [.v 2] none none := by decide +kernel

theorem witness_VectorConversions :
    vrdy (demoV 0x14) (.vcvt 1 2 .dyn 0 .i32) [.v 2] none (some 1) ∧ vrdy (demoV 0x03) (.vcvt 1 2 .rtz 1 .f64) [.v 2] none (some 1) ∧
    (fmt64.dec 0x7FF8000000000000).isNan = true ∧ fmt64.dec 0x7FF0000000000000 = .inf false ∧ fmt64.dec 0xFFF0000000000000 = .inf true ∧
    (VTy.i32 ∈ [VTy.i8, .i16, .i32, .i64] ∧ tyFmt .i32 = none ∧ 0xFFFFFFFF < 2 ^ VTy.i32.width) ∧ fmtE4M3.dec 0x7F = .nan false false false ∧
    fmtE5M2.dec 0x7C = .inf false ∧ fmtE2M1.dec 7 = .fin false 3 1 ∧ 7 < 2 ^ fmtE2M1.width ∧
    fmt64.dec 0x4330000000000001 = .fin false (2 ^ 52 + 1) 0 ∧ 2 ^ 52 + 1 < 2 ^ (64 - 1) ∧ fmt64.dec 0xC330000000000001 = .fin true (2 ^ 52 + 1) 0 := by
  decide +kernel

theorem witness_VectorMoves :
    vrdy (demoV 0x14) (.vmv 1 28 0) [.v 28] none (some 1) ∧ vrdy (demoV 0x03) (.vbcast 1 9 .scal 1) [.s 9] none (some 1) ∧
    vrdy (demoV 0x03) (.vbcast 28 5 .imm 0) [] none (some 28) ∧ vrdy (demoV 0x14) (.vmerge 1 2 3 .vec 1) [.v 2, .v 3] none (some 1) ∧
    vrdy (demoV 0x14) (.vextr 11 2 3 .imm) [.v 2] (some 11) none ∧ vrdy (demoV 0x14) (.vextr 11 2 9 .scal) [.v 2, .s 9] (some 11) none ∧
    vrdy (demoV 0x14) (.vins 1 9 3 .imm) [.s 9] none (some 1) ∧
    (let s := demoV 0x14
     let v := s.vt.getD default
     s.kVal [.v 2] 1 .imm 3 < s.vlen v ∧ s.vlen v ≤ s.kVal [.v 2, .s 9] 1 .scal 9 ∧
     (s.vop [.v 2] 0 v.lmul v.w (some v.fmt)).psn 3 = false) ∧
    (let s := (demoV 0x03).modH (fun h => { h with q := { h.q with vload := h.q.vload.set 0 ⟨0, [{ Entry.zero with visible := true, psn := 8 }], none, none⟩ } })
     vrdy s (.vextr 11 28 3 .imm) [.v 28] (some 11) none ∧ (s.vop [.v 28] 0 1 32 none).psn 3 = true) := by decide +kernel

theorem witness_VectorPermutes :
    let s := demoV 0x03
    vrdy s (.vslideup 1 2 3 .imm 0) [.v 2] none (some 1) ∧ vrdy s (.vslidedn 28 28 9 .scal 1) [.v 28, .s 9] none (some 28) ∧
    vrdy s (.vperm 1 2 3 0) [.v 2, .v 3] none (some 1) ∧ vrdy s (.vcomp 1 2 1) [.v 2] none (some 1) ∧
    vrdy s (.vexpd 1 2 1) [.v 2] none (some 1) ∧ vrdy s (.viota 1 1) [] none (some 1) ∧ s.vlen (s.vt.getD default) ≤ 2048 := by decide +kernel

theorem witness_Reductions :
    (∀ vt ∈ ([0x14, 0x03] : List (BitVec 12)), ∀ i ∈ ([.vredsum 11 2 0 .dyn, .vredtree 11 2 0 .dyn, .vredmax 11 2 0, .vredmin 11 2 1] : List Instr),
      vrdy (demoV vt) i [.v 2] (some 11) none ∧ vrdy (demoV vt) (.vscan 1 2 0 .dyn) [.v 2] none (some 1)) ∧
    ((demoV 0x14).vt.getD default).fp = true ∧ ((demoV 0x03).vt.getD default).isInt = true ∧
    (∀ e ∈ List.range 4, ((demoV 0x03).vop [.v 2] 0 1 32 none).psn e = false) ∧
    (let s := (demoV 0x03).modH (fun h => { h with q := { h.q with vload := h.q.vload.set 0 ⟨0, [{ Entry.zero with visible := true, psn := 8 }], none, none⟩ } })
     (∀ i ∈ ([.vredsum 11 28 0 .dyn, .vredtree 11 28 0 .dyn, .vredmax 11 28 0, .vredmin 11 28 0] : List Instr), vrdy s i [.v 28] (some 11) none) ∧
     ((List.range (s.vlen (s.vt.getD default))).filter (s.vactive (s.vt.getD default) 0)).find? (s.vop [.v 28] 0 1 32 none).psn = some 3) := by
  decide +kernel

theorem witness_PredicateResults :
    let s := demoV 0x14
    s.own.upset = .none ∧ s.unstepped = true ∧ s.own.side = .X ∧ s.own.ir = 0 ∧ s.canRun s.own.cur s.own.side = true ∧
    s.h.calm .X = true ∧ (decode 0).toOption = none ∧ 32 ≤ (32 : BitVec 6).toNat ∧ rdy s (.pcnt 11 1) [] (some 11) none ∧ rdy s (.pfirst 31 1) [] (some 31) none := by
  decide +kernel

/-- The X side adding v2 and v3 with a shadow result `y` for element 3, on a core with a lane map and a history. -/
def demoShadow (y : Nat) (map : BitVec 32) (div : List (Nat × Nat)) : State :=
  let s := (demoV 0x14).modH (fun h => { h with tr := { h.tr with shEn := true, shRetire := true } })
  let s := { s with own := { s.own with upset := .shadow 3 y } }
  s.setCore 0 { s.coreNo 0 with lanemap := map, div := div }

/-- A shadow result that agrees, one of another sign, the third divergence of a lane, and that on a core of 16 lanes. -/
theorem witness_ShadowDivergence :
    (∀ p ∈ ([(0, 0, [], false), (0xBFF0000000000000, 0, [], false), (0xBFF0000000000000, 0, [(3, 0), (3, 0)], true),
        (0xBFF0000000000000, 0xFFFF0000, [(3, 0), (3, 0)], true)] : List (Nat × BitVec 32 × List (Nat × Nat) × Bool)),
      let s := demoShadow p.1 p.2.1 p.2.2.1
      rdy s (.vfadd 1 2 3 .vec 0 .dyn) [.v 2, .v 3] none (some 1) ∧ s.own.side = .X ∧ s.vt.isSome ∧ s.h.x.vstart = 0 ∧ isQ 1 = false ∧ s.own.cut = none ∧
      s.h.tr.shEn = true ∧ s.own.upset = .shadow 3 p.1 ∧ s.vactive (s.vt.getD default) 0 3 = true ∧ s.h.tr.smode = false ∧
      s.coreOf s.own.cur = 0 ∧ (s.coreNo 0).laneOf 64 3 = 3 ∧ ((s.coreNo 0).div.length = 2 ↔ p.2.2.2 = true)) ∧
    (demoShadow 0 0xFFFF0000 []).coreNo 0 = { (demo .X).coreNo 0 with lanemap := 0xFFFF0000 } ∧
    ((demoShadow 0 0xFFFF0000 []).coreNo 0).lanes = 16 ∧ ((demoShadow 0 0 []).coreNo 0).lanes = 32 := by decide +kernel

theorem witness_PlaneResults :
    let s := demoV 0x14
    vrdy s (.vpsplit 8 4 0 .e8 2) [.v 4] none (some 8) ∧ vrdy s (.vpjoin 8 4 1 .e11 3) [.v 4, .v 8] none (some 8) ∧
    vrdy s (.vptrunc 8 28 0 .e11 0) [.v 28] none (some 8) ∧ vrdy s (.vprnd 28 4 0 .e8 1) [.v 4] none (some 28) ∧
    ((0x7F800001 / 2 ^ Fam.e8.lo 0 * 2 ^ Fam.e8.lo 0) % 2 ^ 31 / 2 ^ fmt32.fb = 2 ^ fmt32.eb - 1 ∧ 0x7F800001 < 2 ^ Fam.e8.width) := by decide +kernel

theorem witness_BlockFormatResults :
    (mxScale (.fin false 3 1) = 0 ∧ 0 < 3) ∧ vrdy (demoV 0x13) (.vqmx 1 4 1) [.v 4] none none ∧
    vrdy (demoV 0x13) (.vdqmx 4 1 2 0) [.v 1, .v 2] none (some 4) := by decide +kernel

theorem witness_OptimiserResults :
    vrdy (demoV 0x53) (.vpacc 4 1 0 3) [.v 1, .v 4] none (some 4) ∧ vrdy (demoV 0x14) (.vpacc 4 1 0 0) [.v 1, .v 4] none (some 4) ∧
    vrdy (demoV 0x13) (.vadamw 4 1 26 0) [.v 1, .v 26, .v 4, .v 27] none (some 4) ∧ vrdy (demoV 0x14) (.vsgdm 4 1 2 0) [.v 1, .v 2, .v 4] none (some 4) ∧
    ((match fmt64.dec ((demoV 0x14).h.csr.opt fmt64).b1 with | .fin .. => true | _ => false) : Bool) = true := by
  decide +kernel

theorem witness_StepSums :
    (∃ x ∈ [FVal.fin true 1 0, .nan false false false], x.isNan = true) ∧
    (∀ x ∈ [FVal.fin true 1 0, .inf true], x.isNan = false) ∧ FVal.inf true ∈ [FVal.fin true 1 0, .inf true] ∧
    FVal.inf false ∉ [FVal.fin true 1 0, .inf true] ∧
    (∀ t ∈ [FVal.inf false, .inf true], t ∈ [FVal.nan false true false, .inf true, .inf false]) := by decide +kernel

theorem witness_MatrixResults :
    let s := demoV 0x14
    (∀ ty ∈ ([.f16, .bf16, .e4m3e4m3, .e4m3e5m2, .e5m2e4m3, .e5m2e5m2, .e2m1] : List MTy), ty ≠ .f64 ∧ rdy s (.mma 24 28 8 3 ty) [.v 28] none none) ∧
    s.own.side = .X ∧ s.own.upset = .none ∧ rdy s (.mma 27 0 16 0 .f64) [.v 0] none none ∧ rdy s (.mmap 26 0 8 0) [.v 0] none none := by decide +kernel

theorem witness_TileMoves :
    let s := demoV 0x14
    (let w : BitVec 32 := 0x76#7 ++ 24#5 ++ 1#10 ++ 0#2 ++ 0#3 ++ 9#5
     let r := { s with own := { s.own with ir := w } }
     (decode w).toOption = none ∧ r.own.ir = w ∧ r.canRun r.own.cur r.own.side = true ∧ r.h.calm r.own.side = true) ∧
    s.own.side = .X ∧ s.own.upset = .none ∧ 27 < (27 : Reg).toNat + 1 ∧ 27 < (28 : Reg).toNat + 0 ∧
    rdy s (.mmaz 26 .f32) [] none none ∧ rdy s (.mmaz 27 .f64) [] none none ∧ rdy s (.mtrans 16 8 .f16) [] none none := by decide +kernel

/-! ### Witnesses: copies, barriers, launches -/

/-- The words of a copy of one row of 64 bytes from 0x20100 to 0x20200. -/
def copyWords : List Nat := [0x20100, 0x20200, 0x100000040, 0, 0, 0, 0, 0]

theorem witness_CopyAcceptance :
    let i := Instr.cpy 11 9
    let ok := fun (s : State) => s.illegalSub i = none ∧ s.unstepped = true ∧ winClass s s.own.cur (s.h.readA 9) ≤ 2 ∧
      okAnd (checkElem s s.own.cur (s.h.readA 9) 64 needRW 0) (fun _ => true) ∧ s.h.mem.pend = []
    let blk := fun (s : State) => bytesNat (memBytes s.mem (placeOf s (s.h.readA 9) 64 needRW).key 64)
    let chk := fun (s : State) => s.copyCheck s.own.cur (s.h.readA 9) (blk s) (CopyBlock.ofNat (blk s))
    let rec_ := fun (r : HRec) (h : Hart) => { h with eng := { h.eng with recs := [(1, r)] } }
    (let s := demoB copyWords (fun h => { h with regs := { h.regs with a := h.regs.a.set 9 0x20004 } })
     okAnd (checkRange s s.own.cur 0x20004 64 needRW) (fun _ => true) ∧ (0x20004 : Word).toNat % 64 ≠ 0) ∧
    (let s := demoB copyWords (rec_ (demoRec 1 .moving 0 5))
     ok s ∧ (kvGet s.h.eng.recs 1).map HRec.over = some false ∧ s.seq.wait = none) ∧
    (let s := demoB copyWords
     ok s ∧ kvGet s.h.eng.recs 1 = none ∧ okAnd (chk s) Option.isNone) ∧
    (let s := demoB (copyWords.set 2 0x100000041 |>.set 4 160)
     ok s ∧ okAnd (chk s) (fun _ => true) = false) ∧
    (let s := demoB (copyWords.set 4 (1 * 2 ^ 58)) (fun h => { rec_ (demoRec 1 .moving 0 5) h with eng := { (rec_ (demoRec 1 .moving 0 5) h).eng with lastSeq := 1, cpys := 1 } })
     ok s ∧ okAnd (chk s) (fun p => p.map HRec.over == some false) ∧ ∀ q ∈ s.h.eng.recs, q.2.seq ≠ 2) := by decide +kernel

/-- The A side with a handle in a9 that names SEQ 1 of the hart itself. -/
def demoHd (recs : List (Nat × HRec)) (now : Nat) : State :=
  { demoA (word (2 ^ 40 + 1)) 0 (fun h => { h with eng := { h.eng with lastSeq := 5, recs := recs } }) with now := now }

/-- Whether the handle in a9 is the hart's own. -/
def ownHd (s : State) : Bool :=
  let v := s.h.readA 9
  v.extractLsb' 48 16 == 0 && v.extractLsb' 32 6 == 0 && (v.extractLsb' 40 8).toNat == s.own.cur.slot &&
    (v.extractLsb' 38 2).toNat == s.own.cur.idx && v.extractLsb' 0 32 != 0 && decide ((v.extractLsb' 0 32).toNat ≤ s.h.eng.lastSeq)

/-- State, status and due date of the record that it names. -/
def stHd (s : State) : Option (HState × Nat × Nat) := (s.cmd (.hart s.own.cur 1)).map (fun r => (r.st, r.status, r.due))

theorem witness_HandleResults :
    (demoHd [] 0).own.side = .A ∧ (demoHd [] 0).unstepped = true ∧ ownHd (demoA 0 0) = false ∧
    (ownHd (demoHd [] 0) = true ∧ stHd (demoHd [] 0) = none) ∧
    (∀ p ∈ ([(.done, 0, 5, 9), (.failed, 4, 5, 9), (.failed, 1, 5, 9), (.moving, 0, 5, 4), (.moving, 0, 5, 5), (.moving, 0, 2 ^ 64 - 1, 5)] :
        List (HState × Nat × Nat × Nat)),
      let s := demoHd [(1, demoRec 1 p.1 p.2.1 p.2.2.1)] p.2.2.2
      ownHd s = true ∧ stHd s = some (p.1, p.2.1, p.2.2.1) ∧ s.seq.wait = none ∧ s.now = p.2.2.2) := by decide +kernel

/-- The A side with a9 = an arrived-byte object at 0x100 of its scratchpad whose phase byte is `x`, tag and count in a11 and a10. -/
def demoAb (x : Byte) (tag want : Word) (orphan : Bool) : State :=
  putBytes (demoA (spad 0x100) want (fun h => { h with
    regs := { h.regs with a := h.regs.a.set 11 tag }, csr := { h.csr with sticky := if orphan then 2 else 0 } })) (keySpad demoHart 0x10C) [x]

theorem witness_ArrivedByteObjects :
    let base := fun (s : State) => Memory.wf s.mem && Poison.wf s.poison && s.own.side == .A && s.unstepped &&
      windowOk s s.own.cur (s.h.readA 9) 16 && winClass s s.own.cur (s.h.readA 9) == 2 && (s.h.readA 9).toNat % 16 == 0 &&
      s.h.mem.pend.isEmpty && s.h.mem.pendLoad.isNone
    (base (demoAb 1 1 1 false) ∧ 0 < ((demoAb 1 1 1 false).h.readA 11).toNat ∧ ((demoAb 1 1 1 false).h.readA 10).toNat < 2 ^ 32 ∧
      (demoAb 1 1 1 false).own.defer = false) ∧
    (base (demoAb 0 0 1 false) ∧ (demoAb 0 0 1 false).h.readA 11 = 0) ∧ (base (demoAb 0 1 0 false) ∧ (demoAb 0 1 0 false).h.readA 10 = 0) ∧
    0 < ((demoAb 1 1 1 false).h.readA 10).toNat ∧ (base (demoAb 0 1 (2 ^ 32) false) ∧ 2 ^ 32 ≤ ((demoAb 0 1 (2 ^ 32) false).h.readA 10).toNat) ∧
    (base (demoAb 0 1 1 true) ∧ (demoAb 0 1 1 true).h.csr.sticky.getLsbD 1 = true) ∧
    (base (demoAb 3 1 1 false) ∧ (demoAb 3 1 1 false).h.csr.sticky.getLsbD 1 = false ∧
      (memGet (demoAb 3 1 1 false).mem (keySpad demoHart (gOff (spad 0x100)) + 12)) = 3) ∧
    (base (demoAb 2 1 1 false) ∧ memGet (demoAb 2 1 1 false).mem (keySpad demoHart (gOff (spad 0x100)) + 12) = 2 ∧ (demoAb 2 1 1 false).seq.wait.isNone = true) := by
  decide +kernel

theorem witness_BarriersAndSignals :
    let s := demo .A
    let two := putCar s (fun c => { c with size := 2, arrived := 0 })
    let late := putCar s (fun c => { c with size := 2, arrived := 1, phase := true })
    let sig := fun (v want : Nat) => putWords (demoA 0x20000 0 (fun h => { h with regs := { h.regs with a := h.regs.a.set 11 (word want) } })) 0 [v]
    s.unstepped = true ∧ s.own.side = .A ∧ (demo .X).own.side = .X ∧
    ((s.caravan s.own.cur).arrived &&& BitVec.ofNat 4 (2 ^ s.own.cur.idx) = 0 ∧ s.h.mem.pend = [] ∧ s.h.unfinished = [] ∧ (s.caravan s.own.cur).size = 1) ∧
    ((two.caravan two.own.cur).arrived &&& 1 = 0 ∧ two.h.mem.pend = [] ∧ two.h.unfinished = []) ∧
    ((late.caravan late.own.cur).arrived &&& 1 ≠ 0 ∧ late.seq.wait = none ∧ (late.caravan late.own.cur).phase ≠ late.h.wph) ∧
    ((s.caravan s.own.cur).phase = s.h.wph) ∧
    (reach (sig 5 5) 0x20000 8 needR ∧ (sig 5 5).psnAt (placeOf (sig 5 5) 0x20000 8 needR) 8 = false ∧
      bytesNat (memBytes (sig 5 5).mem (keyHbm 0x20000) 8) ≥ ((sig 5 5).h.readA 11).toNat % 2 ^ 63) ∧
    (bytesNat (memBytes (sig (2 ^ 63) 5).mem (keyHbm 0x20000) 8) ≥ 2 ^ 63 ∧ reach (sig (2 ^ 63) 5) 0x20000 8 needR) ∧
    (bytesNat (memBytes (sig 4 5).mem (keyHbm 0x20000) 8) < ((sig 4 5).h.readA 11).toNat % 2 ^ 63 ∧ (sig 4 5).seq.wait = none) ∧
    (reach (demoPsn 0) 0x20000 8 needR ∧ (demoPsn 0).psnAt (placeOf (demoPsn 0) 0x20000 8 needR) 8 = true) := by decide +kernel

/-- A launch descriptor for the code page: one caravan of one hart, no lease, or one lease entry. -/
def launchWords (lease : Nat) : List Nat :=
  [0x10000, 0x1000, 0, 0x0001000000000001 + lease * 2 ^ 51, 0, 1, 0, 1, 0, 0, 0, 0, 0, 0, 0, 0]

/-- The A side with a launch descriptor in its scratchpad. -/
def demoL (ws : List Nat) : State :=
  putBytes (demoB [] (fun h => { h with regs := { h.regs with a := h.regs.a.set 9 (spad 0x80) } })) (keySpad demoHart 0x80)
    (ws.flatMap (fun w => natBytes w 8))

theorem witness_LaunchResults :
    let i := Instr.launch 11 9
    let raw := fun (s : State) => s.readDesc s.own.cur (s.h.readA 9)
    let base := fun (s : State) => s.illegalSub i = none ∧ s.unstepped = true ∧ winClass s s.own.cur (s.h.readA 9) ≠ 6 ∧ s.h.mem.pend = []
    (let s := demoL (launchWords 0)
     base s ∧ okAnd (raw s) (fun r => r.bad == none && uncovered s.h (s.sliceOf s.own.cur).desc r.desc == none && !r.desc.dieV) ∧
     s.dieTakes s.own.cur.die = true) ∧
    (let s := demoL ((launchWords 0).set 5 0)
     base s ∧ okAnd (raw s) (fun r => r.bad == some 40)) ∧
    (let s := demoL (launchWords 1 ++ [0x101, 0x40000])
     base s ∧ okAnd (raw s) (fun r => r.bad == none && uncovered s.h (s.sliceOf s.own.cur).desc r.desc == some 0)) ∧
    (let s := { demoL (launchWords 0) with dev := State.reset.dev }
     base s ∧ okAnd (raw s) (fun r => r.bad == none && uncovered s.h (s.sliceOf s.own.cur).desc r.desc == none) ∧
     s.dieTakes s.own.cur.die = false ∧ s.seq.wait = none) := by decide +kernel

/-! ### Witnesses: meshes and bazaars -/

/-- What MOPEN reads of a descriptor at 0x80 of the scratchpad. -/
def descOk (s : State) (n : Nat) : Bool :=
  okAnd (checkElem s s.own.cur (spad 0x80) 64 needR 0) (fun p => bytesNat (memBytes s.mem p.key 64) == n) && (MeshDesc.ofNat n).bad n == none &&
    s.meshRanges s.own.cur (MeshDesc.ofNat n) == none

theorem witness_MeshInstructions_open :
    let s := fun (ws roots : List Nat) => putWords (demoBlk (spad 0x80) 0 ws) 0x100 roots
    let good := s (meshWords true) (List.replicate 4 (2 ^ 27))
    let bad := s (meshWords true) [5, 2 ^ 27, 2 ^ 27, 2 ^ 27]
    let built := s (meshWords false) (List.replicate 4 (2 ^ 27))
    (Memory.wf good.mem = true ∧ Poison.wf good.poison = true ∧ good.unstepped = true ∧ good.own.side = .A ∧ good.h.mem.pend = [] ∧
      winClass good good.own.cur (good.h.readA 9) ≤ 2) ∧
    ((MeshDesc.ofNat (natOf ((meshWords true).set 0 0x21001))).bad (natOf ((meshWords true).set 0 0x21001)) = some 0) ∧
    (descOk good (natOf (meshWords true)) = true ∧ good.meshes.isEmpty ∧ (good.freeNumbers 0).length = 64 ∧
      badFace false (good.readRoots 1 (MeshDesc.ofNat (natOf (meshWords true)))) = none ∧ bitsOf (natOf (meshWords true)) 217 217 = 1) ∧
    (descOk bad (natOf (meshWords true)) = true ∧ badFace false (bad.readRoots 1 (MeshDesc.ofNat (natOf (meshWords true)))) = some (0, 0)) ∧
    (descOk built (natOf (meshWords false)) = true ∧ bitsOf (natOf (meshWords false)) 217 217 ≠ 1 ∧ (built.builtObj 1 (MeshDesc.ofNat (natOf (meshWords false)))).isNone) ∧
    ((withMesh good).meshes.find? (fun m => m.1 / 64 == 0 && m.2.ctx == 1 && m.2.desc.obj == 0x21000)).isSome ∧
    (let full := { good with meshes := (List.range 64).map (fun n => (n, { demoMesh with ctx := 2 })) }
     (full.meshes.find? (fun m => m.1 / 64 == 0 && m.2.ctx == 1 && m.2.desc.obj == 0x21000)).isNone ∧ full.freeNumbers 0 = []) := by decide +kernel

theorem witness_MeshInstructions_read :
    (okAnd ((demoBlk 5 0 []).meshAt 5) (fun _ => true) = false ∧ (demoBlk 5 0 []).illegalSub (.mnbr 28 9 10) = none ∧
      (demoBlk 5 0 []).illegalSub (.mmark 9 10) = none) ∧
    (let s := putBytes (withMesh (demoBlk 0 (word (8 * 2 ^ 32)) [])) (keyHbm 0x21000) [1]
     okAnd (s.meshAt (s.h.readA 9)) (fun m => m.1 == 0 && !s.objOk m.2 && !s.pagesKept m.2 (recordPages m.2 demoForest []) &&
       !s.pagesKept m.2 (streamPages m.2 demoForest true 0 0 8) && !s.pagesKept m.2 (streamPages m.2 demoForest false 0 0 8)) ∧
     s.illegalSub (.mnbr 28 9 10) = none ∧ s.h.a.vstart = 0 ∧
     (s.h.readA 10).toNat / 2 ^ 32 ≤ 2048) ∧
    (let s := withMesh (demoBlk 0 (word (8 * 2 ^ 32)) [])
     okAnd (s.meshAt (s.h.readA 9)) (fun m => m.1 == 0 && s.pagesKept m.2 (streamPages m.2 demoForest true 0 0 8)) ∧ s.illegalSub (.mnbr 28 9 10) = none ∧
     (s.h.readA 10).toNat / 2 ^ 32 ≤ cellsPer false true ∧ s.h.a.vstart = 0 ∧ (s.h.q.vload[qNo 28]).items.length < 8 ∧ isQ 28 = true) ∧
    (let s := withMesh (demoBlk 0 (word (1 * 2 ^ 32)) [] (fun h => { h with regs := { h.regs with a := h.regs.a.set 11 (spad 0x400) } }))
     okAnd (s.meshAt (s.h.readA 9)) (fun m => m.1 == 0 && s.pagesKept m.2 (streamPages m.2 demoForest false 0 0 1)) ∧ s.illegalSub (.mcell 11 9 10) = none ∧ isQ 11 = false ∧
     winClass s s.own.cur (s.h.readA 11) = 2 ∧ checkOnly s s.own.cur (s.h.readA 11) (1 * (16 * recsPer false false)) needW = none) ∧
    (let s := withMesh (demoBlk 0 0x20400 [])
     s.pagesKept demoMesh (recordPages demoMesh demoForest []) = true ∧ s.checkLocal s.own.cur (s.h.readA 10) (countOf demoForest.owners 0) needR = none) := by decide +kernel

theorem witness_MeshCommands :
    let blk := fun (op : MeshOp) => match op with | .cut => [0, 0x20000, 0, 0, 0, 0, 0, 0] | _ => [0, 0, 0, 0, 0, 0, 0, 0]
    ∀ p ∈ ([(.madapt 11 9 10, .adapt), (.mcut 11 9 10, .cut), (.mmig 11 9 10, .mig), (.mhalo 11 9 10, .halo)] : List (Instr × MeshOp)),
      let s := withMesh (demoBlk 0 (spad 0x80) (blk p.2))
      let n := natOf (blk p.2)
      s.unstepped = true ∧ s.own.side = .A ∧ s.h.mem.pend = [] ∧ okAnd (s.meshAt (s.h.readA 9)) (fun m => m.1 == 0) ∧
      winClass s s.own.cur (s.h.readA 10) ≤ 2 ∧ s.h.eng.recs = [] ∧ s.illegalSub p.1 = none ∧
      okAnd (checkElem s s.own.cur (spad 0x80) 64 needRW 0) (fun q => bytesNat (memBytes s.mem q.key 64) == n) ∧
      opBad p.2 demoMesh n = none ∧ s.opRanges s.own.cur p.2 demoMesh n = none ∧ opBad p.2 demoMesh (n + 2 ^ 511) = some 56 := by decide +kernel

/-- Blocks of the bazaar commands over no element. -/
def bazWords : BazOp → List Nat
  | .hist => [0, 0x20000, 0x20100, 0, 0, 2 ^ 32, 0, 0]
  | .scan => [0, 0x20000, 0x20100, 0, 0, 0, 0, 0]
  | .topk => [0, 0x20000, 0x20100, 0x20200, 0, 2 ^ 32, 1, 0]
  | .route => [0, 0x20000, 0x20100, 0x20200, 0x20300, 2 ^ 32, 1, 0]
  | .color => [0, 0x20000, 0x20100, 0x20200, 0x20300, 2 ^ 32, 1, 0x20400]
  | .seg => [0, 0x20000, 0x20100, 0x20200, 0, 0, 0, 0]

theorem witness_BazaarCommands :
    (∀ p ∈ ([(.bhist 11 9, .hist), (.bscan 11 9, .scan), (.btopk 11 9, .topk), (.broute 11 9, .route), (.bcolor 11 9, .color), (.bseg 11 9, .seg)] :
        List (Instr × BazOp)),
      let s := demoBlk (spad 0x80) 0 (bazWords p.2)
      let n := natOf (bazWords p.2)
      s.unstepped = true ∧ s.own.side = .A ∧ s.h.mem.pend = [] ∧ winClass s s.own.cur (s.h.readA 9) ≤ 2 ∧ s.h.eng.recs = [] ∧ s.illegalSub p.1 = none ∧
      okAnd (checkElem s s.own.cur (spad 0x80) 64 needRW 0) (fun q => bytesNat (memBytes s.mem q.key 64) == n) ∧ (s.bazQueue 0).length < 16 ∧
      s.bazBad s.own.cur (BazJob.ofNat p.2 (spad 0x80) n) n = none ∧ s.bazRanges s.own.cur (BazJob.ofNat p.2 (spad 0x80) n) = none ∧
      s.bazBad s.own.cur (BazJob.ofNat p.2 (spad 0x80) (n + 2 ^ 345)) (n + 2 ^ 345) = some 40) ∧
    (let s := demoBlk (spad 0x80) 0 (bazWords .scan) (fun h => { h with eng := { h.eng with lastSeq := 16, recs := (List.range' 1 16).map (fun n => (n, demoRec n .moving 0 5)) } })
     let s := { s with bazs := [(0, (List.range' 1 16).map (CmdId.hart demoHart))] }
     (s.bazQueue (s.coreOf s.own.cur / 4)).length ≥ 16 ∧ s.seq.wait = none ∧ kvGet s.h.eng.recs 17 = none) := by decide +kernel

/-! ### Witnesses: events -/

/-- The A side waiting in an instruction since 0, the almanac at `now`. -/
def demoWait (i : Instr) (q : Option (Nat × Bool)) (limit : Option Nat) (now : Nat) (f : Hart → Hart := id) : State :=
  { demoB [7] (fun h => f { h with a := { h.a with wait := some ⟨i, q, 0, limit, none⟩ } }) with now := now }

theorem witness_WaitEvents :
    let on := fun (s : State) (i : Instr) => s.canRun demoHart .A = true ∧ (s.hart demoHart).a.wait.map Wait.instr = some i ∧
      ({ s.actAs demoHart .A with own := { (s.actAs demoHart .A).own with ir := encode i } } : State).unstepped = true
    (on (demoWait .wfe none (some 5) 4 (fun h => { h with event := true })) .wfe ∧ (4 : Nat) < 0 + 5) ∧
    (on (demoWait .wfe none (some 5) 5) .wfe ∧ (demoWait .wfe none (some 5) 5).h.event = false) ∧
    (on (demoWait (.barw 0) none (some 5) 4) (.barw 0) ∧ ((demoWait (.barw 0) none (some 5) 4).caravan demoHart).phase = (demoWait (.barw 0) none (some 5) 4).h.wph) ∧
    (let s := demoWait (.sigw 11 9 0) none (some 5) 4
     on s (.sigw 11 9 0) ∧ reach s (s.h.readA 9) 8 needR ∧ s.psnAt (placeOf s (s.h.readA 9) 8 needR) 8 = false ∧
     bytesNat (memBytes s.mem (placeOf s (s.h.readA 9) 8 needR).key 8) ≥ (s.h.readA 11).toNat % 2 ^ 63) ∧
    (let s := demoWait (.waitd 9) none none 5 (fun h => { h with
       regs := { h.regs with a := h.regs.a.set 9 (word (2 ^ 40 + 1)) }, eng := { h.eng with lastSeq := 1, recs := [(1, demoRec 1 .moving 0 5)] } })
     on s (.waitd 9) ∧ okAnd (s.lookup (s.h.readA 9)) (fun r => r.any (fun r => !r.over && decide (r.due ≤ s.now)))) ∧
    (let s := withMesh (demoWait (.mnbr 28 9 10) none none 5 (fun h => { h with
       regs := { h.regs with a := (h.regs.a.set 9 0).set 10 (word (1 * 2 ^ 32)) }, eng := { h.eng with gen := some 0 } }))
     on s (.mnbr 28 9 10) ∧ s.illegalSub (.mnbr 28 9 10) = none ∧ isQ 28 = true ∧ okAnd (s.meshAt (s.h.readA 9)) (fun m => m.1 == 0 && s.pagesKept m.2 (streamPages m.2 demoForest true 0 0 1)) ∧
     s.h.mem.pend = [] ∧ (s.h.readA 10).toNat / 2 ^ 32 ≤ 2048 ∧ s.h.a.vstart < (s.h.readA 10).toNat / 2 ^ 32 ∧
     (s.h.q.vload[qNo 28]).items.length < 8) ∧
    (let s := demoWait (.pops 11 28) (some (0x30, false)) (some 5) 6
     s.canRun demoHart .A = true ∧ (s.hart demoHart).calm .X = true ∧ (s.hart demoHart).stallOver s.now .A = some (0x30, false)) := by
  decide +kernel

/-- Waits whose limit of 5 has passed: BARA and BARW before the phase, WAITH on a moving copy, WAITAB on an object mid-phase; and
the same before the limit. -/
theorem witness_OtherWaitEvents :
    let on := fun (s : State) (i : Instr) => s.canRun demoHart .A && (s.hart demoHart).a.wait.map Wait.instr == some i &&
      ({ s.actAs demoHart .A with own := { (s.actAs demoHart .A).own with ir := encode i } } : State).unstepped &&
      s.h.mem.pend.isEmpty && s.h.mem.pendLoad.isNone && (s.hart demoHart).a.wait == some ⟨i, none, 0, some 5, none⟩
    (∀ now ∈ [4, 5],
      (let s := putCar (demoWait .bara none (some 5) now) (fun c => { c with arrived := 1 })
       on s .bara = true ∧ (s.caravan demoHart).arrived &&& 1 ≠ 0 ∧ s.now = now) ∧
      (let s := putCar (demoWait (.barw 0) none (some 5) now) (fun c => { c with phase := true })
       on s (.barw 0) = true ∧ (s.caravan demoHart).phase ≠ s.h.wph) ∧
      (let s := demoWait (.waith 9 10) none (some 5) now (fun h => { h with
         regs := { h.regs with a := h.regs.a.set 9 (word (2 ^ 40 + 1)) }, eng := { h.eng with lastSeq := 1, recs := [(1, demoRec 1 .moving 0 50)] } })
       on s (.waith 9 10) = true ∧ okAnd (s.lookup (s.h.readA 9)) (fun r => r.any (fun r => !r.over))) ∧
      (let s := putBytes (demoWait (.waitab 9 10) none (some 5) now (fun h => { h with regs := { h.regs with a := h.regs.a.set 9 (spad 0x100) } }))
         (keySpad demoHart 0x10C) [1]
       on s (.waitab 9 10) = true ∧ okAnd (s.objAt (s.h.readA 9)) (fun o => o == 0x100) ∧ s.h.csr.sticky.getLsbD 1 = false ∧
       (memGet s.mem (keySpad demoHart 0x10C)).getLsbD 0 ≠ (memGet s.mem (keySpad demoHart 0x10C)).getLsbD 1)) ∧
    ¬(0 + 5 ≤ 4) ∧ 0 + 5 ≤ 5 := by
  decide +kernel

theorem witness_LateAccesses :
    let e : Entry := { Entry.zero with visible := false }
    let v : Entry := { Entry.zero with visible := true }
    let st : PendStore := ⟨7, [⟨keyHbm 0x20000, whole [1, 2], .clear⟩, ⟨keyHbm 0x20008, whole [3], .clear⟩], none, .plain, false, false, none, []⟩
    let rd : PendStore := ⟨8, [⟨keyHbm 0x20000, whole [1, 2], .clear⟩], some 2, .plain, false, false, none, []⟩
    let late := fun (l : PendLoad) => demoH .A (fun h => { h with mem := { h.mem with pendLoad := some l } })
    (Memory.wf (demo .A).mem = true ∧ Poison.wf (demo .A).poison = true ∧ (kvGet (demo .A).harts demoHart).isSome ∧ (demo .A).dev.warm = none) ∧
    (((demoH .A (fun h => { h with q := { h.q with vload := h.q.vload.set 1 ⟨0, [v, e, e], none, none⟩ } })).h.q.vload[four 1]).items.map Entry.visible = [true, false, false] ∧
      v.visible = true ∧ e.visible = false) ∧
    (∀ p ∈ [st, rd], (demoH .A (fun h => { h with mem := { h.mem with pend := [p] } })).h.mem.pend.map PendStore.id = [p.id] ∧ p.kind = .plain ∧ p.more = none ∧ (demo .A).h.overAll p.cmds = true) ∧
    (∀ ahead ∈ [none, some ⟨(demo .A).h.a, (demo .A).h.x, (demo .A).h.regs, (demo .A).h.q, (demo .A).h.csr, none⟩],
      let s := late ⟨.ldw 11 9 0, 0x20000, keyHbm 0x20000, 4, false, 0, ahead⟩
      s.h.mem.pendLoad.isSome ∧ s.h.mem.pend = [] ∧ s.unstepped = true ∧ (keyHoldsPoison (keyHbm 0x20000) && poisoned s.poison (keyHbm 0x20000) 4) = false) ∧
    (let s := { late ⟨.ldw 11 9 0, 0x20000, keyHbm 0x20000, 4, false, 0, none⟩ with poison := [keyHbm 0x20000 / 4] }
     (keyHoldsPoison (keyHbm 0x20000) && poisoned s.poison (keyHbm 0x20000) 4) = true) := by
  decide +kernel

/-- The job of `demoRec`, changed. -/
def demoJob (f : CopyJob → CopyJob) (r : HRec) : HRec :=
  match r.job with | .copy j => { r with job := .copy (f j) } | _ => r

/-- A hart whose copy with SEQ 1 is under way. -/
def demoCopy (f : CopyJob → CopyJob) : State :=
  demoB [] (fun h => { h with eng := { h.eng with lastSeq := 1, recs := [(1, demoJob f (demoRec 1 .moving 0 5))] } })

/-- What holds of the copy of `demoCopy`. -/
def copyIs (s : State) (p : HRec → CopyJob → Bool) : Bool :=
  match s.cmd (.hart demoHart 1) with
  | some r => r.st == .moving && s.dev.warm.isNone && (match r.job with | .copy j => p r j | _ => false)
  | none => false

/-- The harts whose arrivals a copy of `demoCopy` counts, and the objects. -/
def countsAt (s : State) (tag : Nat) : Bool :=
  copyIs s (fun _ j => j.blk.abv && arrivalHarts s demoHart j.blk == [0] && decide (j.blk.aboff + 16 ≤ 2 ^ 20) &&
    bytesNat (memBytes s.mem (keySpad demoHart j.blk.aboff) 4) == tag && decide (j.landed < j.blk.total) && decide (j.rowOff < j.blk.len) && s.portsUp j && s.rowUp (.hart demoHart 1) j j.rowNo)

theorem witness_CopyEvents :
    let win : RWin := { blmask := 1, rkey := 1, eport := 0, w := true, r := true, via := false, peer := 3, len := 4096, base := 0 }
    let ready := fun (s : State) (p : CopyJob → Bool) => copyIs s (fun _ j => decide (j.landed < j.blk.total) && decide (j.rowOff < j.blk.len) &&
      s.portsUp j && s.rowUp (.hart demoHart 1) j j.rowNo && p j) && s.own.upset == .none
    let remote := fun (d : Nat) => let s := demoCopy (fun j => { j with win := some win, blk := { j.blk with src := spad 0x300, dst := spad 0x200, rdir := d } })
      { s with dev := { s.dev with feat := 15 } }
    let counted := fun (tag : BitVec 32) => demoCopy (fun j => { j with blk := { j.blk with src := spad 0x300, dst := spad 0x200, abv := true, aboff := 0x100, abtag := tag } })
    (Memory.wf (demoCopy id).mem = true ∧ Poison.wf (demoCopy id).poison = true ∧ (demoCopy id).h.eng.recs.length = 1) ∧
    ready (demoCopy (fun j => { j with blk := { j.blk with src := spad 0x300, dst := spad 0x200 } })) (fun j => j.blk.rdir == 0 && j.blk.mcast == 0 && !j.blk.abv) = true ∧
    ready (demoCopy (fun j => { j with blk := { j.blk with src := spad 0x300, dst := spad 0x200, mcast := 3 } })) (fun j => j.blk.receivers.length == 2) = true ∧
    ready (remote 1) (fun j => j.blk.rdir == 1) = true ∧ ready (remote 2) (fun j => j.blk.rdir == 2) = true ∧
    (countsAt (putBytes (counted 5) (keySpad demoHart 0x100) [5]) 5 = true ∧ countsAt (counted 5) 0 = true ∧ countsAt (counted 0) 0 = true) ∧
    (∀ ps ∈ [true, false], copyIs (demoCopy (fun j => { j with rowNo := 1, psnOut := ps })) (fun _ j => decide (j.landed ≥ j.blk.total) && j.psnOut == ps && !j.blk.cmp)) ∧
    copyIs (demoCopy (fun j => { j with rowNo := 1, blk := { j.blk with cmp := true, want := 9 } })) (fun r j => decide (j.landed ≥ j.blk.total) && j.blk.cmp && r.sumNow != j.blk.want) ∧
    (copyIs (remote 1) (fun r j => j.win.isSome && !r.unbooked && j.cause == 0) ∧ (remote 1).crossing (.bl 0) = [.hart demoHart 1]) ∧
    (∀ n ∈ [4, 5], let s := { remote 1 with now := 320, books := [⟨.bl 0 true, n, 64, .hart demoHart 1⟩] }
     s.books.any (fun b => b.who == .hart demoHart 1 && portHas (.bl 0) b.res && b.slot == s.now / 64) = (n == 5)) ∧
    (let s := { remote 1 with now := 320, books := [⟨.port 3 true, 4, 64, .hart demoHart 1⟩] }
     let s := s.setCore 3 { s.coreNo 3 with sag := true, slowAt := some 200 }
     (s.coreNo 3).slowAt = some 200 ∧ (s.coreNo 3).heat = false ∧ copyIs s (fun r j => !r.unbooked && j.cause == 0) ∧
     s.books.any (fun b => b.who == .hart demoHart 1 && b.onPort 3 && decide (200 / 64 ≤ b.slot) && decide (b.slot ≤ s.now / 64)) = true) ∧
    ((demoCopy id).exporter ⟨3, 1, 0x20000, 2, some [1, 2]⟩ = none) ∧
    (let s := putSlice (demoCopy id) (fun x => { x with desc := { x.desc with leases := [⟨0x20000, 0x1000, false, false, false, true, true⟩] } })
     let s := { s with ctxs := kvSet s.ctxs 1 { s.ctxNo 1 with expts := [(0, #v[0x20000, 0x1000, word (2 ^ 32 + 3 * 2 ^ 14 + 0xC00), 0])] } }
     (∀ wr ∈ [some [1, 2], none], s.exporter ⟨3, 1, 0x20000, 2, wr⟩ = some 1) ∧ translate s 1 0x20000 needW = some (keyHbm 0x20000)) := by decide +kernel

/-- A record of a mesh command of partition and mesh `n`. -/
def meshRec (op : MeshOp) (n : Nat) (f : MeshJob → MeshJob) : HRec :=
  { demoRec (n + 1) .moving 0 5 with
    job := .mesh (f { block := spad 0x80, op := op, num := n, round := 1, acq := false, rel := false, scope := 0, addr := 0x20000, cap := 64,
                      fmask := 0, marks := some 0x20000 }) }

/-- A round of one command per partition of one forest, changed. -/
def demoRound (ops : List MeshOp) (g : Round → Round) (fo : Forest → Forest := id) (f : MeshJob → MeshJob := id) : State :=
  let n := ops.length
  let s := withMesh (demoB [0, 0] (fun h => { h with
    eng := { h.eng with lastSeq := n, recs := ops.zipIdx.map (fun o => (o.2 + 1, meshRec o.1 o.2 f)) } }))
  { s with
    forests := [(0, fo { demoForest with npart := n })]
    meshes := (List.range n).map (fun p => (p, { demoMesh with desc := { demoMesh.desc with part := p, npart := n } }))
    joins := [g ⟨0, 1, 0, 5, false, false, true, ops.zipIdx.map (fun o => (o.2, .hart demoHart (o.2 + 1), o.1))⟩] }

/-- `State.live` as a test, for commands of the demonstration hart. -/
def liveB (s : State) (n : Nat) : Bool :=
  (s.cmd (.hart demoHart n)).any (fun r => !r.over) && (s.hart demoHart).eng.recs.all (fun q => !q.2.awaits n)

theorem live_of_liveB {s : State} {n : Nat} (h : liveB s n = true) : s.live (.hart demoHart n) := by
  simp only [liveB, Bool.and_eq_true, Option.any_eq_true, List.all_eq_true, Bool.not_eq_true'] at h
  obtain ⟨⟨r, hr, ho⟩, ha⟩ := h
  exact ⟨demoHart, n, r, rfl, hr, ho, ha⟩

/-- What the statements on rounds ask of the round of `demoRound`; `late` says whether it commits. -/
def roundOk (s : State) (late : Bool) : Bool :=
  let R := s.joins.headD default
  s.dev.warm.isNone && decide (s.legs.map (·.1)).Nodup && s.roundReady R && !(s.parties R).isEmpty && decide ((s.parties R).map (·.id)).Nodup &&
    (s.parties R).all (fun p => match p.id with | .hart k n => k == demoHart && liveB s n | _ => false) &&
    s.joins.find? (fun r => !r.dead && r.joined.any (fun j => j.2.1 == CmdId.hart demoHart 1)) == some R &&
    (!late || (s.forestAt 0 0 == some R.forest && s.joins.find? (fun r => r.forest == R.forest && s.roundReady r && commits (s.parties r)) == some R))

/-- Whether all commands of the round are `op`, on unchanged objects. -/
def allOf (s : State) (op : MeshOp) : Bool :=
  (s.parties (s.joins.headD default)).all (fun p => p.job.op == op && s.objOk p.mesh) && (s.remotes (s.forest 0)).isEmpty

/-- An ended copy of the round, for partition 0. -/
def demoLeg (status : Nat) (psn : Bool) : Leg :=
  { (default : Leg) with forest := 0, round := 1, part := 0, data := [(0, psn)],
                         hrec := some (demoRec 1 (if status = 0 then .done else .failed) status 5) }

theorem witness_RoundsOfCutAndAdapt :
    (let s := demoRound [.cut, .adapt] id
     roundOk s false ∧ (s.parties (s.joins.headD default)).map (·.job.op) = [.cut, .adapt]) ∧
    (let s := putBytes (demoRound [.cut] id) (keyHbm 0x21000) [1]
     roundOk s false ∧ (s.parties (s.joins.headD default)).map (fun p => (p.job.op, s.objOk p.mesh)) = [(.cut, false)]) ∧
    (∀ psn ∈ [true, false], let s := { demoRound [.cut] id with poison := if psn then [keyHbm 0x20000 / 4] else [] }
     roundOk s false ∧ allOf s .cut ∧ (s.readWeights (s.forest 0) (s.parties (s.joins.headD default))).map (·.2) = [psn]) ∧
    (∀ x ∈ ([(true, 0, 64, 2 ^ 28), (false, 3, 64, 2 ^ 28), (false, 0, 0, 2 ^ 28), (false, 0, 64, 0), (false, 0, 64, 64)] : List (Bool × Nat × Nat × Nat)),
      let s := putBytes (demoRound [.adapt] id id (fun j => { j with cap := x.2.2.1 })) (keyHbm 0x20000) [BitVec.ofNat 8 x.2.1]
      let s := { s with poison := if x.1 then [keyHbm 0x20000 / 4] else [],
                        meshes := [(0, { demoMesh with desc := { demoMesh.desc with maxleaf := x.2.2.2 } })] }
      let ps := s.parties (s.joins.headD default)
      let ad := (s.forest 0).adapt [x.2.1]
      roundOk s true ∧ allOf s .adapt ∧ s.streaming 0 = false ∧ (s.readMarks (s.forest 0) ps).map (fun m => (m.1.toNat, m.2)) = [(x.2.1, x.1)] ∧
      ps.all (fun p => decide (countOf (ad.ws.map (fun w => w.leaf.owner)) p.part ≤ p.job.cap)) = decide (1 ≤ x.2.2.1) ∧
      ps.all (fun p => decide (countOf (ad.ws.map (fun w => w.leaf.owner)) p.part ≤ p.mesh.desc.maxleaf)) = decide (1 ≤ x.2.2.2) ∧
      ad.ws.length = 1 ∧ s.allLeaves 0 ad.ws.length ≤ 2 ^ 32) := by decide +kernel

theorem witness_RoundsOfMigAndHalo :
    (let s := demoRound [.mig] id
     roundOk s true ∧ allOf s .mig ∧ (s.forest 0).cut = none) ∧
    (let s := demoRound [.mig] id (fun fo => { fo with cut := some fo.owners })
     let ps := s.parties (s.joins.headD default)
     roundOk s true ∧ allOf s .mig ∧ (s.legsOf (s.joins.headD default)).isEmpty ∧ s.streaming 0 = false ∧ (s.forest 0).cut = some (s.forest 0).owners ∧
     ps.all (fun p => decide (countOf (s.forest 0).owners p.part ≤ p.mesh.desc.maxleaf) && (s.fieldsOf p.mesh).isEmpty)) ∧
    (let s := demoRound [.halo] id
     let ps := s.parties (s.joins.headD default)
     roundOk s false ∧ allOf s .halo ∧ (s.legsOf (s.joins.headD default)).isEmpty ∧
     ps.all (fun p => !s.haloSmall (s.forest 0) p && (s.haloLegs (s.joins.headD default) (s.forest 0) ps p).isEmpty)) ∧
    (∀ op ∈ [MeshOp.mig, .halo], ∀ x ∈ [(0, false), (0, true), (4, false)],
      let s := { demoRound [op] (fun r => { r with begun := true }) (fun fo => { fo with cut := some fo.owners }) with legs := [(0, demoLeg x.1 x.2)] }
      let ls := (s.legsOf (s.joins.headD default)).map (·.2)
      roundOk s (op == .mig) ∧ allOf s op ∧ s.streaming 0 = false ∧ ls = [demoLeg x.1 x.2] ∧ ls.all (fun l => l.hrec.any (·.over)) ∧
      legFailure ls = (if x.1 = 0 then none else some x.1) ∧ ls.any (fun l => l.data.any (·.2)) = x.2 ∧
      (s.parties (s.joins.headD default)).all (fun p => !s.haloSmall (s.forest 0) p)) ∧
    (let s := putWords (demoRound [.halo] (fun r => { r with begun := true }) id (fun j => { j with fmask := 1 })) 0x2000 [0x30000, 0]
     let s := { s with meshes := [(0, { demoMesh with desc := { demoMesh.desc with ftab := 0x22000, nfield := 1 } })] }
     roundOk s false ∧ allOf s .halo ∧ (s.parties (s.joins.headD default)).all (fun p => s.haloSmall (s.forest 0) p)) ∧
    (let s := { demoRound [.adapt] (fun r => { r with full := false, joined := [] }) with now := 5 }
     s.forestAt 0 0 = some 0 ∧ (s.joins.find? (fun r => r.forest == 0 && !r.dead && !r.begun && !r.full && r.limit != 0 && decide (s.now ≥ r.since + r.limit))).isSome ∧ s.parties (s.joins.headD default) = []) ∧
    (let s := { demoRound [.adapt, .cut] (fun r => { r with full := false, joined := r.joined.take 1 }) with now := 5 }
     s.forestAt 0 0 = some 0 ∧ (s.joins.find? (fun r => r.forest == 0 && !r.dead && !r.begun && !r.full && r.limit != 0 && decide (s.now ≥ r.since + r.limit))).isSome ∧ liveB s 1 ∧ (s.parties (s.joins.headD default)).length = 1) := by decide +kernel

/-- A bazaar command of a hart at the head of cluster 0's queue. -/
def demoBaz (op : BazOp) : State :=
  let s := demoBlk (spad 0x80) 0 (bazWords op) (fun h => { h with eng := { h.eng with lastSeq := 1, recs := [(1, { demoRec 1 .moving 0 5 with
    job := .baz (BazJob.ofNat op (spad 0x80) (natOf (bazWords op))) })] } })
  { s with bazs := [(0, [CmdId.hart demoHart 1])] }

theorem witness_EngineEvents :
    (∀ op ∈ [BazOp.hist, .scan, .topk, .route, .color, .seg], let s := demoBaz op
     s.dev.warm = none ∧ s.bazQueue 0 = [.hart demoHart 1] ∧ (s.cmd (.hart demoHart 1)).map HRec.st = some .moving ∧ liveB s 1 ∧
     s.bazPoisoned (.hart demoHart 1) (BazJob.ofNat op (spad 0x80) (natOf (bazWords op))) = false) ∧
    (let j := { BazJob.ofNat .scan (spad 0x80) (natOf (bazWords .scan)) with n := 1 }
     { demoBaz .scan with poison := [keyHbm 0x20000 / 4] }.bazPoisoned (.hart demoHart 1) j = true) ∧
    ([⟨.cut, some 0x17⟩, ⟨.cut, none⟩].findSome? Remote.status = some 0x17 ∧ [⟨.cut, some 0x99⟩, ⟨.halo, none⟩].findSome? Remote.status = none) ∧
    ([0, 2 ^ 32 - 1].length = 2 ∧ ∀ x ∈ [0, 2 ^ 32 - 1], x < 2 ^ 32) := by decide +kernel

/-! ### Where a command's outputs lie outside device memory, no table changes -/

theorem memBytes_congr {m m' : List Host.Cell} {a n : Nat} (h : ∀ y, a ≤ y → y < a + n → memGet m y = memGet m' y) :
    memBytes m a n = memBytes m' a n := by
  induction n generalizing a with
  | zero => rfl
  | succ n ih =>
    simp only [memBytes]
    rw [h a (Nat.le_refl a) (by omega), ih (fun y h1 h2 => h y (by omega) (by omega))]

theorem walkFrom_congr {m m' : List Host.Cell} (need : Need) (va : Nat) (h : ∀ y, y < spaceSize → memGet m y = memGet m' y)
    (ls : List (Nat × Nat × Bool × Nat)) (hl : ∀ l ∈ ls, l.2.1 ≤ 13) (table : Nat) (ht : table < 2 ^ 60) :
    walkFrom m need va ls table = walkFrom m' need va ls table := by
  induction ls generalizing table with
  | nil => rfl
  | cons l rest ih =>
    obtain ⟨sh, bits, ok, nx⟩ := l
    have hb : va / 2 ^ sh % 2 ^ bits < 2 ^ 13 :=
      Nat.lt_of_lt_of_le (Nat.mod_lt _ (Nat.two_pow_pos _)) (Nat.pow_le_pow_right (by decide) (hl _ (List.mem_cons_self ..)))
    have he : memBytes m (keyHbm (table + 8 * (va / 2 ^ sh % 2 ^ bits))) 8 = memBytes m' (keyHbm (table + 8 * (va / 2 ^ sh % 2 ^ bits))) 8 :=
      memBytes_congr (fun y _ h2 => h y (by unfold keyHbm spaceSize at *; omega))
    simp only [walkFrom, he]
    rw [ih (fun l hl' => hl l (List.mem_cons_of_mem _ hl')) _ (by omega)]

/-- Whether every key written lies outside device memory. -/
def aboveHbm (outs : Outs) : Bool := outs.all (fun o => match o.1 with | none => true | some y => decide (spaceSize ≤ y))

theorem ctxRoot_lt {s : State} (h : s.ctxs.all (fun p => decide (p.2.root < 2 ^ 60)) = true) (ctx : Nat) : (s.ctxNo ctx).root < 2 ^ 60 := by
  unfold State.ctxNo kvGetD
  generalize s.ctxs = l at h
  induction l with
  | nil => exact of_decide_eq_true (by rfl : decide (Ctx.reset.root < 2 ^ 60) = true)
  | cons p t ih =>
    simp only [List.all_cons, Bool.and_eq_true, decide_eq_true_eq] at h
    obtain ⟨k, v⟩ := p
    simp only [kvGet]
    split
    · exact h.1
    · exact ih h.2

theorem steady_of_aboveHbm {s : State} {outs : Outs} (hr : s.ctxs.all (fun p => decide (p.2.root < 2 ^ 60)) = true)
    (h : aboveHbm outs = true) : s.steady outs := by
  intro m hm ctx va need
  have hw : walkFrom m need va walkLevels (s.ctxNo ctx).root = walkFrom s.mem need va walkLevels (s.ctxNo ctx).root := by
    refine walkFrom_congr need va (fun y hy => hm y (fun o ho he => ?_)) _ (by decide) _ (ctxRoot_lt hr ctx)
    have := List.all_eq_true.mp h o ho
    simp only [he, decide_eq_true_eq] at this
    omega
  unfold Sys2Proof.Machine.translate
  have hc : ({ s with mem := m } : State).ctxNo ctx = s.ctxNo ctx := rfl
  rw [hc, hw]
  generalize walkFrom s.mem need va walkLevels (s.ctxNo ctx).root = w
  cases w <;> rfl

/-- The demonstration page as host memory. -/
def hosted (s : State) : State := { s with mem := memPut s.mem (keyHbm 0x110000) (whole (natBytes 0x37 8)) }

/-- Rounds and a command every output of which lies in host memory or in a scratchpad. -/
def steadyBaz : State := hosted (demoBaz .scan)
def steadyRound (op : MeshOp) : State := hosted (demoRound [op] id)

/-- The outputs of the scan. -/
def steadyBazOuts : Outs :=
  let j := BazJob.ofNat .scan (spad 0x80) (natOf (bazWords .scan))
  let d := steadyBaz.bazRun (.hart demoHart 1) j
  d.writes.flatMap (fun w => steadyBaz.outsAt (.hart demoHart 1) w.1 w.2) ++
    steadyBaz.blockOuts (.hart demoHart 1) j.block d.status (BitVec.ofNat 32 d.result) []

/-- The block fields of a round. -/
def steadyOuts (op : MeshOp) (fields : Party → List (Nat × Nat × Nat)) : Outs :=
  let s := steadyRound op
  (s.parties (s.joins.headD default)).flatMap (fun p => s.blockOuts p.id p.job.block 0 1 (fields p))

/-- What a committed adaptation writes beside them: the object of each partition, and its remap buffer. -/
def steadyRemap : Outs :=
  let s := steadyRound .adapt
  let ad := (s.forest 0).adapt [0]
  (s.parties (s.joins.headD default)).flatMap (fun p =>
    (List.range (p.mesh.desc.used (countOf (ad.ws.map (fun w => w.leaf.owner)) p.part))).map (fun o =>
      (translate s p.mesh.ctx (gVa p.mesh.desc.obj + o) needW, none)) ++ s.outsAt p.id p.job.addr (remapBytes ad p.part))

/-- Whether an address lies in a host page. -/
def hostUnit (s : State) (ctx va : Nat) : Bool :=
  match walkFrom s.mem needW (65536 * (va / 65536)) walkLevels (s.ctxNo ctx).root with | some (_, true, true) => true | _ => false

theorem walkFrom_unit (m : List Host.Cell) (need : Need) {w o : Nat} (ho : o < 65536)
    (ls : List (Nat × Nat × Bool × Nat)) (hl : ∀ l ∈ ls, 16 ≤ l.1) (table : Nat) :
    walkFrom m need (65536 * w + o) ls table = (walkFrom m need (65536 * w) ls table).map (fun r => (r.1 + o, r.2)) := by
  induction ls generalizing table with
  | nil => rfl
  | cons l rest ih =>
    obtain ⟨sh, bits, ok, nx⟩ := l
    obtain ⟨k, rfl⟩ : ∃ k, sh = 16 + k := ⟨sh - 16, by have : 16 ≤ sh := hl _ (List.mem_cons_self ..); omega⟩
    have hp : 2 ^ (16 + k) = 65536 * 2 ^ k := by rw [Nat.pow_add]
    have hq : (65536 * w + o) / 65536 = w := by omega
    have hd : (65536 * w + o) / 2 ^ (16 + k) = 65536 * w / 2 ^ (16 + k) := by
      rw [hp, ← Nat.div_div_eq_div_mul, ← Nat.div_div_eq_div_mul, hq, Nat.mul_div_cancel_left _ (by decide)]
    have hm : (65536 * w + o) % 2 ^ (16 + k) = 65536 * w % 2 ^ (16 + k) + o := by
      have h1 := Nat.div_add_mod (65536 * w + o) (2 ^ (16 + k))
      have h2 := Nat.div_add_mod (65536 * w) (2 ^ (16 + k))
      rw [hd] at h1; omega
    simp only [walkFrom, hd, hm, ih (fun l hl' => hl l (List.mem_cons_of_mem _ hl'))]
    repeat' split
    all_goals simp_all [Nat.add_assoc]

theorem translate_unit {s : State} {ctx va o : Nat} (h : hostUnit s ctx va = true) (ho : va % 65536 + o < 65536) :
    ∃ y, translate s ctx (va + o) needW = some (keyHost y) := by
  unfold hostUnit at h
  split at h
  · rename_i a hw
    refine ⟨a + (va % 65536 + o), ?_⟩
    have hu := walkFrom_unit s.mem needW (w := va / 65536) ho walkLevels (by decide) (s.ctxNo ctx).root
    rw [hw, show 65536 * (va / 65536) + (va % 65536 + o) = va + o by omega] at hu
    unfold Sys2Proof.Machine.translate
    rw [hu]
    rfl
  · cases h

theorem aboveHbm_unit {s : State} {ctx va n : Nat} (h : hostUnit s ctx va = true) (hn : va % 65536 + n ≤ 65536) :
    aboveHbm ((List.range n).map (fun o => (translate s ctx (va + o) needW, none))) = true := by
  unfold aboveHbm
  rw [List.all_map, List.all_eq_true]
  intro o ho
  obtain ⟨y, hy⟩ := translate_unit (o := o) h (by have := List.mem_range.mp ho; omega)
  simp only [Function.comp, hy, decide_eq_true_eq]
  exact Nat.le_add_right ..

theorem aboveHbm_steadyRemap : aboveHbm steadyRemap = true := by
  have h : let s := steadyRound .adapt
    let ad := (s.forest 0).adapt [0]
    ∀ p ∈ s.parties (s.joins.headD default), hostUnit s p.mesh.ctx (gVa p.mesh.desc.obj) = true ∧
      gVa p.mesh.desc.obj % 65536 + p.mesh.desc.used (countOf (ad.ws.map (fun w => w.leaf.owner)) p.part) ≤ 65536 ∧
      aboveHbm (s.outsAt p.id p.job.addr (remapBytes ad p.part)) = true := by decide +kernel
  unfold aboveHbm steadyRemap
  rw [List.all_flatMap, List.all_eq_true]
  intro p hp
  have := h p hp
  rw [List.all_append, Bool.and_eq_true]
  exact ⟨aboveHbm_unit this.1 this.2.1, this.2.2⟩

theorem witness_EngineEvents_steady_checks :
    steadyBaz.ctxs.all (fun p => decide (p.2.root < 2 ^ 60)) ∧ aboveHbm steadyBazOuts ∧
    (∀ op ∈ [MeshOp.cut, .mig, .adapt], (steadyRound op).ctxs.all (fun p => decide (p.2.root < 2 ^ 60)) ∧
      roundOk (steadyRound op) (op != .cut) ∧ allOf (steadyRound op) op ∧ aboveHbm (steadyOuts op (fun _ => [(16, 8, 0), (24, 4, 0), (32, 4, 0), (36, 4, 0)]))) := by
  decide +kernel

theorem witness_EngineEvents_steady :
    steadyBaz.steady steadyBazOuts ∧ (steadyRound .adapt).steady steadyRemap ∧
    ∀ op ∈ [MeshOp.cut, .mig, .adapt], (steadyRound op).steady (steadyOuts op (fun _ => [(16, 8, 0), (24, 4, 0), (32, 4, 0), (36, 4, 0)])) :=
  have h := witness_EngineEvents_steady_checks
  ⟨steady_of_aboveHbm h.1 h.2.1, steady_of_aboveHbm (h.2.2 _ (by decide)).1 aboveHbm_steadyRemap,
    fun op ho => steady_of_aboveHbm (h.2.2 op ho).1 (h.2.2 op ho).2.2.2⟩

/-- A booked copy between scratchpads, which keeps its due date (R274). -/
theorem witness_StepRunsTheEvent_promise :
    let s := demoCopy (fun j => { j with blk := { j.blk with src := spad 0x300, dst := spad 0x200 } })
    s.dev.warm = none ∧ CmdId.hart demoHart 1 ∈ s.allCmds ∧ s.promise (.hart demoHart 1) = some 5 ∧ s.now < 5 := by decide +kernel

/-! ### Witnesses: caravans, graphs, registers, the device -/

/-- Hart 0 of the demonstration caravan. -/
def demoKey (j : Nat) : HartKey := ⟨0, 1, j⟩

/-- The demonstration state with its caravan and its hart changed, at a time. -/
def demoC (f : Caravan → Caravan) (g : Hart → Hart) (now : Nat) : State := { putCar (demoB [] g) f with now := now }

theorem witness_CaravanEvents :
    let car := fun (s : State) (p : Caravan → Bool) => s.dev.warm = none ∧ (kvGet s.cars ⟨0, 1⟩).any p = true
    let stopped := fun (h : Hart) => { h with a := { h.a with stop := some .boundary }, x := { h.x with stop := some .boundary } }
    (let s := demoC (fun c => { c with budget := some 0, outAt := 7 }) id 9
     car s (fun v => v.st == .running && v.budget == some 0 && v.outAt == 7 && v.size == 1) ∧ (s.hart (demoKey 0)).calm .X = true ∧
     s.trapDue (demoKey 0) 7 = false ∧ (s.hart (demoKey 0)).tr.smode = false) ∧
    ((demoC id (fun h => { h with a := { h.a with wait := some ⟨.bara, none, 0, some 7, none⟩ } }) 9).trapDue (demoKey 0) 7 = true) ∧
    (let s := demoC (fun c => { c with st := .held }) id 9
     let t := { s with ctxs := kvSet s.ctxs 1 { s.ctxNo 1 with allow := 5 } }
     car s (fun v => v.st == .held) ∧ s.dev.repl = none ∧ (s.ctxNo 1).allow = 0 ∧ car t (fun v => v.st == .held) ∧ (t.ctxNo 1).allow ≠ 0) ∧
    (let s := demoC (fun c => { c with st := .stopping, preqAt := some 0 }) id 20000
     car s (fun v => v.st == .stopping && v.preqAt == some 0 && v.size == 1) ∧ s.now ≥ 0 + max 1 (s.hart (demoKey 0)).tr.pregrace.toNat ∧
     (s.hart (demoKey 0)).stopped = false ∧ (s.hart (demoKey 0)).mem.pendLoad.isNone ∧ (s.hart (demoKey 0)).mem.mid ≠ some false ∧
     s.trapDue (demoKey 0) (0 + max 1 (s.hart (demoKey 0)).tr.pregrace.toNat) = false) ∧
    (let s := demoC (fun c => { c with st := .stopping, preqAt := some 0 }) stopped 9
     car s (fun v => v.st == .stopping && !v.imaged && s.landed ⟨0, 1⟩ v) ∧ (s.hart (demoKey 0)).stopped = true) ∧
    car (demoC (fun c => { c with st := .saving, imaged := true }) stopped 9) (fun v => v.st == .saving && v.imaged) ∧
    (let s := demoC (fun c => { c with ended := 1 }) id 9
     car s (fun v => v.st == .running && s.carDone ⟨0, 1⟩ v) ∧ (s.sliceNo 1).st = .ready) ∧
    (let s := demoC id (fun h => { h with tr := { h.tr with smode := true }, trapAt := 0 }) 10000000
     car s (fun v => v.st == .running && v.size == 1) ∧ (s.hart (demoKey 0)).tr.smode = true ∧ (s.hart (demoKey 0)).tr.halted = false ∧
     (s.hart (demoKey 0)).trapAt + 10000000 ≤ s.now ∧ (s.sliceNo 1).st = .ready) ∧
    (let s := demoC (fun c => { c with st := .held, heldAt := 0 }) id 10000000
     car s (fun v => v.st == .held && decide (v.heldAt + 10000000 ≤ s.now)) ∧ (s.hart (demoKey 0)).mem.pendLoad.isNone ∧
     (s.sliceNo 1).desc.count ≤ (s.sliceNo 1).retired + 1 ∧ Memory.wf s.mem = true ∧ Poison.wf s.poison = true) ∧
    (let s := demoB []
     (s.onCore 0).any (fun p => p.1 == ⟨0, 1⟩ && p.2.2 == demoKey 0) ∧ s.coreHeld 5 = false) ∧
    (let s := demoB []
     ((s.setCore 5 { s.coreNo 5 with full := true }).coreNo 5).full = true ∧ ((s.setCore 5 { s.coreNo 5 with st := .drained }).coreNo 5).st = .drained) := by
  decide +kernel

theorem keyHbm_eq (a : Nat) : keyHbm a = a := rfl

theorem spaceSize_eq : spaceSize = 0x10000000000000000 := rfl

theorem hbm_bound {x n : Nat} (h : x < 2 ^ 20) (hn : n < 1024) :
    x * 0x100000 + n * 0x100000 + 0x100000 ≤ 0x10000000000000000 := by omega

theorem hbm_in_space {x n : Nat} (h : x < 2 ^ 20) (hn : n < 1024) : keyHbm (x * 0x100000 + n * 0x100000) + 0x100000 ≤ spaceSize := by
  rw [keyHbm_eq, spaceSize_eq]
  exact hbm_bound h hn

/-- The image of every hart of a slot lies in device memory (R369). -/
theorem image_in_space (k : HartKey) (n : Nat) (h : 4 * (k.slot - 1) + k.idx = n) (hn : n < 1024) : imageKey k + 0x100000 ≤ spaceSize := by
  unfold imageKey
  rw [h]
  exact hbm_in_space (Nat.mod_lt _ (Nat.two_pow_pos _)) hn

theorem witness_CaravanEvents_image : imageKey demoHart + 0x100000 ≤ spaceSize := image_in_space _ 0 rfl (by decide)

theorem witness_CaravanEvents_place :
    let s := { demoB [] with cars := [] }
    let s := putSlice s (fun x => { x with nextCar := 0, desc := { x.desc with shape := 1, count := 1, privsz := 1 } })
    (s.disp 0).quiesced = false ∧ s.unitUp (.cd 0) = true ∧ s.passOrder 0 = [1] ∧ (s.firstSaved 1).isNone ∧ (s.sliceNo 1).die = 0 ∧
    (s.freeTags 0).length = 255 ∧ (s.fit 0 1 1 []).isSome ∧ ((s.disp 0).allocate 1 1).isSome ∧
    (s.tryPlace 0 1 0).any (fun t => (t.passOrder 0).isEmpty) = true := by decide +kernel

/-- A graph of one node whose words stand at 0x20000. -/
def demoG (ws : List Nat) (f : Graph → Graph) : State :=
  { demoB ws with graphs := [(1, f (Graph.fresh 1 0 0x20000 0))] }

/-- What holds of the graph and of the node at which it stands (`State.nodeAt`). -/
def nodeIs (s : State) (p : Graph → Node → Bool) : Bool :=
  let gr := s.graph 1
  gr.st == .running && s.cpUp gr.io && decide (gr.pos < 2 ^ 24) &&
    forceNat (s.ctxNat gr.ctx (gr.base + word (64 * gr.pos)) 64) (fun n => !(Node.ofNat n).bad && p gr (Node.ofNat n))

theorem witness_SliceAndGraphEvents :
    (∀ p ∈ ([(.ending, false), (.done, false), (.failed, false)] : List (SliceState × Bool)),
      let s := { putSlice (demoB []) (fun x => { x with st := p.1 }) with now := 20000000 }
      Memory.wf s.mem = true ∧ Poison.wf s.poison = true ∧ s.dev.warm = none ∧ s.findSlice ⟨0, 1⟩ (fun x => x.st == p.1 && !x.reported) = some 1 ∧
      s.now ≥ (s.sliceNo 1).endAt + 20000000) ∧
    (let s := { putSlice (demoB []) (fun x => { x with st := .ending, dogged := true, who := .slot 3 }) with now := 10000000, cars := [] }
     s.findSlice ⟨0, 1⟩ (fun x => x.st == .ending && (decide (s.now ≥ x.endAt + 20000000) || (x.dogged && decide (s.now ≥ x.endAt + 10000000)))) = some 1 ∧
     s.carsOf 1 = [] ∧ (s.sliceNo 1).who = .slot 3) ∧
    (∀ st ∈ [RegState.host, .device, .leased, .toHost, .toDevice],
      let s := { demoB [] with regions := [((1, 0), ⟨st, 0, if st = RegState.toDevice then [.slice 1] else []⟩)] }
      (s.region 1 0).st = st ∧ s.graphs = [] ∧ s.legs = []) ∧
    (∀ x ∈ ([(2 + 1 * 2 ^ 16, true), (1 + 1 * 2 ^ 16, true), (2 + 9 * 2 ^ 16, false), (3 + 1 * 2 ^ 16, true)] : List (Nat × Bool)),
     let s := { demoB [] with queues := [(0, ⟨0x1000, 4, 1, 0⟩)] }
     let t := putBytes { s with dev := { s.dev with featSet := true } } (keyHost 0x1000) ([x.1, 0x20000, 0, 0, 0, 0, 0, 0].flatMap (fun w => natBytes w 8))
     (t.queue 0 0).head ≠ (t.queue 0 0).tail ∧ t.cpUp 0 = true ∧ t.dev.featSet = true ∧
     (let y := Slot.ofNat (bytesNat (memBytes t.mem (keyHost 0x1000) 64))
      y.signal.toNat % 8 = 0 ∧ y.ctx = x.1 / 2 ^ 16 ∧ y.kind = x.1 % 256 ∧ y.addr = 0x20000 ∧ t.ctxUp y.ctx = x.2)) ∧
    (∀ ctx ∈ [1, 9], let s := { demoB [] with subs := [(3, ⟨ctx, 0x20000, 5, some true⟩)] }
      (kvGet s.subs 3).map (fun b => (b.fin, b.signal)) = some (some true, 0x20000) ∧ (s.ctxNo ctx).valid = (ctx == 1)) := by decide +kernel

/-- A region that a 2 MiB leaf maps to device memory, on its way to the host. -/
theorem witness_SliceAndGraphEvents_move :
    let s := { demoB [] with mem := [(0x100000, 1), (0x100002, 0x11), (0x110000, 1), (0x110002, 0x12), (0x120000, 0x17)],
                             regions := [((1, 0), ⟨.toHost, 0, []⟩)] }
    (s.region 1 0).st = .toHost ∧ (s.ctxNo 1).root % 0x10000 = 0 ∧ (s.ctxNo 1).root < 2 ^ 56 ∧
    leafFrom s.mem (0 * 0x200000) walkLevels (s.ctxNo 1).root = some (0x120000, 21, 0, false) := by decide +kernel

/-- The demonstration state with region 0 of its context on its way to the host. -/
def demoMove : State := { demoB [] with regions := [((1, 0), ⟨.toHost, 0, []⟩)] }

theorem unitUp_of_lt {s : State} {u : RUnit} (hs : s.dev.ready = BitVec.allOnes 64) (h : unitBit u < 64) : s.unitUp u = true := by
  unfold State.unitUp
  rw [hs, BitVec.getLsbD_allOnes]
  exact decide_eq_true h

theorem demoMove_ready : demoMove.dev.ready = BitVec.allOnes 64 := rfl

/-- Of the moves of regions there is one, and it has a place (R257). -/
theorem witness_SliceAndGraphEvents_movePlace : demoMove.movePlace 1 0 = true := by
  have hp : demoMove.placed (moveEngine 1 0) = 0 := rfl
  have hm : demoMove.movesOn (moveEngine 1 0) = [(1, 0)] := by
    unfold State.movesOn
    rw [show demoMove.regions = [((1, 0), ⟨.toHost, 0, []⟩)] from rfl]
    simp
  unfold State.movePlace
  simp only [hp, hm]
  rfl

/-- Its path is up where every unit is ready, and is not where none is (R393). -/
theorem witness_SliceAndGraphEvents_moveUp : demoMove.moveUp 1 0 = true ∧
    ({ demoMove with dev := { demoMove.dev with ready := 0 } } : State).moveUp 1 0 = false := by
  refine ⟨?_, ?_⟩
  · unfold State.moveUp
    simp only [Bool.and_eq_true, List.all_eq_true, Bool.or_eq_true, decide_eq_true_eq]
    refine ⟨⟨⟨⟨unitUp_of_lt demoMove_ready ?_, fun n _ => ?_⟩, unitUp_of_lt demoMove_ready ?_⟩, unitUp_of_lt demoMove_ready ?_⟩,
      unitUp_of_lt demoMove_ready ?_⟩
    · dsimp only [unitBit, moveEngine]; omega
    · rcases Nat.lt_or_ge n 4 with h | h
      · exact .inr (unitUp_of_lt demoMove_ready (by dsimp only [unitBit]; omega))
      · exact .inl h
    all_goals dsimp only [unitBit]; omega
  · simp [State.moveUp, State.unitUp]

/-- Without graphs and topology copies every engine has a place. -/
theorem witness_SliceAndGraphEvents_places (ctx n : Nat) : (demoB []).placed (moveEngine ctx n) < 256 :=
  Nat.lt_of_le_of_lt (Nat.le_of_eq (show (demoB []).placed (moveEngine ctx n) = 0 from rfl)) (by decide)

/-- The state of a graph over a memory written out: the cells of the data page, then the two page tables (R140). -/
def demoT (cells : List Host.Cell) (f : Graph → Graph := id) : State :=
  { demoB [] with mem := cells ++ [(0x100000, 1), (0x100002, 0x11), (0x110000, 0x17)], graphs := [(1, f (Graph.fresh 1 0 0x20000 0))] }

theorem witness_SliceAndGraphEvents_signal :
    let s := demoT [(0x20000, 3), (0x20009, 1), (0x2000A, 2), (0x20010, 5)]
    nodeIs s (fun _ nd => nd.kind == 3) ∧ translate s 1 0x20100 needW = some (keyHbm 0x20100) := by decide +kernel

theorem witness_SliceAndGraphEvents_wait :
    let c : List Host.Cell := [(0x20000, 4), (0x20009, 1), (0x2000A, 2), (0x20010, 5), (0x20018, 7)]
    nodeIs (demoT (c ++ [(0x20100, 4)])) (fun gr nd => nd.kind == 4 && nd.value == 5 && gr.waiting.isNone) ∧
    nodeIs { demoT c (fun g => { g with waiting := some (0, 0) }) with now := 7 } (fun gr nd => nd.bounded && gr.waiting == some (0, 0) && nd.limit == 7) := by
  decide +kernel

theorem witness_SliceAndGraphEvents_branch :
    nodeIs (demoT [(0x20000, 5), (0x20004, 9), (0x20009, 1), (0x2000A, 2)]) (fun _ nd => nd.kind == 5 && nd.target == 9) ∧
    nodeIs (demoT [(0x20000, 6), (0x20004, 9), (0x20009, 1), (0x2000A, 2), (0x20010, 2)] (fun g => { g with counts := [(0, 1)] }))
      (fun gr nd => nd.kind == 6 && kvGetD gr.counts gr.pos 0 == 1 && nd.value == 2) ∧
    nodeIs (demoT []) (fun gr nd => nd.kind == 0 && gr.idle) := by decide +kernel

theorem witness_SliceAndGraphEvents_copy :
    let s := demoT [(0x20000, 2), (0x20001, 1), (0x20009, 1), (0x2000A, 2), (0x20101, 2), (0x20102, 2), (0x20109, 3), (0x2010A, 2), (0x20110, 64), (0x20114, 1)]
    nodeIs s (fun gr nd => nd.kind == 2 && gr.waiting.isNone && (kvGet gr.copies gr.issued).isNone && nd.sync &&
      forceNat (s.ctxNat 1 nd.addr 64) (fun n => s.graphBlockOk (.graph 1 0) 1 n (CopyBlock.ofNat n))) ∧
    ∀ cl < 16, s.placeFree (acceptEngine (.graph 1 0) 0 cl) = true := by decide +kernel

theorem witness_SliceAndGraphEvents_launch :
    let s := demoT [(0x20000, 1), (0x20009, 1), (0x2000A, 2), (0x20102, 1), (0x20109, 16), (0x20118, 1), (0x2011E, 1), (0x20128, 1), (0x20138, 1)]
    nodeIs s (fun gr nd => nd.kind == 1 && gr.waiting.isNone) = true ∧ (s.ctxDesc 1 0x20100).isSome = true := by decide +kernel

theorem witness_SliceAndGraphEvents_end :
    let s := { demoB [] with subs := [(3, ⟨1, 0, 0, some true⟩)] }
    (kvGet s.subs 3).map (fun b => (b.fin, b.signal)) = some (some true, 0) := by decide +kernel

theorem witness_RegisterWrites :
    let q := fun (hq : HostQueue) => { demo .A with queues := [(0, hq)] }
    (((q ⟨0x1000, 4, 0, 0⟩).queue 0 0).base ≠ 0 ∧ ((16 : Word).setWidth 32 - ((q ⟨0x1000, 4, 0, 0⟩).queue 0 0).head).toNat ≤ 2 ^ 4) ∧
    (2 ^ ((q ⟨0x1000, 4, 0, 0⟩).queue 0 0).lsize < ((17 : Word).setWidth 32 - ((q ⟨0x1000, 4, 0, 0⟩).queue 0 0).head).toNat) ∧
    (((q ⟨0, 4, 0, 0⟩).queue 0 0).head = ((q ⟨0, 4, 0, 0⟩).queue 0 0).tail ∧ (64 : Word).toNat % 64 = 0 ∧ 4 ≤ (16 : Word).toNat) ∧
    (((q ⟨0, 4, 1, 0⟩).queue 0 0).head ≠ ((q ⟨0, 4, 1, 0⟩).queue 0 0).tail) ∧
    ((1 : Word).getLsbD 0 = true ∧ (2 : Word).getLsbD 0 = false ∧ (demo .A).ctxBusy 1 = true ∧ (demo .A).ctxBusy 4095 = false ∧
      ((demo .A).ctxNo 1).valid = true ∧ ((demo .A).ctxNo 4095).valid = false) ∧
    ((∃ x ∈ (demo .A).ctxs, x.2.valid = true) ∧ ∀ x ∈ State.reset.ctxs, x.2.valid = false) ∧
    ((demo .A).dev.repl = none ∧ (demo .A).dev.feat.getLsbD 3 = false ∧ (8#4).getLsbD 3 = true ∧
      ({ head := 0, body := [] } : FwImage).accepted 0 0 = false) ∧
    (∀ t ∈ [100000000, 100000001], let s := { demo .A with now := t, dev := { (demo .A).dev with repl := some ⟨(demo .A).dev.imgA, 0, default⟩ } }
      s.dev.repl.map FwRepl.since = some 0 ∧ (s.now ≤ 0 + 100000000 ↔ t = 100000000)) ∧
    (287 < 288 ∧ (kvGet (demo .A).harts demoHart).isSome ∧ (demo .A).h.tr.smode = false ∧ (demo .A).h.tr.halted = false ∧
      (demoH .A (fun h => { h with tr := { h.tr with smode := true } })).h.tr.smode = true ∧
      ((0x1000 : Word).extractLsb' 8 8 - (0x1000 : Word).extractLsb' 0 8).toNat ≤ 16) ∧
    ((demo .A).dev.coldReq = false ∧ ∀ b ∈ [true, false], (putSlice (demo .A) (fun x => { x with owed := b })).slices.map (fun p => (p.2.owed, p.2.st)) =
      [(b, .ready)]) := by decide +kernel

theorem witness_DebugAccess :
    let s := fun (f : Traps → Traps) => demoH .A (fun h => { h with tr := f h.tr })
    (∀ f ∈ ([id, fun t => { t with haltreq := true }, fun t => { t with halted := true }] : List (Traps → Traps)),
      ((s f).onCore 0).any (fun p => p.1 == ⟨0, 1⟩ && p.2.2 == demoHart) = true) ∧
    ((s id).hart demoHart).tr.halted = false ∧ ((s id).hart demoHart).tr.cvhalt = false ∧
    ((s (fun t => { t with haltreq := true })).hart demoHart).tr.haltreq = true ∧ ((s (fun t => { t with halted := true })).hart demoHart).tr.halted = true ∧
    (0 : Nat) ≠ 0x30000 ∧ (s id).onCore 5 = none ∧
    ((demoH .A (fun h => { h with mem := { h.mem with mid := some true } })).h.mem.mid.isSome) ∧
    (let t := s (fun t => { t with haltreq := true })
     (t.hart demoHart).calm .X = true ∧ (t.hart demoHart).mem.pend = [] ∧
     (List.range 4).all (fun q => ((t.hart demoHart).q.vload[four q]).items.all Entry.visible)) ∧
    (demoH .A (fun h => { h with mem := { h.mem with pendLoad := some (demoLoad none) } })).h.mem.pendLoad.isSome := by decide +kernel

theorem witness_DeviceEvents :
    let s := demo .A
    let dev := fun (f : Device → Device) (now : Nat) => { s with now := now, dev := f s.dev }
    s.dev.warm = none ∧ (1000000000 : Nat) ≤ 0 + 1000000000 ∧ (dev (fun d => { d with restarts := [1000000000, 0] }) 0).dev.restarts = [1000000000, 0] ∧
    (let s := { dev id 100000000 with disps := [(0, { s.disp 0 with quiesced := true })] }
     ∃ d ∈ s.disps, d.2.quiesced = true ∧ d.2.quietAt + 100000000 ≤ s.now ∧ ∃ p ∈ s.slices, p.2.die = d.1 ∧ (p.2.st = .ready ∨ p.2.st = .ending)) ∧ s.dev.restarts = [] ∧ s.disps.all (fun d => !d.2.quiesced) ∧
    (dev (fun d => { d with coldReq := true }) 0).dev.coldReq = true ∧
    (∀ t ∈ [49999999, 50000000], (dev (fun d => { d with warm := some (.compute 0, 0) }) t).dev.warm = some (.compute 0, 0) ∧
      ((dev (fun d => { d with warm := some (.compute 0, 0) }) t).now < 0 + 50000000 ↔ t = 49999999)) ∧
    (s.canReady (.hbm 11) = true) ∧
    ((dev id 1000000).dev.accrued + 1000000 ≤ (dev id 1000000).now ∧ (s.coreNo 7).st ≠ .retired ∧ (s.coreNo 7).st = .nominal ∧
      (s.coreNo 7).wear + max 187000000000000 0 < 209000000000000 ∧ (s.coreNo 7).wear + max 0 220000000000000 ≥ 220000000000000) ∧
    (dev id 999999).now < (dev id 999999).dev.accrued + 1000000 ∧ 127 < 128 ∧
    (∃ p ∈ s.slices, p.2.die = 0 ∧ p.2.st = .ready ∧ kvGet s.slices p.1 = some p.2) := by decide +kernel

/-- The steps of the watchdog (R399) and the state of cores (R382, R387). -/
theorem witness_DeviceEvents_watchdog :
    let s := demo .A
    let dev := fun (f : Device → Device) (now : Nat) => { s with now := now, dev := f s.dev }
    let lost := fun (s : State) => s.dev.beats.toList.any (fun b => decide (b + 50000000 ≤ s.now)) ||
      s.slices.any (fun p => p.2.st == .ending && decide (p.2.endAt + 40000000 ≤ s.now))
    let due := fun (s : State) => (s.disp 0).swept || match s.dev.restarts with
      | r :: _ => decide (r + 100000000 ≤ s.now) && s.dev.beats.toList.any (fun b => decide (b ≤ r))
      | [] => false
    (lost (dev id 49999999) = false ∧ lost (dev id 50000000) = true ∧ (dev id 50000000).dev.warm.isNone ∧
      s.slices.all (fun p => !p.2.owed) ∧
      lost (putSlice (dev (fun d => { d with beats := #v[30000000, 30000000] }) 40000000) (fun x => { x with st := .ending })) = true) ∧
    (due s = false ∧ due { s with disps := [(0, { s.disp 0 with swept := true })] } = true ∧ (s.disp 0).quiesced = false ∧
      due (dev (fun d => { d with restarts := [0] }) 100000000) = true ∧ due (dev (fun d => { d with restarts := [0] }) 99999999) = false ∧
      due (dev (fun d => { d with restarts := [0], beats := #v[1, 1] }) 100000000) = false) ∧
    ((s.coreNo 7).capped = false ∧ { s.coreNo 7 with worn := true }.capped = true ∧ { s.coreNo 7 with wear := 187000000000000 }.capped = true) ∧
    ((dev (fun d => { d with warm := some (.compute 0, 0), failing := [1] }) 9).dev.failing = [1] ∧ (kvGet s.ctxs 1).isSome ∧
      (s.ctxNo 1).failed = false) := by decide +kernel

theorem witness_Attestation :
    let s := fun (c : Spdm) => { demo .A with dev := { (demo .A).dev with spdm := [(1, c)] } }
    1 < 2 ∧ ((s ⟨true, true, true, none⟩).spdm 1).version = true ∧ ((s ⟨true, true, true, none⟩).spdm 1).caps = true ∧
    ((s ⟨true, true, true, none⟩).spdm 1).algs = true ∧ ((s ⟨false, false, false, none⟩).spdm 1).version = false ∧
    ((s ⟨false, false, false, none⟩).spdm 1).algs = false ∧ 5 < 6 ∧ (6 : Nat) ≠ 255 := by decide +kernel

/-- A state in canonical form whose step answers a next state. -/
theorem witness_StepKeepsTheInvariant :
    Memory.wf (State.reset.withFetchWord 32 0x02324800).mem = true ∧ Poison.wf (State.reset.withFetchWord 32 0x02324800).poison = true ∧
    (match step (State.reset.withFetchWord 32 0x02324800) with | .next _ => true | _ => false) = true := by decide +kernel

/-- An encodable instruction, at the ends of a field. -/
theorem witness_DecodeOfEncode :
    (Instr.loopi 0x1FFF 0xFFF).encodable = true ∧ (Instr.strip 1 2 28 4 3 .e4).encodable = true := by decide +kernel

/-! ### Terms that are not well formed, one for each check -/

/-- The words that subcode 0 forbids: one term for each clause of `Instr.encodable` (R57 to R63, R154, R193, R194, R208). -/
theorem wf_encodable :
    ∀ i ∈ ([.loop 9 0, .loopi 3 0, .lidx 5 6, .lbrk 7, .fence 0 3 .die, .fence 3 0 .die, .strip 5 9 17 5 2 .e32, .strip 5 9 17 0 2 .e32,
        .vldp 28 9 10 3 false false false .e8, .vldp 28 9 10 2 false false true .e8, .vldp 28 9 10 3 false false true .e11,
        .vstp 28 9 10 3 false false false .e8, .vstxadd 28 9 10 false false false .e4, .vstxadd 28 9 10 false false true .e8,
        .amoadd 5 9 17 false false .die true, .amoand 5 9 17 false false .die true, .amoor 5 9 17 false false .die true,
        .amoxor 5 9 17 false false .die true, .amomin 5 9 17 false false .die true, .amomax 5 9 17 false false .die true,
        .amominn 5 9 17 false false .die true, .amomaxn 5 9 17 false false .die true, .amoswap 5 9 17 false false .die true,
        .amocas 5 9 17 false false .die true, .amofadd 5 9 17 false false .die true, .vbcast 5 9 .vec 0, .vslideup 5 9 3 .vec 0,
        .vslideup 5 9 16 .imm 0, .vslidedn 5 9 31 .imm 0, .vextr 5 9 16 .imm, .vins 5 9 3 .vec, .vpsplit 5 9 0 .e8 3, .vpjoin 5 9 0 .e8 3,
        .vptrunc 5 9 0 .e8 3, .vprnd 5 9 0 .e8 2, .vprnd 5 9 0 .e11 3, .powerLoss, .warmResetReady] : List Instr),
      i.encodable = false ∧ i.wellFormed = false := by decide +kernel

/-- The register numbers that subcode 3 forbids: one term for each clause of `Instr.regsLegal` (R44, R57, R59, R60, R118, R239, R249, R321). -/
theorem wf_registers :
    ∀ i ∈ ([.pushs 27 9, .pops 5 27, .strip 5 9 0 1 2 .e32, .strip 5 9 29 4 2 .e32, .strip 18 9 17 2 2 .e32, .strip 5 17 17 2 2 .e32,
        .vld 27 9 false false .e32, .vlds 27 9 10 false false .e32, .vldx 27 9 10 false false false .e32, .vldx 28 9 0 false false false .e32,
        .vldff 27 9 false false .e32, .vldp 27 9 10 0 false false false .e8, .vst 27 9 false false .e32, .vsts 27 9 10 false false .e32,
        .vstx 27 9 10 false false .e32, .vstx 28 9 0 false false .e32, .vstxadd 27 9 10 false false false .e32,
        .vstxadd 28 9 0 false false false .e32, .vstp 27 9 10 0 false false false .e8, .pcnt 32 4, .pfirst 63 4, .vqmx 27 9 0,
        .vadamw 5 9 27 0, .vsgdm 5 9 27 0, .mma 28 0 8 0 .f64, .mma 24 0 9 0 .f64, .mma 27 0 8 0 .bf16, .mma 26 0 8 0 .e2m1, .mmap 27 0 8 0,
        .mmap 24 0 4 0, .mmaz 28 .f64, .mmaz 27 .f32, .mtrans 4 8 .bf16, .mtrans 8 4 .bf16, .mnbr 0 9 10, .mcell 0 9 10] : List Instr),
      i.regsLegal = false ∧ i.wellFormed = false := by decide +kernel

/-! ### Words written out from the encoding tables -/

/-- Whether the decoder reads each word as the instruction beside it. -/
def reads (xs : List (BitVec 32 × Instr)) : Bool :=
  xs.all (fun x => match decode x.1 with | .ok i => i == x.2 | .error _ => false)

/-- Words of OP, register, code and immediate fields laid out as R50 to R55 and the opcode map have them. -/
theorem test_words_integer : reads [
  (0b00000010010101001100010000000000, .add 5 9 17),
  (0b00000010010101001100010000000001, .sub 5 9 17),
  (0b00000010010101001100010000000010, .and 5 9 17),
  (0b00000010010101001100010000000011, .or 5 9 17),
  (0b00000010010101001100010000000100, .xor 5 9 17),
  (0b00000010010101001100010000000101, .sll 5 9 17),
  (0b00000010010101001100010000000110, .srl 5 9 17),
  (0b00000010010101001100010000000111, .sra 5 9 17),
  (0b00000010010101001100010000001000, .slt 5 9 17),
  (0b00000010010101001100010000001001, .sltn 5 9 17),
  (0b00000010010101001100010000001010, .min 5 9 17),
  (0b00000010010101001100010000001011, .max 5 9 17),
  (0b00000010010101001100010000001100, .minn 5 9 17),
  (0b00000010010101001100010000001101, .maxn 5 9 17),
  (0b00000100010101001100010000000000, .mul 5 9 17),
  (0b00000100010101001100010000000001, .mulh 5 9 17),
  (0b00000100010101001100010000000010, .mulhn 5 9 17),
  (0b00000100010101001100010000000011, .div 5 9 17),
  (0b00000100010101001100010000000100, .divn 5 9 17),
  (0b00000100010101001100010000000101, .rem 5 9 17),
  (0b00000100010101001100010000000110, .remn 5 9 17),
  (0b00000110010101001000000000000000, .clz 5 9),
  (0b00000110010101001000000000000001, .ctz 5 9),
  (0b00000110010101001000000000000010, .popc 5 9),
  (0b00000110010101001000000000000011, .brev 5 9)] = true := by decide +kernel

/-- Words of OP, register, code and immediate fields laid out as R50 to R55 and the opcode map have them. -/
theorem test_words_immediate : reads [
  (0b00001000010101001010001101000101, .addi 5 9 9029),
  (0b00001010010101001010001101000101, .andi 5 9 9029),
  (0b00001100010101001010001101000101, .ori 5 9 9029),
  (0b00001110010101001010001101000101, .xori 5 9 9029),
  (0b00010000010101001000000000101101, .slli 5 9 45),
  (0b00010010010101001000000000101101, .srli 5 9 45),
  (0b00010100010101001000000000101101, .srai 5 9 45),
  (0b00010110010101001010001101000101, .slti 5 9 9029),
  (0b00011000010110000001001000110100, .lih 5 528948)] = true := by decide +kernel

/-- Words of OP, register, code and immediate fields laid out as R50 to R55 and the opcode map have them. -/
theorem test_words_control : reads [
  (0b00100000100110001000100000000100, .beq 9 17 2052),
  (0b00100000100110001001100000000100, .bne 9 17 2052),
  (0b00100000100110001010100000000100, .blt 9 17 2052),
  (0b00100000100110001011100000000100, .bge 9 17 2052),
  (0b00100000100110001100100000000100, .bltn 9 17 2052),
  (0b00100000100110001101100000000100, .bgen 9 17 2052),
  (0b00100010010111111111111111110000, .jal 5 1048560),
  (0b00100100010101001010001101000101, .jalr 5 9 9029),
  (0b00100110100100000000000000000111, .loop 9 7),
  (0b00101001001000110100000000000111, .loopi 4660 7),
  (0b00101010010100011000000000000000, .lidx 5 3),
  (0b00101010000000011000000000000001, .lbrk 3)] = true := by decide +kernel

/-- Words of OP, register, code and immediate fields laid out as R50 to R55 and the opcode map have them. -/
theorem test_words_system : reads [
  (0b00110000010100000000000000100011, .csrr 5 .qwait),
  (0b00110000010101001001000000110100, .csrw 5 9 .optwd),
  (0b00110000010101001010000000110100, .csrs 5 9 .optwd),
  (0b00110000010101001011000000110100, .csrc 5 9 .optwd),
  (0b00110010000000000000000000000000, .ecall),
  (0b00110010000000000000000000000001, .eret),
  (0b00110010000000000000000000000010, .brk),
  (0b00110010000000000000000000000011, .wfe),
  (0b00110101100110100000000000000000, .fence 6 3 .die),
  (0b00110100000000000000000000000001, .fencei)] = true := by decide +kernel

/-- Words of OP, register, code and immediate fields laid out as R50 to R55 and the opcode map have them. -/
theorem test_words_float : reads [
  (0b00111000010101001100010101100000, .fadd .s .rdn 5 9 17),
  (0b00111000010101001100010101100001, .fsub .s .rdn 5 9 17),
  (0b00111000010101001100010101100010, .fmul .s .rdn 5 9 17),
  (0b00111000010101001100010101100011, .fdiv .s .rdn 5 9 17),
  (0b00111000010101001000001010000100, .fsqrt .h .rup 5 9),
  (0b00111000010101001100010101100101, .ffma .s .rdn 5 9 17),
  (0b00111000010101001100011000000110, .fmin .h 5 9 17),
  (0b00111000010101001100011000000111, .fmax .h 5 9 17),
  (0b00111000010101001100010101101000, .fcmp .s .le 5 9 17),
  (0b00111000010101001110110101001001, .fcvt .s (.toI .n32) .rtz 5 9)] = true := by decide +kernel

/-- Words of OP, register, code and immediate fields laid out as R50 to R55 and the opcode map have them. -/
theorem test_words_scalar_memory : reads [
  (0b01000000010101001010001101000101, .ldb 5 9 9029),
  (0b01000010010101001010001101000101, .ldbn 5 9 9029),
  (0b01000100010101001010001101000101, .ldh 5 9 9029),
  (0b01000110010101001010001101000101, .ldhn 5 9 9029),
  (0b01001000010101001010001101000101, .ldw 5 9 9029),
  (0b01001010010101001010001101000101, .ldwn 5 9 9029),
  (0b01001100010101001010001101000101, .ldd 5 9 9029),
  (0b01010000010101001010001101000101, .stb 5 9 9029),
  (0b01010010010101001010001101000101, .sth 5 9 9029),
  (0b01010100010101001010001101000101, .stw 5 9 9029),
  (0b01010110010101001010001101000101, .std 5 9 9029)] = true := by decide +kernel

/-- Words of OP, register, code and immediate fields laid out as R50 to R55 and the opcode map have them. -/
theorem test_words_lengths : reads [
  (0b01011000010101001000000000000000, .sptest 5 9),
  (0b01011000010101001000000000000001, .spcast 5 9),
  (0b01011011111001001000000000000000, .pushs 30 9),
  (0b01011010010111111000000000000001, .pops 5 31),
  (0b01011100010101001100010001110000, .strip 5 9 17 3 2 .e4),
  (0b01011110010101001000000000000000, .setvl 5 9),
  (0b01011110010100000000000000000001, .vltake 5),
  (0b01011110010101001100010000000010, .lchk 5 9 17)] = true := by decide +kernel

/-- Words of OP, register, code and immediate fields laid out as R50 to R55 and the opcode map have them. -/
theorem test_words_vector_memory : reads [
  (0b01100001110110001000000010000010, .vld 29 17 true false .e32),
  (0b01100011111010001001100001000011, .vlds 30 17 6 false true .e64),
  (0b01100101111010001111010010100011, .vldx 30 17 29 true false true .e64),
  (0b01100111110110001000000010000010, .vldff 29 17 true false .e32),
  (0b01101001110110001001100110100011, .vldp 29 17 6 1 true false true .e11),
  (0b01110001110110001000000010000010, .vst 29 17 true false .e32),
  (0b01110011111010001001100001000011, .vsts 30 17 6 false true .e64),
  (0b01110101111110001001100010000001, .vstx 31 17 6 true false .e16),
  (0b01110111111010001111010001100011, .vstxadd 30 17 29 false true true .e64),
  (0b01111001110110001001100110100011, .vstp 29 17 6 1 true false true .e11)] = true := by decide +kernel

/-- Words of OP, register, code and immediate fields laid out as R50 to R55 and the opcode map have them. -/
theorem test_words_atomic : reads [
  (0b01111100010101001100010101110000, .amoadd 5 9 17 false true .device true),
  (0b01111100010101001100010101110001, .amoand 5 9 17 false true .device true),
  (0b01111100010101001100010101110010, .amoor 5 9 17 false true .device true),
  (0b01111100010101001100010101110011, .amoxor 5 9 17 false true .device true),
  (0b01111100010101001100010101110100, .amomin 5 9 17 false true .device true),
  (0b01111100010101001100010101110101, .amomax 5 9 17 false true .device true),
  (0b01111100010101001100010101110110, .amominn 5 9 17 false true .device true),
  (0b01111100010101001100010101110111, .amomaxn 5 9 17 false true .device true),
  (0b01111100010101001100010101111000, .amoswap 5 9 17 false true .device true),
  (0b01111100010101001100010101111001, .amocas 5 9 17 false true .device true),
  (0b01111100010101001100010101111010, .amofadd 5 9 17 false true .device true)] = true := by decide +kernel

/-- Words of OP, register, code and immediate fields laid out as R50 to R55 and the opcode map have them. -/
theorem test_words_vector_float : reads [
  (0b10000000010101001100010111000101, .vfadd 5 9 17 .scal 6 .rna),
  (0b10000010010101001100010111000101, .vfsub 5 9 17 .scal 6 .rna),
  (0b10000100010101001100010111000101, .vfmul 5 9 17 .scal 6 .rna),
  (0b10000110010101001100010111000101, .vfdiv 5 9 17 .scal 6 .rna),
  (0b10001000010101001000000011000001, .vfsqrt 5 9 6 .rne),
  (0b10001010010101001100010111000101, .vfma 5 9 17 .scal 6 .rna),
  (0b10001100010101001100010111000101, .vfms 5 9 17 .scal 6 .rna),
  (0b10001110010101001100010111000101, .vfnma 5 9 17 .scal 6 .rna),
  (0b10010000010101001100010111000101, .vfnms 5 9 17 .scal 6 .rna),
  (0b10010010010101001100011011000000, .vfmin 5 9 17 .imm 6),
  (0b10010100010101001100011011000000, .vfmax 5 9 17 .imm 6),
  (0b10010110010101001000000011000000, .vfabs 5 9 6),
  (0b10011000010101001000000011000000, .vfneg 5 9 6),
  (0b10011010010101001000000011000001, .vfrcp 5 9 6 .rne),
  (0b10011100010101001000000011000001, .vfrsq 5 9 6 .rne),
  (0b10011110010101001100011011000101, .vfcmp 5 9 17 .imm 6 .ge)] = true := by decide +kernel

/-- Words of OP, register, code and immediate fields laid out as R50 to R55 and the opcode map have them. -/
theorem test_words_vector_integer : reads [
  (0b10100000010101001100011011000000, .vadd 5 9 17 .imm 6),
  (0b10100010010101001100011011000000, .vsub 5 9 17 .imm 6),
  (0b10100100010101001100011011000000, .vmul 5 9 17 .imm 6),
  (0b10100110010101001100011011000000, .vmulh 5 9 17 .imm 6),
  (0b10101000010101001100011011000000, .vand 5 9 17 .imm 6),
  (0b10101010010101001100011011000000, .vor 5 9 17 .imm 6),
  (0b10101100010101001100011011000000, .vxor 5 9 17 .imm 6),
  (0b10101110010101001100011011000000, .vsll 5 9 17 .imm 6),
  (0b10110000010101001100011011000000, .vsrl 5 9 17 .imm 6),
  (0b10110010010101001100011011000000, .vsra 5 9 17 .imm 6),
  (0b10110100010101001100011011000000, .vmin 5 9 17 .imm 6),
  (0b10110110010101001100011011000000, .vmax 5 9 17 .imm 6),
  (0b10111000010101001100011011000000, .vminn 5 9 17 .imm 6),
  (0b10111010010101001100011011000000, .vmaxn 5 9 17 .imm 6),
  (0b10111100010101001100011011000101, .vcmp 5 9 17 .imm 6 .gen)] = true := by decide +kernel

/-- Words of OP, register, code and immediate fields laid out as R50 to R55 and the opcode map have them. -/
theorem test_words_moves : reads [
  (0b10111110010101001001000011001101, .vcvt 5 9 .rup 6 .e5m2),
  (0b11000000010101001000000011000000, .vmv 5 9 6),
  (0b11000010010100000100010111000000, .vbcast 5 17 .scal 6),
  (0b11000100010101001100011011000000, .vmerge 5 9 17 .imm 6),
  (0b11000110010101001010111011000000, .vslideup 5 9 11 .imm 6),
  (0b11001000010101001010111011000000, .vslidedn 5 9 11 .imm 6),
  (0b11001010010101001100010011000000, .vperm 5 9 17 6),
  (0b11001100010101001000000011000000, .vcomp 5 9 6),
  (0b11001110010101001000000011000000, .vexpd 5 9 6),
  (0b11010000010101001010110100000000, .vextr 5 9 11 .scal),
  (0b11010010010101001010110100000000, .vins 5 9 11 .scal),
  (0b11010100010100000000000011000000, .viota 5 6)] = true := by decide +kernel

/-- Words of OP, register, code and immediate fields laid out as R50 to R55 and the opcode map have them. -/
theorem test_words_reductions : reads [
  (0b11010110010101001000000011000001, .vredsum 5 9 6 .rne),
  (0b11011000010101001000000011000001, .vredtree 5 9 6 .rne),
  (0b11011010010101001000000011000000, .vredmax 5 9 6),
  (0b11011100010101001000000011000000, .vredmin 5 9 6),
  (0b11011110010101001000000011000001, .vscan 5 9 6 .rne)] = true := by decide +kernel

/-- Words of OP, register, code and immediate fields laid out as R50 to R55 and the opcode map have them. -/
theorem test_words_predicates : reads [
  (0b11100001010001010011010100000000, .pand 40 41 42),
  (0b11100001010001010011010100000001, .por 40 41 42),
  (0b11100001010001010011010100000010, .pxor 40 41 42),
  (0b11100001010001010011010100000011, .pandn 40 41 42),
  (0b11100001010001010010000000000100, .pnot 40 41),
  (0b11100000101011010010000000000101, .pcnt 21 41),
  (0b11100000101011010010000000000110, .pfirst 21 41),
  (0b11100001010000000000000000000111, .pset 40),
  (0b11100001010000000000000000001000, .pclr 40),
  (0b11100001010001010010000000001001, .pmov 40 41)] = true := by decide +kernel

/-- Words of OP, register, code and immediate fields laid out as R50 to R55 and the opcode map have them. -/
theorem test_words_planes : reads [
  (0b11100010010101001000000011010100, .vpsplit 5 9 6 .e11 1),
  (0b11100010010101001000000011010101, .vpjoin 5 9 6 .e11 1),
  (0b11100010010101001000000011010110, .vptrunc 5 9 6 .e11 1),
  (0b11100010010101001000000011010111, .vprnd 5 9 6 .e11 1),
  (0b11100100010101001000000011000000, .vqmx 5 9 6),
  (0b11100100010101001100010011000001, .vdqmx 5 9 17 6),
  (0b11100110010101001000000011010011, .vpacc 5 9 6 19),
  (0b11100110010101001100010111000000, .vadamw 5 9 17 6),
  (0b11100110010101001100011011000000, .vsgdm 5 9 17 6)] = true := by decide +kernel

/-- Words of OP, register, code and immediate fields laid out as R50 to R55 and the opcode map have them. -/
theorem test_words_matrix : reads [
  (0b11101001001001001010000011010001, .mma 18 9 8 6 .e4m3e5m2),
  (0b11101011001001001010000011001001, .mmap 18 9 8 6),
  (0b11101101001000000000000000001001, .mmaz 18 .f32),
  (0b11101101000000000010000100001011, .mtrans 16 8 .bf16)] = true := by decide +kernel

/-- Words of OP, register, code and immediate fields laid out as R50 to R55 and the opcode map have them. -/
theorem test_words_engines : reads [
  (0b11111100010100000000000000000000, .psnget 5),
  (0b11111100000000000000000000000001, .psnclr),
  (0b11110000010101001000000000000000, .cpy 5 9),
  (0b11110000010101001000000000000001, .due 5 9),
  (0b11110000000001001000000000000010, .waitd 9),
  (0b11110000000001001100010000000011, .waith 9 17),
  (0b11110000010101001000000000000100, .cpyst 5 9),
  (0b11110010010101001100010000000000, .abinit 5 9 17),
  (0b11110010000001001100010000000001, .waitab 9 17),
  (0b11110100010101001000000000000000, .mopen 5 9),
  (0b11110100010101001100010000000001, .mnbr 5 9 17),
  (0b11110100010101001100010000000010, .mcell 5 9 17),
  (0b11110100000001001100010000000011, .mmark 9 17),
  (0b11110100010101001100010000000100, .madapt 5 9 17),
  (0b11110100010101001100010000000101, .mcut 5 9 17),
  (0b11110100010101001100010000000110, .mmig 5 9 17),
  (0b11110100010101001100010000000111, .mhalo 5 9 17),
  (0b11110110010101001000000000000000, .bhist 5 9),
  (0b11110110010101001000000000000001, .bscan 5 9),
  (0b11110110010101001000000000000010, .btopk 5 9),
  (0b11110110010101001000000000000011, .broute 5 9),
  (0b11110110010101001000000000000100, .bcolor 5 9),
  (0b11110110010101001000000000000101, .bseg 5 9),
  (0b11111000000000000100010000000000, .barw 17),
  (0b11111000000000000000000000000001, .bara),
  (0b11111000010100000000000000000010, .barq 5),
  (0b11111000010101001100010000000011, .sigw 5 9 17),
  (0b11111000000000000000000000000100, .yield),
  (0b11111010010101001000000000000000, .launch 5 9)] = true := by decide +kernel

/-- Words that the worked cases and the tables of assembly give (an operand `planes` of VPTRUNC or VPRND is coded minus 1, R223). -/
theorem test_words_of_the_tables : reads [
  (0x28003008, .loopi 3 8), (0x2A608000, .lidx 6 1), (0x10630002, .slli 6 6 2), (0x20641002, .bne 6 8 2), (0x2A008001, .lbrk 1),
  (0x30A49002, .csrw 10 9 .frm), (0x7C92AB79, .amocas 9 5 10 true true .device true), (0xD6910000, .vredsum 9 2 0 .dyn),
  (0xD8A10000, .vredtree 10 2 0 .dyn), (0xDE310000, .vscan 3 2 0 .dyn), (0xE1453500, .pand 40 41 42), (0x9E310104, .vfcmp 3 2 0 .scal 0 .gt),
  (0xE0486005, .pcnt 9 3), (0xCC410060, .vcomp 4 2 3), (0xD4500060, .viota 5 3), (0xE2208000, .vpsplit 2 1 0 .e8 0),
  (0xE2428016, .vptrunc 4 5 0 .e11 1), (0xE2638003, .vprnd 6 7 0 .e8 0), (0xE6428009, .vpacc 4 5 0 9), (0xE980206B, .mma 24 0 8 3 .bf16),
  (0xF4970000, .mopen 9 14), (0xF5C4A801, .mnbr 28 9 10), (0xF5D4A802, .mcell 29 9 10), (0xF404AC03, .mmark 9 11),
  (0xF4C4B804, .madapt 12 9 14), (0xF6970000, .bhist 9 14), (0xF6970004, .bcolor 9 14), (0xF6970005, .bseg 9 14)] = true := by
  decide +kernel

/-! ### Single steps, with the values of the spec's worked cases -/

/-- Register s11 after an instruction on s9 and s10. -/
def s11 (x y : Word) (i : Instr) : Word := (after (exec i (demoX x y))).h.regs.x[11]

/-- The rows of R82's table. -/
theorem test_division :
    s11 (-7) 2 (.div 11 9 10) = -3 ∧ s11 (-7) 2 (.rem 11 9 10) = -1 ∧ s11 0xFFFFFFFFFFFFFFF9 2 (.divn 11 9 10) = 0x7FFFFFFFFFFFFFFC ∧
    s11 5 0 (.div 11 9 10) = 0xFFFFFFFFFFFFFFFF ∧ s11 5 0 (.remn 11 9 10) = 5 ∧
    s11 0x8000000000000000 (-1) (.div 11 9 10) = 0x8000000000000000 ∧ s11 0x8000000000000000 (-1) (.rem 11 9 10) = 0 := by decide +kernel

/-- Register s11 and FFLAGS after an instruction on s9 that may write both. -/
def s11f (x : Word) (i : Instr) : Word × BitVec 5 :=
  let t := after (exec i (demoX x 0))
  (t.h.regs.x[11], t.h.csr.fflags)

/-- The rows of R97's table; NV is bit 4 and NX bit 0 of FFLAGS (R45). -/
theorem test_fcvt :
    s11f 0x4004000000000000 (.fcvt .d (.toI .i32) .rne 11 9) = (2, 1) ∧ s11f 0x4004000000000000 (.fcvt .d (.toI .i32) .rna 11 9) = (3, 1) ∧
    s11f 0xBFE8000000000000 (.fcvt .d (.toI .n32) .rtz 11 9) = (0, 1) ∧ s11f 0xBFF0000000000000 (.fcvt .d (.toI .n32) .rtz 11 9) = (0, 16) ∧
    s11f 0x41E65A0BC0000000 (.fcvt .d (.toI .i32) .rne 11 9) = (0x7FFFFFFF, 16) ∧
    s11f 0x7FF8000000000000 (.fcvt .d (.toI .i64) .rne 11 9) = (0, 16) ∧
    s11f 0xC004000000000000 (.fcvt .d (.toI .i32) .dyn 11 9) = (0xFFFFFFFFFFFFFFFE, 1) := by decide +kernel

/-- The worked case of R28: hart 1 of slot 0x2A holds a scratchpad address; hart 0 loads through it (R27). -/
theorem test_windows :
    let key : HartKey := ⟨0, 0x2A, 1⟩
    winClass (demo .A) key 0xF12A400000004000 = 2 ∧ winClass (demo .A) ⟨0, 0x2A, 0⟩ 0xF12A400000004000 = 3 := by decide +kernel

/-- The memory word and a9 after an AMO on the word at a9's old address held in a11. -/
def amoOf (mem x y : Nat) (i : Instr) : Nat × Word :=
  let t := after (exec i (putWords (demoA (BitVec.ofNat 64 x) (BitVec.ofNat 64 y)
    (fun h => { h with regs := { h.regs with a := h.regs.a.set 5 0x20000 } })) 0 [mem]))
  (bytesNat (memBytes t.mem (keyHbm 0x20000) 8), t.h.regs.a[9])

/-- The rows of the worked case of AMO results. -/
theorem test_amo :
    amoOf 5 5 9 (.amocas 9 5 10 false false .hart true) = (9, 5) ∧ amoOf 5 4 9 (.amocas 9 5 10 false false .hart true) = (5, 5) ∧
    amoOf 0x3F800000 0 0x33800000 (.amofadd 9 5 10 false false .hart false) = (0x3F800000, 0x3F800000) ∧
    amoOf 0xFFFFFFFE 0 1 (.amomax 9 5 10 false false .hart false) = (1, 0xFFFFFFFFFFFFFFFE) ∧
    amoOf 0xFFFFFFFE 0 1 (.amomaxn 9 5 10 false false .hart false) = (0xFFFFFFFE, 0xFFFFFFFFFFFFFFFE) := by decide +kernel

/-- A state of the X side under a VT word, with a VL, and values in v2 and p3. -/
def vecOf (vt : BitVec 12) (vl : Nat) (v2 p3 : Nat) : State :=
  demoH .X (fun h => { h with
    csr := { h.csr with vt := vt }
    x := { h.x with vl := vl }
    regs := { h.regs with v := h.regs.v.set 2 (BitVec.ofNat 8192 v2), p := h.regs.p.set 3 (BitVec.ofNat 2048 p3) } })

/-- Elements of a width, laid out from element 0. -/
def laid (w : Nat) (xs : List Nat) : Nat := xs.foldr (fun x acc => x + 2 ^ w * acc) 0

/-- The worked case of three summation orders. -/
theorem test_summation_orders :
    let s := vecOf 0x13 4 (laid 32 [0x3F800000, 0x4B800000, 0x3F800000, 0xCB800000]) 0
    (let t := after (exec (.vredsum 9 2 0 .dyn) s); t.h.regs.x[9] = 0 ∧ t.h.csr.fflags = 1) ∧
    (after (exec (.vredtree 10 2 0 .dyn) s)).h.regs.x[10] = 0x3F800000 ∧
    ((after (exec (.vscan 3 2 0 .dyn) s)).h.regs.v[3]).toNat % 2 ^ 128 = laid 32 [0x3F800000, 0x4B800000, 0x4B800000, 0] := by decide +kernel

/-- The values of the worked case of a selection. -/
def selected : Nat :=
  laid 64 [0x4008000000000000, 0xBFF0000000000000, 0x3FE0000000000000, 0x7FF8000000000000, 0xC000000000000000, 0x4010000000000000, 0,
    0x8000000000000000]

/-- The worked case of selecting with a comparison: p3 bits 0 to 7 are 1, 0, 1, 0, 0, 1, 0, 0. -/
theorem test_selection :
    (let t := after (exec (.vfcmp 3 2 0 .scal 0 .gt) (vecOf 0x14 8 selected 0)); t.h.regs.p[3].toNat = 0x25 ∧ t.h.csr.fflags = 16) ∧
    (after (exec (.pcnt 9 3) (vecOf 0x14 8 selected 0x25))).h.regs.x[9] = 3 ∧
    (after (exec (.vcomp 4 2 3) (vecOf 0x14 8 selected 0x25))).h.regs.v[4].toNat =
      laid 64 [0x4008000000000000, 0x3FE0000000000000, 0x4010000000000000] ∧
    (after (exec (.viota 5 3) (vecOf 0x14 8 selected 0x25))).h.regs.v[5].toNat = laid 64 [0, 1, 1, 2, 2, 2, 3, 3] := by decide +kernel

/-- The worked case of one block quantised: codes 6, 4, B, 0, 6, 7 and the scale byte 0x80. -/
theorem test_vqmx :
    let t := after (exec (.vqmx 10 2 0) (vecOf 0x13 32 (laid 32 [0x41200000, 0x40A00000, 0xC0400000, 0x3F000000, 0x40E00000, 0x41400000]) 0))
    t.h.regs.v[10].toNat % 2 ^ 128 = 0x760B46 ∧ t.h.regs.v[11].toNat % 256 = 0x80 ∧ t.h.csr.fflags.getLsbD 0 = true := by decide +kernel

/-- LOOPI pushes the address after it, the end and the count; LIDX reads the index; the back-edge of R88 at the shared end. -/
theorem test_loop :
    ((after (exec (.loopi 3 8) (demo .A))).h.a.loops.map (fun e => (e.start, e.stop, e.remaining, e.index))) = [(0x10004, 0x10020, 3, 0)] ∧
    (after (exec (.lidx 6 0) (demoH .A (fun h => { h with a := { h.a with loops := [⟨0, 0, 4, 2⟩] } })))).h.regs.a[6] = 2 := by decide +kernel

/-- Words of RV64GC on a command processor (R396), from the RISC-V encodings: ADDI a0, a0, −1 borrows, LUI extends its sign, and
four compressed words stand for C.LI a0, 5, a return, C.SDSP ra, 8(sp) and C.MV a0, a1. -/
theorem test_cp_words :
    ((CpRegs.reset.perform 0 [] 0xFFF50513 4).1.x[10] = -1 ∧ (CpRegs.reset.perform 0 [] 0xFFF50513 4).1.pc = 4) ∧
    (CpRegs.reset.perform 0 [] 0x80000537 4).1.x[10] = 0xFFFFFFFF80000000 ∧
    [0x4515, 0x8082, 0xE406, 0x852E].map rvExpand = [some 0x00500513, some 0x00008067, some 0x00113423, some 0x00B00533] := by decide +kernel

end Sys2Proof.Tests
end

/-! PROOF. The results of the register-register integer instructions (R81, R82). -/

namespace Sys2Proof.Proofs
open Sys2Proof Sys2Proof.Machine Sys2Proof.Laws

/-! ### Integer operations, by the integers and the bits of their operands (R81, R82) -/

/-- The shift count of R81: the low six bits. -/
theorem toNat_mod_64 (y : Word) : y.toNat % 64 = (y &&& 63).toNat := by
  rw [BitVec.toNat_and]
  exact (Nat.and_two_pow_sub_one_eq_mod y.toNat 6).symm

theorem bit_slt (x y : Word) : bit (x.slt y) = if x.toInt < y.toInt then 1 else 0 := by
  simp [bit, BitVec.slt]

theorem bit_ult (x y : Word) : bit (x.ult y) = if x.toNat < y.toNat then 1 else 0 := by
  simp [bit, BitVec.ult]

/-- Two choices by a strict and by a weak order that differ only where both give the same value. -/
theorem slt_choice {α : Type} (x y : Word) (u v : α) (h : x = y → u = v) :
    (if x.slt y then u else v) = if x.toInt ≤ y.toInt then u else v := by
  rcases Int.lt_trichotomy x.toInt y.toInt with l | e | g
  · rw [if_pos (by simpa [BitVec.slt] using l), if_pos (Int.le_of_lt l)]
  · rw [h (BitVec.eq_of_toInt_eq e), ite_self, ite_self]
  · rw [if_neg (by simpa [BitVec.slt] using Int.le_of_lt g), if_neg (Int.not_le.mpr g)]

theorem ult_choice {α : Type} (x y : Word) (u v : α) (h : x = y → u = v) :
    (if x.ult y then u else v) = if x.toNat ≤ y.toNat then u else v := by
  rcases Nat.lt_trichotomy x.toNat y.toNat with l | e | g
  · rw [if_pos (by simpa [BitVec.ult] using l), if_pos (Nat.le_of_lt l)]
  · rw [h (BitVec.eq_of_toNat_eq e), ite_self, ite_self]
  · rw [if_neg (by simpa [BitVec.ult] using Nat.le_of_lt g), if_neg (Nat.not_le.mpr g)]

theorem extractLsb'_ofInt_128 (z : Int) : (BitVec.ofInt 128 z).extractLsb' 64 64 = BitVec.ofInt 64 (z / 2 ^ 64) := by
  apply BitVec.eq_of_toNat_eq
  rw [BitVec.extractLsb'_toNat, BitVec.toNat_ofInt, BitVec.toNat_ofInt, Nat.shiftRight_eq_div_pow]
  omega

theorem mulhS_eq_extract (x y : Word) : mulhS x y = (x.signExtend 128 * y.signExtend 128).extractLsb' 64 64 := by
  unfold mulhS BitVec.signExtend
  rw [← BitVec.ofInt_mul, extractLsb'_ofInt_128]

theorem mulhU_eq_extract (x y : Word) : mulhU x y = (x.zeroExtend 128 * y.zeroExtend 128).extractLsb' 64 64 := by
  apply BitVec.eq_of_toNat_eq
  simp only [mulhU, word, BitVec.extractLsb'_toNat, BitVec.toNat_mul, BitVec.toNat_setWidth, BitVec.toNat_ofNat,
    Nat.shiftRight_eq_div_pow, ← Nat.mul_mod]
  omega

theorem divS_eq (x y : Word) : divS x y = if y = 0 then -1 else BitVec.ofInt 64 (x.toInt.tdiv y.toInt) :=
  rfl

theorem divU_eq (x y : Word) : divU x y = if y = 0 then -1 else x / y := by
  unfold divU word
  rw [← BitVec.toNat_udiv, BitVec.ofNat_toNat]
  rfl

theorem remS_eq (x y : Word) :
    remS x y = if y = 0 then x else BitVec.ofInt 64 (x.toInt - y.toInt * x.toInt.tdiv y.toInt) := by
  unfold remS
  rw [Int.tmod_def]

theorem remU_eq (x y : Word) : remU x y = if y = 0 then x else x % y := by
  unfold remU word
  rw [← BitVec.toNat_umod, BitVec.ofNat_toNat]
  rfl

/-! ### Counts of bits and the reversal (R81) -/

/-- The highest bit of a number that is 1 stands at its logarithm. -/
theorem log2_eq_of_testBit {m k : Nat} (top : m.testBit k = true) (above : ∀ i, k < i → m.testBit i = false) :
    m.log2 = k := by
  have lo : 2 ^ k ≤ m := Nat.ge_two_pow_of_testBit top
  have hi : m < 2 ^ (k + 1) := Nat.lt_pow_two_of_testBit m (fun i h => above i h)
  exact (Nat.log2_eq_iff (by have := Nat.two_pow_pos k; omega)).mpr ⟨lo, hi⟩

theorem clz_eq_word {z : Word} {n : Nat} (le : n ≤ 64) (zeros : ∀ j < n, z.getMsbD j = false)
    (one : n < 64 → z.getMsbD n = true) : clz z = word n := by
  unfold clz
  congr 1
  rcases Nat.lt_or_ge n 64 with lt | ge
  · have top : z.getLsbD (63 - n) = true := by simpa [BitVec.getMsbD, lt] using one lt
    have above : ∀ i, 63 - n < i → z.getLsbD i = false := by
      intro i h
      rcases Nat.lt_or_ge i 64 with hi | hi
      · have := zeros (63 - i) (by omega)
        simpa [BitVec.getMsbD, show 63 - i < 64 by omega, show 63 - (63 - i) = i by omega] using this
      · exact BitVec.getLsbD_of_ge z i hi
    have ne : z ≠ 0 := by rintro rfl; simp at top
    rw [if_neg ne, log2_eq_of_testBit top above]
    omega
  · obtain rfl : n = 64 := by omega
    rw [if_pos]
    exact BitVec.eq_of_getMsbD_eq (fun i h => by simpa using zeros i h)

theorem ctz_eq_word {z : Word} {n : Nat} (le : n ≤ 64) (zeros : ∀ j < n, z.getLsbD j = false)
    (one : n < 64 → z.getLsbD n = true) : ctz z = word n := by
  unfold ctz
  congr 1
  rcases Nat.lt_or_ge n 64 with lt | ge
  · rw [List.find?_range_eq_some.mpr ⟨one lt, List.mem_range.mpr lt, fun j h => by simp [zeros j h]⟩]
    rfl
  · obtain rfl : n = 64 := by omega
    rw [List.find?_range_eq_none.mpr (fun j h => by simp [zeros j h])]
    rfl

theorem popc_eq_word (z : Word) : popc z = word (((List.range 64).filter (fun i => z.getLsbD i)).length) := by
  unfold popc
  rw [List.countP_eq_length_filter]

theorem getLsbD_bit (b : Bool) (i : Nat) : (bit b).getLsbD i = (decide (i = 0) && b) := by
  cases b <;> simp [bit]

/-- Shifting left by 1 and putting a bit in the freed place. -/
theorem getLsbD_push (acc : Word) (b : Bool) {i : Nat} (h : i < 64) :
    ((acc <<< 1) ||| bit b).getLsbD i = if i = 0 then b else acc.getLsbD (i - 1) := by
  rw [BitVec.getLsbD_or, BitVec.getLsbD_shiftLeft, getLsbD_bit]
  cases i with
  | zero => simp
  | succ j => simp [h]

/-- Pushing bits 0 to k − 1 of a word in turn at the low end reverses them. -/
theorem getLsbD_foldl_push (x : Word) (k : Nat) : ∀ i < 64,
    ((List.range k).foldl (fun (acc : Word) i => (acc <<< 1) ||| bit (x.getLsbD i)) 0).getLsbD i =
      (decide (i < k) && x.getLsbD (k - 1 - i)) := by
  induction k with
  | zero => simp
  | succ k ih =>
    intro i h
    rw [List.range_succ, List.foldl_append, List.foldl_cons, List.foldl_nil, getLsbD_push _ _ h]
    cases i with
    | zero => simp
    | succ j =>
      rw [if_neg (by omega), Nat.add_sub_cancel, ih j (by omega)]
      simp [Nat.sub_sub, Nat.add_comm]

theorem getLsbD_brev (z : Word) {i : Nat} (h : i < 64) : (brev z).getLsbD i = z.getLsbD (63 - i) := by
  unfold brev
  rw [getLsbD_foldl_push z 64 i h, decide_eq_true h, Bool.true_and]

theorem brev_eq {z v : Word} (h : ∀ i < 64, v.getLsbD i = z.getLsbD (63 - i)) : brev z = v :=
  BitVec.eq_of_getLsbD_eq (fun i hi => (getLsbD_brev z hi).trans (h i hi).symm)

/-! ### The two shapes -/

/-- An instruction of the two-operand shape that is ready writes the value of its operation. -/
theorem exec_of_alu2 {s : State} {i : Instr} {d a b : Reg} {f : Word → Word → Word} {v : Word}
    (shape : exec i s = s.alu2 i d a b f) (value : f (s.fld [.s a, .s b] 0) (s.fld [.s a, .s b] 1) = v)
    (h : s.ready i [.s a, .s b] (some d) none) : exec i s = s.wrote [.s a, .s b] d v := by
  rw [shape, alu2_ready h, value]

/-- An instruction of the one-operand shape that is ready writes the value of its operation. -/
theorem exec_of_alu1 {s : State} {i : Instr} {d a : Reg} {f : Word → Word} {v : Word}
    (shape : exec i s = s.alu1 i d a f) (value : f (s.fld [.s a] 0) = v)
    (h : s.ready i [.s a] (some d) none) : exec i s = s.wrote [.s a] d v := by
  rw [shape, alu1_ready h, value]

/-- Settles O5: each instruction has the two-operand or the one-operand shape, and the lemmas above give the bits of its
operation. -/
theorem integerResults : Obligations.IntegerResults := by
  intro s d a b fs x y n z
  refine ⟨?_, fun h n le zeros one => ?_, fun h n le zeros one => ?_, fun h => ?_, fun h v hv => ?_⟩
  · simp only [List.forall_mem_cons, List.not_mem_nil, false_imp_iff, implies_true, and_true]
    refine ⟨?add, ?sub, ?and, ?or, ?xor, ?sll, ?srl, ?sra, ?slt, ?sltn, ?min, ?max, ?minn, ?maxn, ?mul, ?mulh, ?mulhn,
      ?div, ?divn, ?rem, ?remn⟩
    case add => exact exec_of_alu2 (exec_add ..) rfl
    case sub => exact exec_of_alu2 (exec_sub ..) rfl
    case and => exact exec_of_alu2 (exec_and ..) rfl
    case or => exact exec_of_alu2 (exec_or ..) rfl
    case xor => exact exec_of_alu2 (exec_xor ..) rfl
    case sll => exact exec_of_alu2 (exec_sll ..) (congrArg (x <<< ·) (toNat_mod_64 y))
    case srl => exact exec_of_alu2 (exec_srl ..) (congrArg (x >>> ·) (toNat_mod_64 y))
    case sra => exact exec_of_alu2 (exec_sra ..) (congrArg x.sshiftRight (toNat_mod_64 y))
    case slt => exact exec_of_alu2 (exec_slt ..) (bit_slt x y)
    case sltn => exact exec_of_alu2 (exec_sltn ..) (bit_ult x y)
    case min => exact exec_of_alu2 (exec_min ..) (slt_choice x y x y id)
    case max => exact exec_of_alu2 (exec_max ..) (slt_choice x y y x Eq.symm)
    case minn => exact exec_of_alu2 (exec_minn ..) (ult_choice x y x y id)
    case maxn => exact exec_of_alu2 (exec_maxn ..) (ult_choice x y y x Eq.symm)
    case mul => exact exec_of_alu2 (exec_mul ..) rfl
    case mulh => exact exec_of_alu2 (exec_mulh ..) (mulhS_eq_extract x y)
    case mulhn => exact exec_of_alu2 (exec_mulhn ..) (mulhU_eq_extract x y)
    case div => exact exec_of_alu2 (exec_div ..) (divS_eq x y)
    case divn => exact exec_of_alu2 (exec_divn ..) (divU_eq x y)
    case rem => exact exec_of_alu2 (exec_rem ..) (remS_eq x y)
    case remn => exact exec_of_alu2 (exec_remn ..) (remU_eq x y)
  · exact exec_of_alu1 (exec_clz ..) (clz_eq_word le zeros one) h
  · exact exec_of_alu1 (exec_ctz ..) (ctz_eq_word le zeros one) h
  · exact exec_of_alu1 (exec_popc ..) (popc_eq_word z) h
  · exact exec_of_alu1 (exec_brev ..) (brev_eq hv) h

end Sys2Proof.Proofs

/-! PROOF. The window tests SPTEST, SPCAST and LCHK (R28, R116, R117, R123). -/

namespace Sys2Proof.Proofs
open Sys2Proof Sys2Proof.Machine Sys2Proof.Laws

/-! ### A legal word of the A side -/

/-- A word of the running side that names no CSR and no group, whose registers are legal and that needs no VT, is legal
(R61 to R63). -/
theorem illegalSub_eq_none {s : State} {i : Instr} {sd : Side} (runs : s.own.side = sd) (side : i.onSide = some sd)
    (csr : i.csr? = none) (eret : (i == .eret) = false) (regs : i.regsLegal = true)
    (groups : i.groups s.h.csr.vt = []) (vt : i.vtNeed = .no) : s.illegalSub i = none := by
  simp [State.illegalSub, runs, side, csr, eret, regs, groups, vt, VtNeed.ok]

/-- An A-side register is written and the instruction completes. -/
theorem modH_writeA_complete {s : State} (h : s.unstepped = true) (d : Reg) (v : Word) :
    (s.modH (fun h => h.writeA d v)).complete = .next (s.modH (fun h => h.writeA d v)).advance :=
  complete_unstepped ((unstepped_of_eq (modH_own s _) (by rw [h_modH, hwriteA_tr])).trans h)

/-! ### What the three instructions do -/

theorem exec_sptest_gives {s : State} (d a : Reg) (hA : s.own.side = .A) (h : s.unstepped = true) :
    exec (.sptest d a) s =
      .next (s.modH (fun h => h.writeA d (word (winClass s s.own.cur (s.h.readA a))))).advance := by
  rw [exec_sptest, execSptest, gate_legal (illegalSub_eq_none hA rfl rfl rfl rfl rfl rfl)]
  exact modH_writeA_complete h d (word (winClass s s.own.cur (s.h.readA a)))

theorem exec_spcast_gives {s : State} {d a : Reg} {v : Word} (hA : s.own.side = .A) (h : s.unstepped = true)
    (cast : spcast s s.own.cur (s.h.readA a) = some v) :
    exec (.spcast d a) s = .next (s.modH (fun h => h.writeA d v)).advance := by
  rw [exec_spcast, execSpcast, gate_legal (illegalSub_eq_none hA rfl rfl rfl rfl rfl rfl)]
  dsimp only
  rw [cast]
  exact modH_writeA_complete h d v

theorem exec_spcast_raises {s : State} {d a : Reg} (hA : s.own.side = .A)
    (cast : spcast s s.own.cur (s.h.readA a) = none) :
    exec (.spcast d a) s =
      .next (s.takeTrap ⟨cWindow, s.h.readA a, word (winClass s s.own.cur (s.h.readA a))⟩ s.seq.pc) := by
  rw [exec_spcast, execSpcast, gate_legal (illegalSub_eq_none hA rfl rfl rfl rfl rfl rfl)]
  dsimp only
  rw [cast]
  rfl

theorem exec_lchk_gives {s : State} {d a b : Reg} {v : Word} (hA : s.own.side = .A) (h : s.unstepped = true)
    (value : word (s.lchk s.own.cur (s.h.readA a) (s.h.readA b)) = v) :
    exec (.lchk d a b) s = .next (s.modH (fun h => h.writeA d v)).advance := by
  rw [exec_lchk, execLchk, gate_legal (illegalSub_eq_none hA rfl rfl rfl rfl rfl rfl)]
  subst value
  exact modH_writeA_complete h d (word (s.lchk s.own.cur (s.h.readA a) (s.h.readA b)))

/-! ### Words -/

theorem toNat_append_eq_add {m n : Nat} (x : BitVec m) (y : BitVec n) :
    (x ++ y).toNat = x.toNat * 2 ^ n + y.toNat := by
  rw [BitVec.toNat_append, ← Nat.shiftLeft_add_eq_or_of_lt y.isLt, Nat.shiftLeft_eq]

/-- The B, FM, PG and FN fields of the R format stand where the I format has its immediate. -/
theorem mkR_eq_mkI (op : BitVec 7) (d a b : BitVec 5) (fm : BitVec 2) (pg : BitVec 3) (fn : BitVec 5) :
    mkR op d a b fm pg fn = mkI op d a (b ++ fm ++ pg ++ fn) := by
  apply BitVec.eq_of_toNat_eq
  simp only [mkR, mkI, toNat_append_eq_add]
  omega

theorem decode_sptest (d a : Reg) : decode (0x2C#7 ++ d ++ a ++ 0#15) = .ok (.sptest d a) := by
  have h : encode (.sptest d a) = 0x2C#7 ++ d ++ a ++ 0#15 := mkR_eq_mkI ..
  rw [← h]
  exact RoundTrip.sptest d a rfl

theorem decode_spcast (d a : Reg) : decode (0x2C#7 ++ d ++ a ++ 1#15) = .ok (.spcast d a) := by
  have h : encode (.spcast d a) = 0x2C#7 ++ d ++ a ++ 1#15 := mkR_eq_mkI ..
  rw [← h]
  exact RoundTrip.spcast d a rfl

/-! ### The window class (R28) -/

theorem winClass_le (s : State) (k : HartKey) (g : Word) : winClass s k g ≤ 7 := by
  unfold winClass
  repeat' split
  all_goals decide

theorem winClass_global {s : State} {k : HartKey} {g : Word} (top : gTop g = 0x00) : winClass s k g = 0 := by
  simp [winClass, top]

theorem winClass_private {s : State} {k : HartKey} {g : Word} (top : gTop g = 0xF0) :
    winClass s k g = if g.extractLsb' 40 16 = 0 then 1 else 7 := by
  simp [winClass, top]

theorem winClass_scratchpad {s : State} {k : HartKey} {g : Word} (top : gTop g = 0xF1) :
    winClass s k g =
      if g.extractLsb' 20 26 ≠ 0 then 7 else if gSlot g = k.slot ∧ gHartS g = k.idx then 2 else 3 := by
  simp [winClass, top]

theorem winClass_cluster {s : State} {k : HartKey} {g : Word} (top : gTop g = 0xF2) :
    winClass s k g =
      if g.extractLsb' 22 26 ≠ 0 then 7
      else if gSlot g = k.slot ∧ gHartC g < (s.caravan k).size then 4 else 5 := by
  simp [winClass, top]

theorem winClass_device {s : State} {k : HartKey} {g : Word} (top : gTop g = 0xFE) : winClass s k g = 6 := by
  simp [winClass, top]

theorem winClass_invalid {s : State} {k : HartKey} {g : Word} (top : gTop g ∉ [0x00, 0xF0, 0xF1, 0xF2, 0xFE]) :
    winClass s k g = 7 := by
  simp only [List.mem_cons, List.not_mem_nil, or_false, not_or] at top
  obtain ⟨h0, hF0, hF1, hF2, hFE⟩ := top
  simp [winClass, h0, hF0, hF1, hF2, hFE]

/-! ### The address in the other window (R117) -/

theorem spcast_own {s : State} {k : HartKey} {g : Word} (cls : winClass s k g = 2) :
    spcast s k g =
      some (0xF2#8 ++ g.extractLsb' 48 8 ++ 0#26 ++ g.extractLsb' 46 2 ++ g.extractLsb' 0 20) := by
  rw [spcast, if_pos cls]
  congr 1
  apply BitVec.eq_of_toNat_eq
  simp only [word, gSlot, gHartS, gOff, toNat_append_eq_add, BitVec.toNat_ofNat]
  omega

theorem spcast_cluster {s : State} {k : HartKey} {g : Word} (cls : winClass s k g = 4) (own : gHartC g = k.idx) :
    spcast s k g =
      some (0xF1#8 ++ g.extractLsb' 48 8 ++ g.extractLsb' 20 2 ++ 0#26 ++ g.extractLsb' 0 20) := by
  rw [spcast, if_neg (by omega), if_pos ⟨cls, own⟩]
  congr 1
  apply BitVec.eq_of_toNat_eq
  simp only [word, gSlot, gHartC, gOff, toNat_append_eq_add, BitVec.toNat_ofNat]
  omega

theorem spcast_none {s : State} {k : HartKey} {g : Word} (own : winClass s k g ≠ 2)
    (cluster : ¬(winClass s k g = 4 ∧ gHartC g = k.idx)) : spcast s k g = none := by
  rw [spcast, if_neg own, if_neg cluster]

/-! ### The word of LCHK (R123) -/

theorem lchk_zero (s : State) (k : HartKey) (a : Word) : s.lchk k a 0 = 0 := rfl

theorem lchk_none {s : State} {k : HartKey} {a b : Word} (ne : b ≠ 0)
    (cls : winClass s k a = 3 ∨ winClass s k a = 5 ∨ winClass s k a = 6 ∨ winClass s k a = 7) :
    s.lchk k a b = 0x8000 := by
  rcases cls with c | c | c | c <;> simp only [State.lchk, if_neg ne, c]

theorem lchk_cluster {s : State} {k : HartKey} {a b : Word} (ne : b ≠ 0)
    (cls : winClass s k a = 2 ∨ winClass s k a = 4) :
    s.lchk k a b = if gOff a + b.toNat ≤ s.spLimit k then 0x4003 else 0x8000 := by
  rcases cls with c | c <;> simp only [State.lchk, if_neg ne, c]

theorem lchk_private {s : State} {k : HartKey} {a b : Word} (ne : b ≠ 0) (cls : winClass s k a = 1) :
    s.lchk k a b = if gPriv a + b.toNat ≤ (s.hart k).mem.privSize then 0x4003 else 0x8000 := by
  simp only [State.lchk, if_neg ne, cls]

theorem lchk_global {s : State} {k : HartKey} {a b : Word} (ne : b ≠ 0) (cls : winClass s k a = 0) :
    s.lchk k a b = lchkGlobal (s.hart k).mem.leases (gVa a) b.toNat s.own.free := by
  simp only [State.lchk, if_neg ne, cls]

/-- Where a table of one lease governs an address, that lease does, under index 0, and it holds the address. -/
theorem leaseAt_singleton {l m : Lease} {va j : Nat} (h : leaseAt [l] va = some (j, m)) :
    j = 0 ∧ m = l ∧ l.base ≤ va ∧ va < l.base + l.len := by
  simp only [leaseAt, List.zipIdx_singleton, Option.map_eq_some_iff, List.find?_singleton, Option.ite_none_right_eq_some,
    Bool.and_eq_true, decide_eq_true_eq, Option.some.injEq, Prod.mk.injEq] at h
  obtain ⟨p, ⟨⟨lo, hi⟩, rfl⟩, rfl, rfl⟩ := h
  exact ⟨rfl, rfl, lo, hi⟩

/-- Above an address of a table's only lease, nothing changes before a stop within that lease. -/
theorem nextEdge_singleton {l : Lease} {va stop : Nat} (lo : l.base ≤ va) (hi : stop ≤ l.base + l.len) :
    nextEdge [l] va stop = stop := by
  simp only [nextEdge, List.foldl_cons, List.foldl_nil, Nat.not_lt.mpr lo, Nat.not_lt.mpr hi, false_and, and_false,
    if_false]

theorem governing_past {ls : List Lease} {stop fuel : Nat} : governing ls stop fuel stop = [] := by
  cases fuel <;> simp [governing]

/-- A range within a table's only lease is one segment, which that lease governs. -/
theorem governing_singleton {l : Lease} {va stop : Nat} (at_ : leaseAt [l] va = some (0, l)) (lt : va < stop)
    (hi : stop ≤ l.base + l.len) (fuel : Nat) : governing [l] stop (fuel + 1) va = [some (0, l)] := by
  obtain ⟨-, -, lo, -⟩ := leaseAt_singleton at_
  rw [governing, if_neg (by omega), nextEdge_singleton lo hi, governing_past, at_]

theorem lchkGlobal_singleton {l : Lease} {va n : Nat} (free : Nat) (at_ : leaseAt [l] va = some (0, l)) (pos : 0 < n)
    (hi : va + n ≤ l.base + l.len) (top : va + n ≤ 2 ^ 56) :
    lchkGlobal [l] va n free =
      (if l.rd then 16 else 0) + (if l.sc then 8 else 0) + (if l.ns then 4 else 0) + (if l.w then 2 else 0) +
        (if l.r then 1 else 0) := by
  have segs : governing [l] (min (va + n) (2 ^ 56)) (2 * [l].length + 1) va = [some (0, l)] := by
    rw [Nat.min_eq_left top]
    exact governing_singleton at_ (by omega) hi _
  unfold lchkGlobal
  rw [segs, at_]
  have below : ¬(va + n > 2 ^ 56) := Nat.not_lt.mpr top
  simp [-Nat.reducePow, below]

/-- Settles O22: each instruction runs by its equation above, and its value by the lemmas about the window class, the
cast and the word of LCHK. -/
theorem windowTests : Obligations.WindowTests := by
  intro s d a b hA hstep g n cls gives
  refine ⟨decode_sptest d a, decode_spcast d a, exec_sptest_gives d a hA hstep, winClass_le .., ?classes, ?toCluster,
    ?toOwn, ?window, ?empty, ?foreign, ?scratchpad, ?priv, ?leased⟩
  case classes =>
    exact ⟨winClass_global, winClass_private, winClass_scratchpad, winClass_cluster, winClass_device, winClass_invalid⟩
  case toCluster => exact fun c => exec_spcast_gives hA hstep (spcast_own c)
  case toOwn => exact fun c own => exec_spcast_gives hA hstep (spcast_cluster c own)
  case window => exact fun own cluster => exec_spcast_raises hA (spcast_none own cluster)
  case empty =>
    intro e
    exact exec_lchk_gives hA hstep (by rw [show s.h.readA b = 0 from e, lchk_zero]; rfl)
  case foreign => exact fun ne c => exec_lchk_gives hA hstep (by rw [lchk_none ne c]; rfl)
  case scratchpad =>
    intro ne c
    exact exec_lchk_gives hA hstep (by rw [lchk_cluster ne c, apply_ite word]; rfl)
  case priv =>
    intro ne c
    exact exec_lchk_gives hA hstep (by rw [lchk_private ne c, apply_ite word]; rfl)
  case leased =>
    intro j l ne c only at_ hi top
    rw [only] at at_
    obtain ⟨rfl, -, -, -⟩ := leaseAt_singleton at_
    have pos : 0 < n.toNat := BitVec.toNat_pos_of_ne_zero ne
    refine exec_lchk_gives hA hstep (congrArg word ?_)
    rw [lchk_global ne c, show (s.hart s.own.cur).mem.leases = [l] from only, lchkGlobal_singleton _ at_ pos hi top]

end Sys2Proof.Proofs

/-! PROOF. The predicate instructions, PSNGET and PSNCLR (R200, R207). -/

namespace Sys2Proof.Proofs
open Sys2Proof Sys2Proof.Machine Sys2Proof.Laws

/-! ### Words of OP 0x70 and OP 0x7E -/

/-- A word that the tables do not hold is an error, whichever check refuses it (R62). -/
theorem decode_error_of_raw {w : BitVec 32} (h : decodeRaw w = none) : ∃ e, decode w = .error e := by
  unfold decode
  rw [h]
  cases opAssigned (fOp w).toNat
  · exact ⟨.opcode, rfl⟩
  · exact ⟨.field, rfl⟩

/-- OP 0x70 is read by the predicate table alone. -/
theorem decode_error_of_decPred {d a b : BitVec 6} {fn : BitVec 7} (h : decPred (mkP 0x70 d a b fn) = none) :
    ∃ e, decode (mkP 0x70 d a b fn) = .error e := by
  refine decode_error_of_raw ?_
  unfold decodeRaw
  rw [fOp_mkP]
  exact h

theorem decPred_eq_none_of_ten_le {fn : BitVec 7} (d a b : BitVec 6) (h : 10 ≤ fn.toNat) :
    decPred (mkP 0x70 d a b fn) = none := by
  obtain ⟨k, hk⟩ := Nat.exists_eq_add_of_le' h
  unfold decPred
  rw [fPFN_mkP, hk]
  rfl

/-- PNOT, PCNT, PFIRST and PMOV have no second operand. -/
theorem decPred_eq_none_of_fPB_ne {fn : BitVec 7} {b : BitVec 6} (d a : BitVec 6) (h : b ≠ 0)
    (row : fn ∈ [4, 5, 6, 9]) : decPred (mkP 0x70 d a b fn) = none := by
  have used : (b == 0) = false := beq_false_of_ne h
  simp only [List.mem_cons, List.not_mem_nil, or_false] at row
  unfold decPred
  rw [fPFN_mkP, fPB_mkP, used]
  rcases row with rfl | rfl | rfl | rfl <;> rfl

/-- PSET and PCLR have no operand. -/
theorem decPred_eq_none_of_operand {fn : BitVec 7} {a b : BitVec 6} (d : BitVec 6) (h : a ≠ 0 ∨ b ≠ 0)
    (row : fn ∈ [7, 8]) : decPred (mkP 0x70 d a b fn) = none := by
  have used : (a == 0 && b == 0) = false := by
    rw [Bool.and_eq_false_iff]
    exact h.imp beq_false_of_ne beq_false_of_ne
  simp only [List.mem_cons, List.not_mem_nil, or_false] at row
  unfold decPred
  rw [fPFN_mkP, fPA_mkP, fPB_mkP, used]
  rcases row with rfl | rfl <;> rfl

theorem decode_psnget (r : Reg) : decode (0x7E#7 ++ r ++ 0#20) = .ok (.psnget r) := by
  have h : mkR 0x7E r 0 0 0 0 0 = 0x7E#7 ++ r ++ 0#20 := by
    apply BitVec.eq_of_toNat_eq
    simp only [mkR, toNat_append_eq_add, BitVec.ofNat_eq_ofNat, BitVec.toNat_ofNat]
    omega
  rw [← h]
  exact RoundTrip.psnget r rfl

theorem decode_psnclr : decode 0xFC000001 = .ok .psnclr := RoundTrip.psnclr rfl

/-- A word that is no instruction raises ILLEGAL with subcode 0 on a side that runs (R62, R63). -/
theorem exec_illegalWord_gives {s : State} {w : BitVec 32} {e : DecodeError} (undecoded : decode w = .error e)
    (ir : s.own.ir = w) (runs : s.canRun s.own.cur s.own.side = true) (calm : s.h.calm s.own.side = true) :
    exec (.illegalWord w) s = s.illegal 0 := by
  subst ir
  rw [exec_illegalWord, execIllegalWord, undecoded]
  simp only [runs, calm, Bool.and_self, if_true]

/-! ### Legality -/

/-- A word of the running side that names no CSR and breaks a limit of its registers is ILLEGAL with subcode 3 (R63). -/
theorem illegalSub_eq_three {s : State} {i : Instr} {sd : Side} (runs : s.own.side = sd) (side : i.onSide = some sd)
    (csr : i.csr? = none) (eret : (i == .eret) = false) (regs : i.regsLegal = false) : s.illegalSub i = some 3 := by
  simp [State.illegalSub, runs, side, csr, eret, regs]

theorem decide_lt_32_eq_false {d : BitVec 6} (h : 32 ≤ d.toNat) : decide (d < 32) = false :=
  decide_eq_false (Nat.not_lt.mpr h)

theorem exec_pcnt_illegal {s : State} {d : BitVec 6} (a : BitVec 6) (hX : s.own.side = .X) (h : 32 ≤ d.toNat) :
    exec (.pcnt d a) s = s.illegal 3 := by
  rw [exec_pcnt, execPcnt, State.pscalar]
  exact gate_illegal (illegalSub_eq_three hX rfl rfl rfl (decide_lt_32_eq_false h))

theorem exec_pfirst_illegal {s : State} {d : BitVec 6} (a : BitVec 6) (hX : s.own.side = .X) (h : 32 ≤ d.toNat) :
    exec (.pfirst d a) s = s.illegal 3 := by
  rw [exec_pfirst, execPfirst, State.pscalar]
  exact gate_illegal (illegalSub_eq_three hX rfl rfl rfl (decide_lt_32_eq_false h))

/-! ### A predicate read without an error -/

section Calm
variable {s : State} (calm : s.own.upset = .none)
include calm

theorem predErr_eq_false : s.predErr = false := by
  unfold State.predErr
  rw [calm]
  rfl

theorem predOperand_eq (p : BitVec 6) : s.predOperand p = s.h.readP p := by
  simp [State.predOperand, predErr_eq_false calm]

theorem predPsm_eq : s.predPsm = s.h.regs.psm := by
  simp [State.predPsm, predErr_eq_false calm]

theorem clearErr_eq (v : PReg) : s.clearErr v = v := by
  simp [State.clearErr, predErr_eq_false calm]

end Calm

/-! ### Writes to predicates and to PSM -/

theorem writeP_setPsm_self (h : Hart) (d : BitVec 6) (v : PReg) : (h.writeP d v).setPsm h.regs.psm = h.writeP d v := by
  unfold Hart.writeP
  split <;> rfl

@[simp] theorem writeP_tr (h : Hart) (d : BitVec 6) (v : PReg) : (h.writeP d v).tr = h.tr := by
  unfold Hart.writeP
  split <;> rfl

/-- A change of the running hart that leaves its trap record alone completes by advancing. -/
theorem modH_complete {s : State} (hstep : s.unstepped = true) {f : Hart → Hart} (tr : (f s.h).tr = s.h.tr) :
    (s.modH f).complete = .next (s.modH f).advance :=
  complete_unstepped ((unstepped_of_eq (modH_own s f) (by rw [h_modH, tr])).trans hstep)

theorem modH_writeP_complete {s : State} (hstep : s.unstepped = true) (d : BitVec 6) (v : PReg) :
    (s.modH (fun h => h.writeP d v)).complete = .next (s.modH (fun h => h.writeP d v)).advance :=
  modH_complete hstep (writeP_tr _ d v)

/-! ### The two shapes of OP 0x70 -/

theorem plogic_gives {s : State} {i : Instr} {d : BitVec 6} {v : State → PReg} {x : PReg} (calm : s.own.upset = .none)
    (hstep : s.unstepped = true) (legal : s.illegalSub i = none) (value : v s = x) :
    s.plogic i d v = .next (s.modH (fun h => h.writeP d x)).advance := by
  subst value
  have keepsPsm : s.modH (fun h => (h.writeP d (v s)).setPsm s.h.regs.psm) = s.modH (fun h => h.writeP d (v s)) :=
    congrArg s.setH (writeP_setPsm_self s.h d (v s))
  rw [State.plogic, gate_legal legal, predPsm_eq calm, keepsPsm, modH_writeP_complete hstep]

theorem pscalar_gives {s : State} {i : Instr} {d : BitVec 6} {v : State → Word} {x : Word} (calm : s.own.upset = .none)
    (hX : s.own.side = .X) (ready : s.ready i [] (some (d.setWidth 5)) none) (value : v s = x) :
    s.pscalar i d v = s.wrote [] (d.setWidth 5) x := by
  obtain ⟨legal, unblocked, hstep⟩ := ready
  have keepsPsm : s.modH (fun h => h.setPsm s.h.regs.psm) = s.popAll [] := by
    unfold State.popAll
    rw [hX]
    rfl
  rw [State.pscalar, gate_legal legal, withQueues_ready unblocked, predPsm_eq calm, keepsPsm, wrote_complete hstep, value]

/-! ### What each instruction does -/

section Rows
variable {s : State} (calm : s.own.upset = .none) (hstep : s.unstepped = true) (hX : s.own.side = .X)

section Logic
include calm hstep hX

theorem exec_pand_gives (d a b : BitVec 6) :
    exec (.pand d a b) s = .next (s.modH (fun h => h.writeP d (s.h.readP a &&& s.h.readP b))).advance := by
  rw [exec_pand, execPand]
  exact plogic_gives calm hstep (illegalSub_eq_none hX rfl rfl rfl rfl rfl rfl) (by simp only [predOperand_eq calm])

theorem exec_por_gives (d a b : BitVec 6) :
    exec (.por d a b) s = .next (s.modH (fun h => h.writeP d (s.h.readP a ||| s.h.readP b))).advance := by
  rw [exec_por, execPor]
  exact plogic_gives calm hstep (illegalSub_eq_none hX rfl rfl rfl rfl rfl rfl) (by simp only [predOperand_eq calm])

theorem exec_pxor_gives (d a b : BitVec 6) :
    exec (.pxor d a b) s = .next (s.modH (fun h => h.writeP d (s.h.readP a ^^^ s.h.readP b))).advance := by
  rw [exec_pxor, execPxor]
  exact plogic_gives calm hstep (illegalSub_eq_none hX rfl rfl rfl rfl rfl rfl) (by simp only [predOperand_eq calm])

theorem exec_pandn_gives (d a b : BitVec 6) :
    exec (.pandn d a b) s = .next (s.modH (fun h => h.writeP d (s.h.readP a &&& ~~~(s.h.readP b)))).advance := by
  rw [exec_pandn, execPandn]
  exact plogic_gives calm hstep (illegalSub_eq_none hX rfl rfl rfl rfl rfl rfl) (clearErr_eq calm _)

theorem exec_pnot_gives (d a : BitVec 6) :
    exec (.pnot d a) s = .next (s.modH (fun h => h.writeP d (~~~(s.h.readP a)))).advance := by
  rw [exec_pnot, execPnot]
  exact plogic_gives calm hstep (illegalSub_eq_none hX rfl rfl rfl rfl rfl rfl) (clearErr_eq calm _)

theorem exec_pmov_gives (d a : BitVec 6) :
    exec (.pmov d a) s = .next (s.modH (fun h => h.writeP d (s.h.readP a))).advance := by
  rw [exec_pmov, execPmov]
  exact plogic_gives calm hstep (illegalSub_eq_none hX rfl rfl rfl rfl rfl rfl) (predOperand_eq calm a)

end Logic

section Constant
include hstep hX

theorem exec_pset_gives (d : BitVec 6) :
    exec (.pset d) s = .next (s.modH (fun h => h.writeP d (BitVec.allOnes 2048))).advance := by
  rw [exec_pset, execPset, gate_legal (illegalSub_eq_none hX rfl rfl rfl rfl rfl rfl), modH_writeP_complete hstep]

theorem exec_pclr_gives (d : BitVec 6) : exec (.pclr d) s = .next (s.modH (fun h => h.writeP d 0)).advance := by
  rw [exec_pclr, execPclr, gate_legal (illegalSub_eq_none hX rfl rfl rfl rfl rfl rfl), modH_writeP_complete hstep]

theorem exec_psnget_gives (r : Reg) :
    exec (.psnget r) s = .next (s.modH (fun h => h.writeP (r.zeroExtend 6) h.regs.psm)).advance := by
  rw [exec_psnget, execPsnget, gate_legal (illegalSub_eq_none hX rfl rfl rfl rfl rfl rfl),
    modH_complete hstep (writeP_tr ..)]

theorem exec_psnclr_gives : exec .psnclr s = .next (s.modH (fun h => h.setPsm 0)).advance := by
  rw [exec_psnclr, execPsnclr, gate_legal (illegalSub_eq_none hX rfl rfl rfl rfl rfl rfl), modH_complete hstep rfl]

end Constant

section Scalar
include calm hX

theorem exec_pcnt_gives {d a : BitVec 6} (ready : s.ready (.pcnt d a) [] (some (d.setWidth 5)) none) :
    exec (.pcnt d a) s =
      s.wrote [] (d.setWidth 5) (word ((List.range s.h.x.vl).filter (fun e => (s.h.readP a).getLsbD e)).length) := by
  rw [exec_pcnt, execPcnt]
  refine pscalar_gives calm hX ready ?_
  rw [predOperand_eq calm, List.countP_eq_length_filter]

theorem exec_pfirst_gives {d a : BitVec 6} (ready : s.ready (.pfirst d a) [] (some (d.setWidth 5)) none) :
    exec (.pfirst d a) s =
      s.wrote [] (d.setWidth 5) (match (List.range s.h.x.vl).filter (fun e => (s.h.readP a).getLsbD e) with
        | [] => -1
        | e :: _ => word e) := by
  rw [exec_pfirst, execPfirst]
  refine pscalar_gives calm hX ready ?_
  rw [predOperand_eq calm, ← List.head?_filter]
  cases (List.range s.h.x.vl).filter (fun e => (s.h.readP a).getLsbD e) with
  | nil => rfl
  | cons e rest => rfl

end Scalar

end Rows

/-- Settles O33: the words by the predicate table, and each instruction by its equation above. That none of them touches
VSTART is the model's choice (log 93). -/
theorem predicateResults : Obligations.PredicateResults := by
  intro s d a b r calm hstep hX x y below p illegal
  have refused {fn : BitVec 7} (h : decPred (mkP 0x70 d a b fn) = none) : illegal fn := decode_error_of_decPred h
  refine ⟨⟨RoundTrip.pand d a b rfl, RoundTrip.por d a b rfl, RoundTrip.pxor d a b rfl, RoundTrip.pandn d a b rfl,
    ?oneOperand, ?noOperand, ?secondUsed, ?anyUsed, ?unassigned⟩, ⟨decode_psnget r, decode_psnclr⟩, ?noInstruction,
    fun h => ⟨exec_pcnt_illegal a hX h, exec_pfirst_illegal a hX h⟩, ?logic, exec_pcnt_gives calm hX,
    exec_pfirst_gives calm hX, exec_psnget_gives hstep hX r, exec_psnclr_gives hstep hX⟩
  case oneOperand =>
    rintro rfl
    exact ⟨RoundTrip.pnot d a rfl, RoundTrip.pcnt d a rfl, RoundTrip.pfirst d a rfl, RoundTrip.pmov d a rfl⟩
  case noOperand =>
    rintro rfl rfl
    exact ⟨RoundTrip.pset d rfl, RoundTrip.pclr d rfl⟩
  case secondUsed =>
    intro h
    have rows : ∀ fn ∈ ([4, 5, 6, 9] : List (BitVec 7)), illegal fn :=
      fun fn row => refused (decPred_eq_none_of_fPB_ne d a h row)
    exact ⟨rows 4 (by decide), rows 5 (by decide), rows 6 (by decide), rows 9 (by decide)⟩
  case anyUsed =>
    intro h
    have rows : ∀ fn ∈ ([7, 8] : List (BitVec 7)), illegal fn :=
      fun fn row => refused (decPred_eq_none_of_operand d h row)
    exact ⟨rows 7 (by decide), rows 8 (by decide)⟩
  case unassigned => exact fun fn h => refused (decPred_eq_none_of_ten_le d a b h)
  case noInstruction =>
    intro w e undecoded ir runs calmX
    exact exec_illegalWord_gives undecoded ir runs (hX ▸ calmX)
  case logic =>
    simp only [List.forall_mem_cons, List.not_mem_nil, false_implies, implies_true, and_true]
    exact ⟨exec_pand_gives calm hstep hX d a b, exec_por_gives calm hstep hX d a b, exec_pxor_gives calm hstep hX d a b,
      exec_pandn_gives calm hstep hX d a b, exec_pnot_gives calm hstep hX d a, exec_pset_gives hstep hX d,
      exec_pclr_gives hstep hX d, exec_pmov_gives calm hstep hX d a⟩

end Sys2Proof.Proofs

/-! PROOF. MMAZ and MTRANS (R249, R250). -/

namespace Sys2Proof.Proofs
open Sys2Proof Sys2Proof.Machine Sys2Proof.Laws

/-! ### Advancing -/

theorem h_advance (s : State) :
    s.advance.h = s.h.setSeq s.own.side (yieldStop s.h s.seq.advance (atEnd s.seq)) :=
  h_modH s _

theorem hart_advance_other (s : State) {k : HartKey} (ne : k ≠ s.own.cur) : s.advance.hart k = s.hart k :=
  hart_modH_other s _ ne

@[simp] theorem yieldStop_pc (h : Hart) (q : Seq) (point : Bool) : (yieldStop h q point).pc = q.pc := by
  unfold yieldStop
  split <;> rfl

/-- Where a sequencer goes next rests on its PC and its loop stack. -/
theorem seqAdvance_pc_congr {q r : Seq} (pc : q.pc = r.pc) (loops : q.loops = r.loops) :
    q.advance.pc = r.advance.pc := by
  unfold Seq.advance atEnd
  rw [pc, loops]
  split <;> split <;> rfl

theorem advance_pc_congr {s t : State} (pc : t.seq.pc = s.seq.pc) (loops : t.seq.loops = s.seq.loops) :
    t.advance.seq.pc = s.advance.seq.pc := by
  unfold State.advance
  rw [seq_setSeq, seq_setSeq, yieldStop_pc, yieldStop_pc, seqAdvance_pc_congr pc loops]

/-! ### Registers of a group -/

theorem getElem?_foldl_setIfInBounds {α : Type} {n : Nat} (base : Nat) (vs : List α) :
    ∀ (k : Nat) (v : Vector α n) (i : Nat), base + k + vs.length ≤ n →
    ((vs.zipIdx k).foldl (fun acc vi => acc.setIfInBounds (base + vi.2) vi.1) v)[i]? =
      if base + k ≤ i ∧ i < base + k + vs.length then vs[i - (base + k)]? else v[i]? := by
  induction vs with
  | nil =>
    intro k v i _
    rw [if_neg (by simp only [List.length_nil]; omega)]
    rfl
  | cons y ys ih =>
    intro k v i fits
    rw [List.length_cons] at fits ⊢
    rw [List.zipIdx_cons, List.foldl_cons, ih (k + 1) _ i (by omega), Vector.getElem?_setIfInBounds]
    rcases Nat.lt_trichotomy i (base + k) with below | rfl | above
    · rw [if_neg (by omega), if_neg (by omega), if_neg (by omega)]
    · rw [if_neg (by omega), if_pos rfl, if_pos (by omega), if_pos (by omega), Nat.sub_self]
      rfl
    · rw [if_neg (show ¬base + k = i by omega)]
      by_cases inside : i < base + k + (ys.length + 1)
      · rw [if_pos (by omega), if_pos (by omega), show i - (base + k) = i - (base + (k + 1)) + 1 by omega,
          List.getElem?_cons_succ]
      · rw [if_neg (by omega), if_neg (by omega)]

/-- Writing a group changes the registers from its base on, one for each value. -/
theorem setGroup_v_getElem? {r : Reg} {vs : List VReg} (h : Hart) (fits : r.toNat + vs.length ≤ 32) (i : Nat) :
    (h.setGroup r vs).regs.v.toList[i]? =
      if r.toNat ≤ i ∧ i < r.toNat + vs.length then vs[i - r.toNat]? else h.regs.v.toList[i]? := by
  rw [Vector.getElem?_toList, Vector.getElem?_toList]
  exact getElem?_foldl_setIfInBounds r.toNat vs 0 h.regs.v i fits

theorem setGroup_v_other {r : Reg} {vs : List VReg} (h : Hart) (fits : r.toNat + vs.length ≤ 32) {i : Nat}
    (out : i < r.toNat ∨ r.toNat + vs.length ≤ i) :
    (h.setGroup r vs).regs.v.toList[i]? = h.regs.v.toList[i]? := by
  rw [setGroup_v_getElem? h fits, if_neg (by omega)]

@[simp] theorem length_vGroup (h : Hart) (r : Reg) (n : Nat) : (h.vGroup r n).length = n := by simp [Hart.vGroup]

/-- The first registers of a group that has been written. -/
theorem vGroup_setGroup {r : Reg} {vs : List VReg} (h : Hart) (fits : r.toNat + vs.length ≤ 32) {n : Nat}
    (le : n ≤ vs.length) : (h.setGroup r vs).vGroup r n = vs.take n := by
  refine List.ext_getElem (by simp [le]) (fun i hi _ => ?_)
  have hi : i < n := by simpa using hi
  simp only [Hart.vGroup, List.getElem_map, List.getElem_range, List.getElem_take, List.getD_eq_getElem?_getD]
  rw [setGroup_v_getElem? h fits, if_pos (by omega), Nat.add_sub_cancel_left, List.getElem?_eq_getElem (by omega),
    Option.getD_some]

/-! ### Elements of a group -/

theorem getLsbD_putBits (r : VReg) {w o i : Nat} (v : Nat) (hi : i < 8192) :
    (putBits r w o v).getLsbD i = if o ≤ i ∧ i < o + w then v.testBit (i - o) else r.getLsbD i := by
  simp only [putBits, BitVec.getLsbD_or, BitVec.getLsbD_and, BitVec.getLsbD_not, BitVec.getLsbD_shiftLeft,
    BitVec.getLsbD_ofNat, Nat.testBit_two_pow_sub_one, Nat.testBit_mod_two_pow, hi, decide_true, Bool.true_and]
  by_cases lo : i < o
  · simp [lo, Nat.not_le.mpr lo]
  · have inReg : i - o < 8192 := by omega
    by_cases inside : i - o < w
    · simp [lo, inReg, inside, show o ≤ i by omega, show i < o + w by omega]
    · simp [lo, inReg, inside, show ¬i < o + w by omega]

theorem vGet_lt (regs : List VReg) (w e : Nat) : vGet regs w e < 2 ^ w := BitVec.isLt _

theorem extractLsb'_putBits_same (r : VReg) {w o : Nat} (v : Nat) (fits : o + w ≤ 8192) :
    (putBits r w o v).extractLsb' o w = BitVec.ofNat w v := by
  refine BitVec.eq_of_getLsbD_eq (fun i hi => ?_)
  rw [BitVec.getLsbD_extractLsb', getLsbD_putBits r v (by omega), if_pos (by omega), Nat.add_sub_cancel_left,
    BitVec.getLsbD_ofNat]

theorem extractLsb'_putBits_other (r : VReg) {w o p : Nat} (v : Nat) (fits : p + w ≤ 8192)
    (apart : p + w ≤ o ∨ o + w ≤ p) : (putBits r w o v).extractLsb' p w = r.extractLsb' p w := by
  refine BitVec.eq_of_getLsbD_eq (fun i hi => ?_)
  rw [BitVec.getLsbD_extractLsb', BitVec.getLsbD_extractLsb', getLsbD_putBits r v (by omega), if_neg (by omega)]

/-- An element lies within its register. -/
theorem element_fits {w : Nat} (e : Nat) (pos : 0 < perReg w) : w * (e % perReg w) + w ≤ 8192 := by
  have lt : e % perReg w + 1 ≤ perReg w := Nat.mod_lt e pos
  calc w * (e % perReg w) + w = w * (e % perReg w + 1) := (Nat.mul_succ ..).symm
    _ ≤ w * perReg w := Nat.mul_le_mul_left w lt
    _ ≤ 8192 := Nat.mul_div_le 8192 w

@[simp] theorem length_vSet (regs : List VReg) (w e v : Nat) : (vSet regs w e v).length = regs.length := by
  simp [vSet]

theorem vGet_vSet_same {regs : List VReg} {w e : Nat} (v : Nat) (h : e < regs.length * perReg w) :
    vGet (vSet regs w e v) w e = v % 2 ^ w := by
  have pos : 0 < perReg w := Nat.pos_of_mul_pos_left (Nat.zero_lt_of_lt h)
  have reg : e / perReg w < regs.length := Nat.div_lt_of_lt_mul (Nat.mul_comm .. ▸ h)
  unfold vGet vSet
  rw [List.getD_eq_getElem?_getD, List.getElem?_modify_eq, List.getElem?_eq_getElem reg,
    Option.map_eq_map, Option.map_some, Option.getD_some, extractLsb'_putBits_same _ v (element_fits e pos),
    BitVec.toNat_ofNat]

theorem vGet_vSet_other (regs : List VReg) {w e f : Nat} (v : Nat) (pos : 0 < perReg w) (ne : f ≠ e) :
    vGet (vSet regs w e v) w f = vGet regs w f := by
  unfold vGet vSet
  rw [List.getD_eq_getElem?_getD, List.getD_eq_getElem?_getD, List.getElem?_modify]
  cases regs[f / perReg w]? with
  | none => rfl
  | some r =>
    rw [Option.map_eq_map, Option.map_some, Option.getD_some, Option.getD_some]
    split
    next reg =>
      have place_ne : f % perReg w ≠ e % perReg w := fun place =>
        ne (by rw [← Nat.div_add_mod f (perReg w), ← Nat.div_add_mod e (perReg w), reg, place])
      have apart : w * (f % perReg w) + w ≤ w * (e % perReg w) ∨ w * (e % perReg w) + w ≤ w * (f % perReg w) := by
        rw [← Nat.mul_succ, ← Nat.mul_succ]
        exact (Nat.lt_or_gt_of_ne place_ne).imp (Nat.mul_le_mul_left w) (Nat.mul_le_mul_left w)
      rw [extractLsb'_putBits_other r v (element_fits f pos) apart]
    next => rfl

/-- The elements 0 to n − 1 of a group written in turn, each with its value. -/
def vFill (regs : List VReg) (w : Nat) (x : Nat → Nat) (n : Nat) : List VReg :=
  (List.range n).foldl (fun acc e => vSet acc w e (x e)) regs

theorem vFill_succ (regs : List VReg) (w : Nat) (x : Nat → Nat) (n : Nat) :
    vFill regs w x (n + 1) = vSet (vFill regs w x n) w n (x n) := by
  unfold vFill
  rw [List.range_succ, List.foldl_append, List.foldl_cons, List.foldl_nil]

@[simp] theorem length_vFill (regs : List VReg) (w : Nat) (x : Nat → Nat) (n : Nat) :
    (vFill regs w x n).length = regs.length := by
  induction n with
  | zero => rfl
  | succ n ih => rw [vFill_succ, length_vSet, ih]

theorem vGet_vFill {regs : List VReg} {w n : Nat} (x : Nat → Nat) (fits : n ≤ regs.length * perReg w) :
    ∀ e < n, vGet (vFill regs w x n) w e = x e % 2 ^ w := by
  induction n with
  | zero => exact fun e h => absurd h (Nat.not_lt_zero e)
  | succ n ih =>
    intro e h
    have room : n < (vFill regs w x n).length * perReg w := by rwa [length_vFill]
    rw [vFill_succ]
    rcases Nat.lt_succ_iff_lt_or_eq.mp h with lt | rfl
    · have pos : 0 < perReg w := Nat.pos_of_mul_pos_left (Nat.zero_lt_of_lt room)
      rw [vGet_vSet_other _ _ pos (Nat.ne_of_lt lt), ih (Nat.le_of_succ_le fits) e lt]
    · exact vGet_vSet_same _ room

/-! ### What MMAZ and MTRANS leave: a group written, VSTART 0 -/

/-- The running hart's group at `c` takes `vs`, VSTART becomes 0, and the instruction completes (R240, R249, R250). -/
def tileWritten (s : State) (c : Reg) (vs : List VReg) : State :=
  (s.modH (fun h => (h.setGroup c vs).xVstart 0)).advance

section Tile
variable {s : State} (c : Reg) (vs : List VReg)

theorem tileWritten_complete (hstep : s.unstepped = true) :
    (s.modH (fun h => (h.setGroup c vs).xVstart 0)).complete = .next (tileWritten s c vs) :=
  modH_complete hstep rfl

/-- Of the running hart only the group and the X side's sequencer change. -/
theorem tileWritten_h (hX : s.own.side = .X) : ∃ x, (tileWritten s c vs).h = { s.h.setGroup c vs with x := x } := by
  unfold tileWritten
  rw [h_advance, h_modH, modH_own, hX]
  exact ⟨_, rfl⟩

theorem tileWritten_pc (hX : s.own.side = .X) : (tileWritten s c vs).seq.pc = s.advance.seq.pc := by
  have seq : (s.modH (fun h => (h.setGroup c vs).xVstart 0)).seq = { s.seq with vstart := 0 } := by
    unfold State.seq
    rw [h_modH, modH_own, hX]
    rfl
  exact advance_pc_congr (by rw [seq]) (by rw [seq])

theorem hart_tileWritten_other {k : HartKey} (ne : k ≠ s.own.cur) : (tileWritten s c vs).hart k = s.hart k :=
  (hart_advance_other (s.modH _) ne).trans (hart_modH_other s _ ne)

/-- Beside its group, such an instruction leaves everything that R249 and R250 do not name: the other files, PSM, the
queues and the CSRs. -/
theorem tileWritten_keeps (hX : s.own.side = .X) :
    s.xkeeps (tileWritten s c vs) ∧ s.pkeeps (tileWritten s c vs) ∧ (tileWritten s c vs).h.regs.x = s.h.regs.x ∧
      (tileWritten s c vs).h.q = s.h.q ∧ (tileWritten s c vs).h.regs.psm = s.h.regs.psm ∧
      (tileWritten s c vs).h.csr = s.h.csr := by
  obtain ⟨x, hart⟩ := tileWritten_h (s := s) c vs hX
  have pc := tileWritten_pc (s := s) c vs hX
  unfold State.xkeeps State.pkeeps
  rw [hart]
  exact ⟨⟨rfl, rfl, rfl, rfl, rfl, rfl, rfl, rfl, pc, fun _ ne => hart_tileWritten_other c vs ne⟩, rfl, rfl, rfl, rfl, rfl⟩

variable {c vs} (hX : s.own.side = .X) (fits : c.toNat + vs.length ≤ 32)
include hX fits

theorem tileWritten_vGroup {n : Nat} (le : n ≤ vs.length) : (tileWritten s c vs).h.vGroup c n = vs.take n := by
  obtain ⟨x, hart⟩ := tileWritten_h (s := s) c vs hX
  rw [hart]
  exact vGroup_setGroup s.h fits le

theorem tileWritten_other {r : Nat} (out : r < c.toNat ∨ c.toNat + vs.length ≤ r) :
    (tileWritten s c vs).h.regs.v.toList[r]? = s.h.regs.v.toList[r]? := by
  obtain ⟨x, hart⟩ := tileWritten_h (s := s) c vs hX
  rw [hart]
  exact setGroup_v_other s.h fits out

end Tile

/-! ### Legality -/

theorem ite_some_ne_none {α : Type} {p : Prop} [Decidable p] {x : α} {o : Option α} (h : o ≠ none) :
    (if p then some x else o) ≠ none := by
  split
  · exact Option.some_ne_none x
  · exact h

theorem regsLegal_of_legal {s : State} {i : Instr} (legal : s.illegalSub i = none) : i.regsLegal = true := by
  cases regs : i.regsLegal with
  | true => rfl
  | false =>
    simp only [State.illegalSub, regs, Bool.not_false, Bool.true_or, if_true] at legal
    exact absurd legal (ite_some_ne_none (ite_some_ne_none (Option.some_ne_none 3)))

theorem tileBase_room {r : Reg} (h : tileBase r = true) : r.toNat + 8 ≤ 24 := by
  simp only [tileBase, Bool.or_eq_true, beq_iff_eq] at h
  rcases h with (rfl | rfl) | rfl <;> decide

theorem mtrans_room {c b : Reg} {ty : TTy} (h : (Instr.mtrans c b ty).regsLegal = true) : c.toNat + 8 ≤ 24 :=
  tileBase_room (Bool.and_eq_true_iff.mp h).1

/-- How many registers MMAZ clears (R249). -/
def mmazRegs : ZTy → Nat
  | .f64 => 1
  | .f32 => 2

theorem mmaz_regsLegal_iff (c : Reg) (z : ZTy) :
    (Instr.mmaz c z).regsLegal = true ↔ c.toNat + mmazRegs z ≤ 28 := by
  cases z with
  | f32 => simp only [Instr.regsLegal, mmazRegs, decide_eq_true_eq]; omega
  | f64 =>
    have head : isQ c = true ↔ 28 ≤ c.toNat := decide_eq_true_iff
    rw [show (Instr.mmaz c .f64).regsLegal = !isQ c from rfl, Bool.not_eq_true', ← Bool.not_eq_true, head, mmazRegs]
    omega

theorem exec_mmaz_illegal {s : State} {c : Reg} {z : ZTy} (hX : s.own.side = .X) (h : 28 < c.toNat + mmazRegs z) :
    exec (.mmaz c z) s = s.illegal 3 := by
  have regs : (Instr.mmaz c z).regsLegal = false := by
    rw [← Bool.not_eq_true, mmaz_regsLegal_iff]
    omega
  rw [exec_mmaz]
  unfold execMmaz
  exact gate_illegal (illegalSub_eq_three hX rfl rfl rfl regs)

/-! ### What the two instructions do -/

theorem exec_mmaz_gives {s : State} {c : Reg} {z : ZTy} (ready : s.ready (.mmaz c z) [] none none) :
    exec (.mmaz c z) s = .next (tileWritten s c (List.replicate (mmazRegs z) 0)) := by
  obtain ⟨legal, -, hstep⟩ := ready
  rw [exec_mmaz]
  unfold execMmaz
  rw [gate_legal legal]
  cases z <;> exact tileWritten_complete c _ hstep

theorem readErr_eq_false {s : State} (calm : s.own.upset = .none) (i e : Nat) : s.readErr i e = false := by
  unfold State.readErr
  rw [calm]

/-- A fold that fills a group beside a part that it keeps. -/
theorem foldl_vSet_fst {β : Type} (regs : List VReg) (w : Nat) (x : Nat → Nat) (n : Nat) (y : β) :
    (List.range n).foldl (fun (acc : List VReg × β) e => (vSet acc.1 w e (x e), acc.2)) (regs, y) =
      (vFill regs w x n, y) := by
  induction n with
  | zero => rfl
  | succ n ih => rw [List.range_succ, List.foldl_append, ih, List.foldl_cons, List.foldl_nil, vFill_succ]

/-- A group of eight registers filled with the tile of `src` transposed (R250). -/
def transposedTile (old src : List VReg) : List VReg :=
  vFill old 16 (fun d => vGet src 16 (64 * (d % 64) + d / 64)) 4096

@[simp] theorem length_transposedTile (old src : List VReg) : (transposedTile old src).length = old.length :=
  length_vFill ..

theorem vGet_transposedTile {old : List VReg} (src : List VReg) (eight : old.length = 8) {r q : Nat} (hr : r < 64)
    (hq : q < 64) : vGet (transposedTile old src) 16 (64 * q + r) = vGet src 16 (64 * r + q) := by
  have fits : 4096 ≤ old.length * perReg 16 := by rw [eight]; decide
  rw [transposedTile, vGet_vFill _ fits _ (by omega), Nat.mul_add_mod, Nat.mod_eq_of_lt hr, Nat.mul_add_div (by decide),
    Nat.div_eq_of_lt hr, Nat.add_zero, Nat.mod_eq_of_lt (vGet_lt ..)]

/-- Without an error in a read, MTRANS writes the transposed tile whole and leaves PSM alone (R250). -/
theorem exec_mtrans_gives {s : State} {c b : Reg} {ty : TTy} (calm : s.own.upset = .none)
    (ready : s.ready (.mtrans c b ty) [] none none) :
    exec (.mtrans c b ty) s = .next (tileWritten s c (transposedTile (s.h.vGroup c 8) (s.h.vGroup b 8))) := by
  obtain ⟨legal, -, hstep⟩ := ready
  rw [exec_mtrans, execMtrans, gate_legal legal]
  have keepsPsm (vs : List VReg) : s.modH (fun h => ((h.setGroup c vs).setPsm s.h.regs.psm).xVstart 0) =
      s.modH (fun h => (h.setGroup c vs).xVstart 0) := rfl
  simp only [readErr_eq_false calm, Bool.false_eq_true, if_false, foldl_vSet_fst, keepsPsm]
  exact tileWritten_complete c _ hstep

/-! ### Words of OP 0x76 -/

/-- OP 0x76 is read by its own table alone. -/
theorem decode_error_of_decMz {d a b : BitVec 5} {fm : BitVec 2} {pg : BitVec 3} {fn : BitVec 5}
    (h : decMz (mkR 0x76 d a b fm pg fn) = none) : ∃ e, decode (mkR 0x76 d a b fm pg fn) = .error e := by
  refine decode_error_of_raw ?_
  unfold decodeRaw
  rw [fOp_mkR]
  exact h

theorem zty_ofBits_eq_none {ty : BitVec 5} (f32 : ty ≠ 9) (f64 : ty ≠ 8) : ZTy.ofBits ty = none := by
  unfold ZTy.ofBits
  split
  · exact absurd rfl f64
  · exact absurd rfl f32
  · rfl

theorem decMz_mmaz_eq_none (c : Reg) {a b : BitVec 5} {pg : BitVec 3} {ty : BitVec 5}
    (h : (a ≠ 0 ∨ b ≠ 0) ∨ pg ≠ 0 ∨ ty ≠ 9 ∧ ty ≠ 8) : decMz (mkR 0x76 c a b 0 pg ty) = none := by
  simp only [decMz, fFM_mkR, fFN_mkR, fA_mkR, fB_mkR, fPG_mkR, fD_mkR]
  change (ZTy.ofBits ty).bind _ = none
  rw [Option.bind_eq_none_iff]
  intro z type
  refine if_neg ?_
  simp only [Bool.and_eq_true, beq_iff_eq]
  rintro ⟨⟨rfl, rfl⟩, rfl⟩
  rcases h with (h | h) | h | ⟨f32, f64⟩
  · exact h rfl
  · exact h rfl
  · exact h rfl
  · rw [zty_ofBits_eq_none f32 f64] at type
    cases type

/-- The word of MMAZ with its A and B fields as one. -/
theorem mmaz_word (c : Reg) (ab : BitVec 10) (pg : BitVec 3) (ty : BitVec 5) :
    (0x76#7 ++ c ++ ab ++ 0#2 ++ pg ++ ty : BitVec 32) = mkR 0x76 c (ab.extractLsb' 5 5) (ab.extractLsb' 0 5) 0 pg ty := by
  apply BitVec.eq_of_toNat_eq
  simp only [mkR, toNat_append_eq_add, BitVec.extractLsb'_toNat, Nat.shiftRight_eq_div_pow, BitVec.ofNat_eq_ofNat,
    BitVec.toNat_ofNat]
  omega

theorem field_ne_zero {ab : BitVec 10} (h : ab ≠ 0) : ab.extractLsb' 5 5 ≠ 0 ∨ ab.extractLsb' 0 5 ≠ 0 := by
  refine Decidable.or_iff_not_imp_left.mpr (fun high low => h ?_)
  have a := congrArg BitVec.toNat (Decidable.not_not.mp high)
  have b := congrArg BitVec.toNat low
  simp only [BitVec.extractLsb'_toNat, Nat.shiftRight_eq_div_pow, BitVec.ofNat_eq_ofNat, BitVec.toNat_ofNat] at a b
  apply BitVec.eq_of_toNat_eq
  simp only [BitVec.ofNat_eq_ofNat, BitVec.toNat_ofNat]
  omega

theorem decode_mmaz (c : Reg) (z : ZTy) : decode (0x76#7 ++ c ++ 0#10 ++ 0#2 ++ 0#3 ++ z.bits) = .ok (.mmaz c z) := by
  rw [mmaz_word]
  exact RoundTrip.mmaz c z rfl

/-- Settles O40: the words by the table of OP 0x76; MMAZ writes zeros and MTRANS the transposed tile to the group of C, and
what such a write leaves is said once. -/
theorem tileMoves : Obligations.TileMoves := by
  refine ⟨fun c ab pg ty => ⟨?f32, ?f64, ?noInstruction⟩, fun s c b z ty hX calm => ⟨?limit, ?clears, ?transposes⟩⟩
  case f32 =>
    rintro rfl rfl rfl
    exact decode_mmaz c .f32
  case f64 =>
    rintro rfl rfl rfl
    exact decode_mmaz c .f64
  case noInstruction =>
    intro used
    have undecoded : ∃ e, decode (0x76#7 ++ c ++ ab ++ 0#2 ++ pg ++ ty) = .error e := by
      rw [mmaz_word]
      exact decode_error_of_decMz (decMz_mmaz_eq_none c (used.imp_left field_ne_zero))
    obtain ⟨e, he⟩ := undecoded
    exact ⟨⟨e, he⟩, fun s ir runs calm => exec_illegalWord_gives he ir runs calm⟩
  case limit =>
    intro h
    exact exec_mmaz_illegal hX (by cases z <;> simp only [mmazRegs] at h ⊢ <;> omega)
  case clears =>
    intro ready
    have room := (mmaz_regsLegal_iff c z).mp (regsLegal_of_legal ready.1)
    have fits : c.toNat + (List.replicate (mmazRegs z) (0 : VReg)).length ≤ 32 := by
      rw [List.length_replicate]
      omega
    obtain ⟨xkeeps, pkeeps, x, q, psm, csr⟩ := tileWritten_keeps c (List.replicate (mmazRegs z) 0) hX
    refine ⟨_, exec_mmaz_gives ready, xkeeps, pkeeps, x, q, psm, csr, ?_, ?_,
      fun r _ ne pair => tileWritten_other hX fits ?_⟩
    · rw [tileWritten_vGroup hX fits (by cases z <;> decide)]
      cases z <;> rfl
    · rintro rfl
      exact tileWritten_vGroup hX fits (Nat.le_refl 2)
    · rw [List.length_replicate]
      cases z with
      | f64 =>
        rw [mmazRegs]
        omega
      | f32 =>
        have second : r ≠ c.toNat + 1 := fun eq => pair ⟨rfl, eq⟩
        rw [mmazRegs]
        omega
  case transposes =>
    intro ready
    have room := mtrans_room (regsLegal_of_legal ready.1)
    have eight : (transposedTile (s.h.vGroup c 8) (s.h.vGroup b 8)).length = 8 := by
      rw [length_transposedTile, length_vGroup]
    have fits : c.toNat + (transposedTile (s.h.vGroup c 8) (s.h.vGroup b 8)).length ≤ 32 := by omega
    obtain ⟨xkeeps, pkeeps, x, q, psm, csr⟩ := tileWritten_keeps c (transposedTile (s.h.vGroup c 8) (s.h.vGroup b 8)) hX
    refine ⟨_, exec_mtrans_gives calm ready, xkeeps, pkeeps, x, q, psm, csr, fun r hr q hq => ?_,
      fun r _ out => tileWritten_other hX fits (by omega)⟩
    rw [tileWritten_vGroup hX fits (Nat.le_of_eq eight.symm), List.take_of_length_le (Nat.le_of_eq eight),
      vGet_transposedTile _ (length_vGroup ..) hr hq]

end Sys2Proof.Proofs

/-! PROOF. The barrier, SIGW and YIELD (R325 to R331, R344). -/

namespace Sys2Proof.Proofs
open Sys2Proof Sys2Proof.Machine Sys2Proof.Laws

/-! ### Words of OP 0x7C -/

/-- OP 0x7C is read by its own table alone. -/
theorem decode_error_of_decSync {d a b : BitVec 5} {fm : BitVec 2} {pg : BitVec 3} {fn : BitVec 5}
    (h : decSync (mkR 0x7C d a b fm pg fn) = none) : ∃ e, decode (mkR 0x7C d a b fm pg fn) = .error e := by
  refine decode_error_of_raw ?_
  unfold decodeRaw
  rw [fOp_mkR]
  exact h

/-- YIELD has no operand. -/
theorem decSync_yield_eq_none {d a b : BitVec 5} {fm : BitVec 2} {pg : BitVec 3}
    (used : ¬ (d = 0 ∧ a = 0 ∧ b = 0 ∧ fm = 0 ∧ pg = 0)) : decSync (mkR 0x7C d a b fm pg 4) = none := by
  simp only [decSync, plain, fFN_mkR, fFM_mkR, fPG_mkR, fD_mkR, fA_mkR, fB_mkR]
  refine if_neg ?_
  simp only [Bool.and_eq_true, beq_iff_eq]
  rintro ⟨⟨⟨⟨fm0, pg0⟩, d0⟩, a0⟩, b0⟩
  exact used ⟨d0, a0, b0, fm0, pg0⟩

/-- BARQ names d alone. -/
theorem decSync_barq_eq_none (d : BitVec 5) {a b : BitVec 5} {fm : BitVec 2} {pg : BitVec 3}
    (used : ¬ (a = 0 ∧ b = 0 ∧ fm = 0 ∧ pg = 0)) : decSync (mkR 0x7C d a b fm pg 2) = none := by
  simp only [decSync, plain, fFN_mkR, fFM_mkR, fPG_mkR, fA_mkR, fB_mkR]
  refine if_neg ?_
  simp only [Bool.and_eq_true, beq_iff_eq]
  rintro ⟨⟨⟨fm0, pg0⟩, b0⟩, a0⟩
  exact used ⟨a0, b0, fm0, pg0⟩

/-- A word of the R format with its A, B, FM and PG fields as one. -/
theorem append_eq_mkR (op : BitVec 7) (d : BitVec 5) (x : BitVec 15) (fn : BitVec 5) :
    (op ++ d ++ x ++ fn : BitVec 32) =
      mkR op d (x.extractLsb' 10 5) (x.extractLsb' 5 5) (x.extractLsb' 3 2) (x.extractLsb' 0 3) fn := by
  apply BitVec.eq_of_toNat_eq
  simp only [mkR, toNat_append_eq_add, BitVec.extractLsb'_toNat, Nat.shiftRight_eq_div_pow]
  omega

theorem toNat_of_field_eq_zero {w i n : Nat} {x : BitVec w} (h : x.extractLsb' i n = 0) : x.toNat / 2 ^ i % 2 ^ n = 0 := by
  simpa only [BitVec.extractLsb'_toNat, Nat.shiftRight_eq_div_pow, BitVec.ofNat_eq_ofNat, BitVec.toNat_ofNat,
    Nat.zero_mod] using congrArg BitVec.toNat h

theorem eq_zero_of_fields {x : BitVec 15} (a : x.extractLsb' 10 5 = 0) (b : x.extractLsb' 5 5 = 0)
    (fm : x.extractLsb' 3 2 = 0) (pg : x.extractLsb' 0 3 = 0) : x = 0 := by
  have ha := toNat_of_field_eq_zero a
  have hb := toNat_of_field_eq_zero b
  have hfm := toNat_of_field_eq_zero fm
  have hpg := toNat_of_field_eq_zero pg
  apply BitVec.eq_of_toNat_eq
  simp only [BitVec.ofNat_eq_ofNat, BitVec.toNat_ofNat]
  omega

/-- The D field of a word stands above its A, B, FM and PG fields. -/
theorem append_eq_append_fields (op : BitVec 7) (x : BitVec 20) (fn : BitVec 5) :
    (op ++ x ++ fn : BitVec 32) = op ++ x.extractLsb' 15 5 ++ x.extractLsb' 0 15 ++ fn := by
  apply BitVec.eq_of_toNat_eq
  simp only [toNat_append_eq_add, BitVec.extractLsb'_toNat, Nat.shiftRight_eq_div_pow]
  omega

theorem eq_zero_of_halves {x : BitVec 20} (d : x.extractLsb' 15 5 = 0) (rest : x.extractLsb' 0 15 = 0) : x = 0 := by
  have hd := toNat_of_field_eq_zero d
  have hrest := toNat_of_field_eq_zero rest
  apply BitVec.eq_of_toNat_eq
  simp only [BitVec.ofNat_eq_ofNat, BitVec.toNat_ofNat]
  omega

theorem decode_yield_error {x : BitVec 20} (used : x ≠ 0) : ∃ e, decode (0x7C#7 ++ x ++ 4#5) = .error e := by
  rw [append_eq_append_fields, append_eq_mkR]
  refine decode_error_of_decSync (decSync_yield_eq_none ?_)
  rintro ⟨d, a, b, fm, pg⟩
  exact used (eq_zero_of_halves d (eq_zero_of_fields a b fm pg))

theorem decode_barq_error (d : Reg) {x : BitVec 15} (used : x ≠ 0) : ∃ e, decode (0x7C#7 ++ d ++ x ++ 2#5) = .error e := by
  rw [append_eq_mkR]
  refine decode_error_of_decSync (decSync_barq_eq_none d ?_)
  rintro ⟨a, b, fm, pg⟩
  exact used (eq_zero_of_fields a b fm pg)

theorem decode_yield : decode (0x7C#7 ++ 4#25) = .ok .yield := RoundTrip.yield rfl

theorem decode_barq (d : Reg) : decode (0x7C#7 ++ d ++ 2#20) = .ok (.barq d) := by
  have h : encode (.barq d) = 0x7C#7 ++ d ++ 2#20 := by
    change mkR 0x7C d 0 0 0 0 2 = _
    apply BitVec.eq_of_toNat_eq
    simp only [mkR, toNat_append_eq_add, BitVec.ofNat_eq_ofNat, BitVec.toNat_ofNat]
    omega
  rw [← h]
  exact RoundTrip.barq d rfl

/-! ### Beginning a wait (R23) -/

/-- The running sequencer waits for `i` from now on. -/
def waiting (s : State) (i : Instr) (limit : Nat) (line : Option Nat) : State :=
  s.setSeq { s.seq with wait := some { instr := i, queue := none, since := s.now, limit := some limit, line := line } }

section Wait
variable {s : State} (fresh : s.seq.wait = none)
include fresh

theorem expired_eq_none (i : Instr) : s.expired i = none := by
  unfold State.expired
  rw [fresh]

theorem sleepOn_fresh (i : Instr) (limit : Nat) (line : Option Nat) :
    s.sleepOn i none (some limit) line = waiting s i limit line := by
  unfold State.sleepOn State.waits
  rw [fresh]
  rfl

theorem waitOr_fresh (i : Instr) (limit : Nat) (tval2 : Word) :
    s.waitOr i limit tval2 = .next (waiting s i limit none) := by
  rw [State.waitOr, expired_eq_none fresh]
  exact congrArg _ (sleepOn_fresh fresh i limit none)

end Wait

/-! ### YIELD -/

/-- YIELD is of both sides and has no operand, so it is legal wherever it stands (R344). -/
theorem illegalSub_yield (s : State) : s.illegalSub .yield = none := rfl

theorem yieldStop_true (h : Hart) (q : Seq) :
    yieldStop h q true = { q with stop := if h.csr.preq = true ∧ h.tr.smode = false then some .yield else q.stop } := by
  simp only [yieldStop, Bool.true_and, Bool.and_eq_true, Bool.not_eq_true']
  split <;> rfl

theorem exec_yield_gives {s : State} (hstep : s.unstepped = true) :
    exec .yield s = .next (s.setSeq { s.seq.advance with
      stop := if s.h.csr.preq = true ∧ s.h.tr.smode = false then some .yield else s.seq.advance.stop }) := by
  rw [exec_yield, execYield, gate_legal (illegalSub_yield s), yieldStop_true]
  exact stepTrap_unstepped ((unstepped_of_eq (setSeq_own s _) (setSeq_tr s _)).trans hstep)

/-! ### Changing the harts of a caravan -/

/-- Whatever a change of one hart leaves alone, a change of several leaves alone. -/
theorem modHarts_same {α : Type} {g : State → α} (same : ∀ s k f, g (State.modHart s k f) = g s) (s : State)
    (ks : List HartKey) (f : Hart → Hart) : g (s.modHarts ks f) = g s := by
  induction ks generalizing s with
  | nil => rfl
  | cons k ks ih => exact (ih (s.modHart k f)).trans (same s k f)

@[simp] theorem modHarts_own (s : State) (ks : List HartKey) (f : Hart → Hart) : (s.modHarts ks f).own = s.own :=
  modHarts_same (fun _ _ _ => rfl) s ks f

@[simp] theorem modHarts_mem (s : State) (ks : List HartKey) (f : Hart → Hart) : (s.modHarts ks f).mem = s.mem :=
  modHarts_same (fun _ _ _ => rfl) s ks f

@[simp] theorem carOf_modHarts (s : State) (ks : List HartKey) (f : Hart → Hart) (c : CarId) :
    (s.modHarts ks f).carOf c = s.carOf c :=
  modHarts_same (g := fun s => s.carOf c) (fun _ _ _ => rfl) s ks f

theorem hart_modHart (s : State) (k j : HartKey) (f : Hart → Hart) :
    (s.modHart k f).hart j = if j = k then f (s.hart k) else s.hart j := by
  split
  · next eq => rw [eq, hart_modHart_same]
  · next ne => exact hart_modHart_other s f ne

/-- A change that is the same when it is made twice reaches each hart of the list. -/
theorem hart_modHarts {f : Hart → Hart} (twice : ∀ h, f (f h) = f h) (s : State) (ks : List HartKey) (j : HartKey) :
    (s.modHarts ks f).hart j = if j ∈ ks then f (s.hart j) else s.hart j := by
  induction ks generalizing s with
  | nil => rfl
  | cons k ks ih =>
    have head : (s.modHarts (k :: ks) f).hart j = ((s.modHart k f).modHarts ks f).hart j := rfl
    rw [head, ih, hart_modHart]
    by_cases eq : j = k
    · subst eq
      simp [twice]
    · simp [eq]

theorem mem_carHarts {c : CarId} {size j : Nat} (h : j < size) : (⟨c.die, c.slot, j⟩ : HartKey) ∈ carHarts c size :=
  List.mem_map.mpr ⟨j, List.mem_range.mpr h, rfl⟩

/-! ### The barrier register (R325, R326) -/

/-- Every hart of the caravan has arrived. -/
def AllArrived (c : Caravan) : Prop := c.arrived &&& sizeMask c.size = sizeMask c.size

theorem settle_full {c : Caravan} (h : AllArrived c) : c.settle = { c with phase := !c.phase, arrived := c.ended } :=
  if_pos h

theorem settle_not_full {c : Caravan} (h : ¬ AllArrived c) : c.settle = c := if_neg h

/-- The barrier register is installed, and of the harts nothing but event bits changes. -/
theorem hart_setBarrier (s : State) (id : CarId) (c : Caravan) (j : HartKey) :
    (s.setBarrier id c).hart j =
      if c.settle.phase ≠ c.phase ∧ j ∈ carHarts id c.size then { s.hart j with event := true } else s.hart j := by
  unfold State.setBarrier
  dsimp only
  by_cases same : c.settle.phase = c.phase
  · rw [if_pos same, if_neg (fun h => h.1 same)]
    rfl
  · have register : (s.setCar id c.settle).hart j = s.hart j := rfl
    rw [if_neg same, hart_modHarts (f := fun h => { h with event := true }) (fun _ => rfl), register]
    simp only [ne_eq, same, not_false_eq_true, true_and]

theorem setBarrier_own (s : State) (id : CarId) (c : Caravan) : (s.setBarrier id c).own = s.own := by
  unfold State.setBarrier
  dsimp only
  split
  · rfl
  · exact modHarts_own ..

theorem setBarrier_mem (s : State) (id : CarId) (c : Caravan) : (s.setBarrier id c).mem = s.mem := by
  unfold State.setBarrier
  dsimp only
  split
  · rfl
  · exact modHarts_mem ..

theorem carOf_setBarrier (s : State) (id : CarId) (c : Caravan) : (s.setBarrier id c).carOf id = c.settle := by
  unfold State.setBarrier
  dsimp only
  split
  · exact carOf_setCar_same ..
  · rw [carOf_modHarts, carOf_setCar_same]

/-- A full count sets the event bit of every hart of the caravan. -/
theorem event_setBarrier {s : State} {id : CarId} {c : Caravan} (full : AllArrived c) {j : Nat} (h : j < c.size) :
    ((s.setBarrier id c).hart ⟨id.die, id.slot, j⟩).event = true := by
  have differs (phase : Bool) : (!phase) ≠ phase := by cases phase <;> decide
  have flips : c.settle.phase ≠ c.phase := by
    rw [settle_full full]
    exact differs c.phase
  rw [hart_setBarrier, if_pos ⟨flips, mem_carHarts h⟩]

/-! ### An arrival (R327) -/

/-- The running hart's caravan with the hart's bit in ARRIVED. -/
def arrival (s : State) : Caravan :=
  { s.caravan s.own.cur with arrived := (s.caravan s.own.cur).arrived ||| hartBit s.own.cur.idx }

theorem arriveBarrier_eq (s : State) : s.arriveBarrier =
    (s.modH (fun h => { h with wph := !(s.caravan s.own.cur).phase })).setBarrier (carKey s.own.cur) (arrival s) :=
  rfl

theorem arriveBarrier_own (s : State) : s.arriveBarrier.own = s.own := setBarrier_own ..

theorem arriveBarrier_mem (s : State) : s.arriveBarrier.mem = s.mem := setBarrier_mem ..

theorem caravan_arriveBarrier (s : State) : s.arriveBarrier.caravan s.own.cur = (arrival s).settle :=
  carOf_setBarrier ..

/-- Of the hart that arrives, WPH and the event bit alone change. -/
theorem h_arriveBarrier (s : State) :
    ∃ e, s.arriveBarrier.h = { s.h with wph := !(s.caravan s.own.cur).phase, event := e } := by
  rw [State.h, arriveBarrier_own, arriveBarrier_eq, hart_setBarrier]
  have arrives : (s.modH (fun h => { h with wph := !(s.caravan s.own.cur).phase })).hart s.own.cur =
      { s.h with wph := !(s.caravan s.own.cur).phase } := h_modH s _
  rw [arrives]
  split
  · exact ⟨true, rfl⟩
  · exact ⟨s.h.event, rfl⟩

theorem seq_arriveBarrier (s : State) : s.arriveBarrier.seq = s.seq := by
  obtain ⟨e, hart⟩ := h_arriveBarrier s
  unfold State.seq
  rw [hart, arriveBarrier_own]
  cases s.own.side <;> rfl

theorem unstepped_arriveBarrier (s : State) : s.arriveBarrier.unstepped = s.unstepped := by
  obtain ⟨e, hart⟩ := h_arriveBarrier s
  exact unstepped_of_eq (arriveBarrier_own s) (by rw [hart])

theorem event_advance (s : State) (j : HartKey) : (s.advance.hart j).event = (s.hart j).event := by
  by_cases eq : j = s.own.cur
  · rw [eq]
    exact (congrArg Hart.event (h_advance s)).trans (hsetSeq_event ..)
  · rw [hart_advance_other s eq]

/-! ### What BARA, BARW and BARQ do -/

/-- A release waits for nothing when the hart's stores have been performed and its commands have ended (R164). -/
theorem mustWait_release_eq_false {s : State} (stores : s.h.mem.pend = []) (commands : s.h.unfinished = []) :
    s.mustWait [] true = false := by
  cases load : s.h.mem.pendLoad <;> simp [State.mustWait, HartMem.closed, stores, commands, load]

section Barrier
variable {s : State} (hA : s.own.side = .A)
include hA

theorem exec_bara_gives (hstep : s.unstepped = true) (absent : (s.caravan s.own.cur).arrived &&& hartBit s.own.cur.idx = 0)
    (stores : s.h.mem.pend = []) (commands : s.h.unfinished = []) :
    exec .bara s = .next s.arriveBarrier.advance := by
  rw [exec_bara, execBara, gate_legal (illegalSub_eq_none hA rfl rfl rfl rfl rfl rfl)]
  simp only [absent, ne_eq, not_true_eq_false, if_false, mustWait_release_eq_false stores commands, Bool.false_eq_true]
  exact complete_unstepped ((unstepped_arriveBarrier s).trans hstep)

theorem exec_bara_waits (present : (s.caravan s.own.cur).arrived &&& hartBit s.own.cur.idx ≠ 0)
    (fresh : s.seq.wait = none) : exec .bara s = .next (waiting s .bara s.h.qwaitOf none) := by
  rw [exec_bara, execBara, gate_legal (illegalSub_eq_none hA rfl rfl rfl rfl rfl rfl)]
  dsimp only
  rw [if_pos present, waitOr_fresh fresh]

theorem exec_barw_gives (hstep : s.unstepped = true) (b : Reg) (flipped : (s.caravan s.own.cur).phase = s.h.wph) :
    exec (.barw b) s = .next s.advance := by
  rw [exec_barw, execBarw, gate_legal (illegalSub_eq_none hA rfl rfl rfl rfl rfl rfl)]
  dsimp only
  rw [if_pos flipped, complete_unstepped hstep]

theorem exec_barw_waits (b : Reg) (unflipped : (s.caravan s.own.cur).phase ≠ s.h.wph) (fresh : s.seq.wait = none) :
    exec (.barw b) s = .next (waiting s (.barw b) (s.barLimit b) none) := by
  rw [exec_barw, execBarw, gate_legal (illegalSub_eq_none hA rfl rfl rfl rfl rfl rfl)]
  dsimp only
  rw [if_neg unflipped, waitOr_fresh fresh]

theorem exec_barq_gives (hstep : s.unstepped = true) (d : Reg) :
    exec (.barq d) s = .next (s.modH (fun h => h.writeA d (s.caravan s.own.cur).barqWord)).advance := by
  rw [exec_barq, execBarq, gate_legal (illegalSub_eq_none hA rfl rfl rfl rfl rfl rfl)]
  exact modH_writeA_complete hstep d _

end Barrier

/-! ### What SIGW does with the word it reads -/

/-- A checked address of class 6 has a place of class 6 (R110). -/
theorem winClass_ne_six {s : State} {k : HartKey} {g : Word} {n e : Nat} {need : Need} {p : Place}
    (checked : checkElem s k g n need e = .ok p) (ne : p.cls ≠ 6) : winClass s k g ≠ 6 := by
  intro six
  unfold checkElem at checked
  split at checked
  · cases checked
  · split at checked
    · cases checked
    · simp only [resolve, six, Except.ok.injEq] at checked
      exact ne (by rw [← checked])

/-- An access waits for nothing when every earlier access of the hart has been performed. -/
theorem mustWait_quiet_eq_false {s : State} (quiet : s.quiet) {p : Place} (rd : p.rd = none) (n : Nat) :
    s.mustWait [(p, n)] false = false := by
  obtain ⟨stores, load⟩ := quiet
  simp [State.mustWait, HartMem.closed, stores, load, rd, rdHeld]

theorem readAs_quiet {s : State} (quiet : s.quiet) (p : Place) (n : Nat) :
    s.readAs s.own.cur p.key n = (memBytes s.mem p.key n, s.psnAt p n) := by
  have stores : (s.hart s.own.cur).mem.pend = [] := quiet.1
  unfold State.readAs
  rw [stores]
  rfl

section Sigw
variable {s : State} (hA : s.own.side = .A) {d a b : Reg} {p : Place} (reaches : s.reaches (s.h.readA a) 8 needR p)
include hA reaches

/-- SIGW whose word can be read decides by its poison, its FAIL and its value (R331). -/
theorem exec_sigw_eq : exec (.sigw d a b) s =
    if s.psnAt p 8 then s.raise cPoison (s.h.readA a) 0
    else if bytesNat (memBytes s.mem p.key 8) ≥ 2 ^ 63 ∨
        bytesNat (memBytes s.mem p.key 8) ≥ (s.h.readA d).toNat % 2 ^ 63 then
      (s.modH (fun h => h.writeA d (word (bytesNat (memBytes s.mem p.key 8))))).complete
    else s.sigwSleep (.sigw d a b) (s.barLimit b) (s.h.readA a) p.key := by
  obtain ⟨checked, cls, rd, quiet, -⟩ := reaches
  rw [exec_sigw, execSigw, gate_legal (illegalSub_eq_none hA rfl rfl rfl rfl rfl rfl)]
  dsimp only
  rw [if_neg (winClass_ne_six checked cls), checked]
  dsimp only
  rw [mustWait_quiet_eq_false quiet rd, readAs_quiet quiet]
  rfl

theorem exec_sigw_raises (psn : s.psnAt p 8 = true) :
    exec (.sigw d a b) s = .next (s.takeTrap ⟨cPoison, s.h.readA a, 0⟩ s.seq.pc) := by
  rw [exec_sigw_eq hA reaches, if_pos psn]
  rfl

variable (clean : s.psnAt p 8 = false)
include clean

theorem exec_sigw_gives (hstep : s.unstepped = true)
    (enough : bytesNat (memBytes s.mem p.key 8) ≥ 2 ^ 63 ∨
      bytesNat (memBytes s.mem p.key 8) ≥ (s.h.readA d).toNat % 2 ^ 63) :
    exec (.sigw d a b) s =
      .next (s.modH (fun h => h.writeA d (word (bytesNat (memBytes s.mem p.key 8))))).advance := by
  rw [exec_sigw_eq hA reaches, clean, if_neg Bool.false_ne_true, if_pos enough]
  exact modH_writeA_complete hstep d _

theorem exec_sigw_waits (success : bytesNat (memBytes s.mem p.key 8) < 2 ^ 63)
    (small : bytesNat (memBytes s.mem p.key 8) < (s.h.readA d).toNat % 2 ^ 63) (fresh : s.seq.wait = none) :
    ∃ l, exec (.sigw d a b) s = .next (waiting s (.sigw d a b) (s.barLimit b) l) := by
  refine ⟨if keyIsHost p.key then none else some (p.key / 64 * 64), ?_⟩
  rw [exec_sigw_eq hA reaches, clean, if_neg Bool.false_ne_true, if_neg (by omega), State.sigwSleep,
    expired_eq_none fresh]
  exact congrArg _ (sleepOn_fresh fresh ..)

end Sigw

/-- Settles O44: the words by the table of OP 0x7C; YIELD as a yield point; an arrival by what it leaves of the barrier
register and the harts; BARW, BARQ and SIGW by what each does with the value it reads. -/
theorem barriersAndSignals : Obligations.BarriersAndSignals := by
  refine ⟨⟨decode_yield, decode_barq, fun _ => decode_yield_error, fun d _ => decode_barq_error d⟩,
    fun s d a b hstep => ⟨exec_yield_gives hstep, fun hA => ⟨?arrives, exec_bara_waits hA, exec_barw_gives hA hstep b,
      exec_barw_waits hA b, exec_barq_gives hA hstep d, fun p reaches => ⟨exec_sigw_raises hA reaches,
        fun clean => exec_sigw_gives hA reaches clean hstep, exec_sigw_waits hA reaches⟩⟩⟩⟩
  case arrives =>
    intro absent stores commands
    obtain ⟨e, hart⟩ := h_arriveBarrier s
    refine ⟨_, exec_bara_gives hA hstep absent stores commands, ?register, ?wph, fun full j hj => ?event, ?regs, ?csr,
      arriveBarrier_mem s, advance_pc_congr (by rw [seq_arriveBarrier]) (by rw [seq_arriveBarrier])⟩
    case register =>
      refine (caravan_arriveBarrier s).trans ?_
      split
      · next full => exact settle_full full
      · next more => exact settle_not_full more
    case wph => rw [h_advance, hsetSeq_wph, hart]
    case event =>
      rw [event_advance]
      exact event_setBarrier (c := arrival s) full hj
    case regs => rw [h_advance, hsetSeq_regs, hart]
    case csr => rw [h_advance, hsetSeq_csr, hart]

end Sys2Proof.Proofs
